-- ==== Sys2Proof/Syntax.lean ====
section
/-!
DEFINITION. The commands of the module: one constructor of `Instr` for each row of spec/opcode_table.json, with the
operands the spec's rules give the operation, and the small types those operands are written in.

A row that is an instruction of a core carries `At`: the core and context that issue it, the guard of the word (R134)
and whether a bit of the word that its format reserves is nonzero (R136). A row that is an event carries what the
event depends on and the module cannot know by itself: a measurement, a received flit, the outcome of a test.
-/

namespace Sys2Proof

/-- A hardware context: the module core number (R1) and the context number 0-3. -/
structure CtxId where
  core : Fin 256
  n : Fin 4
  deriving DecidableEq, Repr

/-- Privilege levels (R13): Hub firmware, host driver, job context. -/
inductive Priv where
  | hub | driver | job
  deriving DecidableEq, Repr

/-- Widths of an access to the control window that reach a register (R4). -/
inductive CtlSize where
  | w4 | w8
  deriving DecidableEq, Repr

/-- An access to the control window: its privilege, its offset and its width (R4). -/
structure CtlAcc where
  priv : Priv
  off : BitVec 30
  size : CtlSize
  deriving DecidableEq, Repr

/-- What every instruction of a core carries: the context that issues it, GP and GN of R134, and whether a reserved bit
of its words is nonzero, which makes the words illegal (R136). -/
structure At where
  core : Fin 256
  n : Fin 4
  gp : Fin 8
  gn : Bool
  rsv : Bool
  deriving DecidableEq, Repr

/-- A 5-bit register field (R135). -/
abbrev R5 := Fin 32
/-- A tile descriptor name t0-t15. -/
abbrev T4 := Fin 16
/-- An accumulator tile name a0-a7. -/
abbrev A3 := Fin 8
/-- A 32-bit immediate field. -/
abbrev Imm := BitVec 32
/-- An op tag (R147). -/
abbrev OpTag := BitVec 16
/-- A cleat of a core (R198). -/
abbrev Cleat := Fin 256

/-- add or sub (R137). -/
inductive AddSub where
  | add | sub
  deriving DecidableEq, Repr

/-- and, or, xor, on scalar registers or predicates (R137). -/
inductive Logic where
  | and | or | xor
  deriving DecidableEq, Repr

/-- shl, shr, sar (R137). -/
inductive Shift where
  | shl | shr | sar
  deriving DecidableEq, Repr

/-- The relations of cmp (R137). -/
inductive Cmp where
  | eq | ne | lt | ltu | ge | geu
  deriving DecidableEq, Repr

/-- The relations of cmpi (R137). -/
inductive CmpI where
  | eq | lt | ltu | ge
  deriving DecidableEq, Repr

/-- Access widths of ld and st: 1, 2, 4, 8 bytes (R137). -/
inductive Width where
  | b | h | w | d
  deriving DecidableEq, Repr

/-- Access widths of the sign-extending loads (R137). -/
inductive SWidth where
  | bs | hs | ws
  deriving DecidableEq, Repr

/-- The operand pairs of the matrix products, in opcode order (R22, R171). -/
inductive Pair where
  | s4 | s8e4 | s8e4e5 | s8e5e4 | i8 | bf16 | fp16 | fp32
  deriving DecidableEq, Repr

/-- The product fields of FUNC (R178). -/
structure ProdF where
  amode : Fin 4
  rnd : Fin 4
  emask : Fin 16
  z : Bool
  sk : R5
  ga : Bool
  send : Bool
  free : Bool
  deriving DecidableEq, Repr

/-- The FUNC fields of v.red (R188). -/
structure RedF where
  amode : Fin 4
  rnd : Fin 4
  sq : Bool
  ax : Fin 4
  sk : R5
  deriving DecidableEq, Repr

/-- Word 1 of a fused instruction (R192). -/
structure Word1 where
  ph : BitVec 14
  clc : Cleat
  t2 : T4
  seq : BitVec 16
  cap : BitVec 16
  deriving DecidableEq, Repr

/-- A Spoke: S0-S7 (R1). -/
abbrev SpokeId := Fin 8


/-- A packet that is to leave a buffer: its place in it, and what the Rim checks of its flits find (R261): 0 clean, 1 corrected, 2
uncorrectable. -/
structure Leaving where
  nth : Nat
  rim : Fin 3
  deriving DecidableEq, Repr

/-- Health sums of one tensor, or of one format code under 2^24 + code, as another member's step service reports them (R227). -/
structure HealthSum where
  tid : Nat
  conv : Nat
  sat : Nat
  van : Nat
  clash : Bool
  mix : Bool
  deriving DecidableEq, Repr

/-- The commands of the module: the rows of the table, in its order. -/
inductive Instr where
  /-- REGISTER_WRITE (R5): A write to a control register that has no behaviour of its own sets its RW fields, clears W1C bits and sets W1S bits as the access codes define. -/
  | registerWrite (q : CtlAcc) (value : Word)
  /-- RC_COUNTER_READ (R53): A read of an RC field returns the value and then clears it, except from privilege 2, and never loses a same-clock increment. -/
  | rcCounterRead (q : CtlAcc)
  /-- CONTROL_WINDOW_NARROW_ACCESS (R4): An access of 1 or 2 bytes to the control window is an address fault and reads and writes nothing. -/
  | controlWindowNarrowAccess (who : Option At) (off : BitVec 30) (two : Bool) (write : Bool) (value : BitVec 16)
  /-- UNASSIGNED_OFFSET_WRITE (R8): A write to an unassigned control-window offset is ignored, adds 1 to INT_UAWCNT and records the offset in INT_UAWLAST. -/
  | unassignedOffsetWrite (q : CtlAcc) (value : Word)
  /-- HUB_LOCK_WRITE (R7): A privilege-0 or 1 write of ones to HUB_LOCK sets lock bits that freeze the RWL fields of their blocks until module reset. -/
  | hubLockWrite (priv : Priv) (size : CtlSize) (value : Word)
  /-- NOP (R137): nop does nothing and the PC advances. -/
  | nop (a : At)
  /-- ADD_SUB (R137): add or sub writes the modulo 2^64 sum or difference of two scalar registers. -/
  | addSub (a : At) (op : AddSub) (rd : R5) (ra : R5) (rb : R5)
  /-- AND_OR_XOR (R137): and, or or xor writes the bitwise result of two scalar registers. -/
  | andOrXor (a : At) (op : Logic) (rd : R5) (ra : R5) (rb : R5)
  /-- SHL_SHR_SAR (R137): shl, shr or sar shifts a scalar register by the low 6 bits of another. -/
  | shlShrSar (a : At) (op : Shift) (rd : R5) (ra : R5) (rb : R5)
  /-- MUL (R137): mul writes the low 64 bits of the product of two scalar registers. -/
  | mul (a : At) (rd : R5) (ra : R5) (rb : R5)
  /-- MULHU_MULHS (R137): mulhu or mulhs writes the high 64 bits of the unsigned or signed 128-bit product. -/
  | mulhuMulhs (a : At) (signed : Bool) (rd : R5) (ra : R5) (rb : R5)
  /-- MIN_MAX (R137): min or max writes the signed minimum or maximum of two scalar registers. -/
  | minMax (a : At) (max : Bool) (rd : R5) (ra : R5) (rb : R5)
  /-- MINU_MAXU (R137): minu or maxu writes the unsigned minimum or maximum of two scalar registers. -/
  | minuMaxu (a : At) (max : Bool) (rd : R5) (ra : R5) (rb : R5)
  /-- CMP (R137): cmp.eq, .ne, .lt, .ltu, .ge or .geu sets a predicate to whether the relation holds between two scalar registers. -/
  | cmp (a : At) (op : Cmp) (pd : R5) (ra : R5) (rb : R5)
  /-- PAND_POR_PXOR (R137): pand, por or pxor combines two predicates. -/
  | pandPorPxor (a : At) (op : Logic) (pd : R5) (pa : R5) (pb : R5)
  /-- PANDN (R137): pandn sets a predicate to pa AND NOT pb. -/
  | pandn (a : At) (pd : R5) (pa : R5) (pb : R5)
  /-- AMO_ADD (R138): amo.add atomically adds a register to 8 bytes at a global address, locally or remotely on VC3, and returns the old value. -/
  | amoAdd (a : At) (rd : R5) (ra : R5) (rb : R5)
  /-- ADDI_MULI (R137): addi or muli adds or multiplies a scalar register by a sign-extended immediate. -/
  | addiMuli (a : At) (mul : Bool) (rd : R5) (ra : R5) (imm : Imm)
  /-- ANDI_ORI_XORI (R137): andi, ori or xori applies a bitwise operation with a zero-extended immediate. -/
  | andiOriXori (a : At) (op : Logic) (rd : R5) (ra : R5) (imm : Imm)
  /-- SHLI_SHRI_SARI (R137): shli, shri or sari shifts a scalar register by an immediate amount. -/
  | shliShriSari (a : At) (op : Shift) (rd : R5) (ra : R5) (imm : Imm)
  /-- LI (R137): li loads a sign-extended immediate into a scalar register. -/
  | li (a : At) (rd : R5) (imm : Imm)
  /-- LUI (R137): lui writes the immediate into bits [63:32] of a scalar register and keeps bits [31:0]. -/
  | lui (a : At) (rd : R5) (imm : Imm)
  /-- CMPI (R137): cmpi.eq, .lt, .ltu or .ge sets a predicate from a comparison with an immediate. -/
  | cmpi (a : At) (op : CmpI) (pd : R5) (ra : R5) (imm : Imm)
  /-- SRD (R128): srd reads a special register into a scalar register. -/
  | srd (a : At) (rd : R5) (imm : Imm)
  /-- SWR (R128): swr writes a scalar register into the writable special register MBATCH or LAYER. -/
  | swr (a : At) (imm : Imm) (ra : R5)
  /-- LD (R138): ld.b, ld.h, ld.w or ld.d loads 1 to 8 bytes from a global address with zero extension, remotely on VC5. -/
  | ld (a : At) (w : Width) (rd : R5) (ra : R5) (imm : Imm)
  /-- LD_SIGNED (R138): ld.bs, ld.hs or ld.ws loads with sign extension from a global address. -/
  | ldSigned (a : At) (w : SWidth) (rd : R5) (ra : R5) (imm : Imm)
  /-- ST (R138): st.b, st.h, st.w or st.d stores the low bytes of a register to a global address, completing at its target. -/
  | st (a : At) (w : Width) (rd : R5) (ra : R5) (imm : Imm)
  /-- STORE_TARGET_FAULT (R138): A fault that a store meets only at its target is reported asynchronously and halts the context at its next instruction boundary. -/
  | storeTargetFault (x : CtxId)
  /-- BR (R139): br branches relative to the instruction address. -/
  | br (a : At) (imm : Imm)
  /-- CALL (R139): call writes the return address to a register and branches. -/
  | call (a : At) (rd : R5) (imm : Imm)
  /-- JR (R139): jr branches to a register plus an offset. -/
  | jr (a : At) (ra : R5) (imm : Imm)
  /-- LOOP (R139): loop decrements a register and branches while it is nonzero. -/
  | loop (a : At) (ra : R5) (imm : Imm)
  /-- HALT (R139): halt waits for every earlier instruction and stream of the context, ends the program and compares the task's cleats. -/
  | halt (a : At)
  /-- TRAP (R139): trap raises a software fault with its immediate in CTXn_FLT2. -/
  | trap (a : At) (imm : Imm)
  /-- FENCE_M (R139): fence.m waits until every earlier scalar access and tcopy of the context is complete at its target. -/
  | fenceM (a : At)
  /-- FENCE_T (R139): fence.t waits until every earlier instruction of the context has completed in every unit. -/
  | fenceT (a : At)
  /-- CTXC (R139): ctxc issues a context command to a context of the same core from a privilege-1 context. -/
  | ctxc (a : At) (ra : R5) (imm : Imm)
  /-- TLD (R141): tld loads a 64-byte tile descriptor from memory. -/
  | tld (a : At) (td : T4) (sa : R5) (tag : OpTag)
  /-- TST (R141): tst stores a 64-byte tile descriptor to memory. -/
  | tst (a : At) (sa : R5) (ts : T4) (tag : OpTag)
  /-- TGET (R141): tget copies one word of a descriptor into a scalar register. -/
  | tget (a : At) (sa : R5) (ts : T4) (w : Fin 8) (tag : OpTag)
  /-- TPUT (R141): tput writes a scalar register into one word of a descriptor. -/
  | tput (a : At) (td : T4) (w : Fin 8) (sa : R5) (tag : OpTag)
  /-- TADV (R142): tadv moves a descriptor's window by rows or columns, wrapping addresses within its ring. -/
  | tadv (a : At) (td : T4) (sa : R5) (dir : Bool) (tag : OpTag)
  /-- TCOPY (R143): tcopy starts a background copy of one window into another without conversion. -/
  | tcopy (a : At) (td : T4) (ts : T4) (cl : Cleat) (tag : OpTag)
  /-- TCOPY_COMPLETE (R143): A finished tcopy adds 1 to its completion cleat. -/
  | tcopyComplete (x : CtxId) (nth : Nat)
  /-- PUMP_STREAM (R143): pump.stream starts a stream of N window transfers through a ring of DEPTH + 1 buffers. -/
  | pumpStream (a : At) (td : T4) (ts : T4) (sa : R5) (sb : R5) (dir : Bool) (depth : Fin 16) (cl : Cleat) (tag : OpTag)
  /-- PUMP_TRANSFER_START (R143): A stream starts transfer i once its credit cleat shows buffer i - B freed. -/
  | pumpTransferStart (x : CtxId) (nth : Nat)
  /-- PUMP_TRANSFER_COMPLETE (R143): A stream transfer completes in order and adds 1 to cleat CL. -/
  | pumpTransferComplete (x : CtxId) (nth : Nat)
  /-- PUMP_STOP (R145): pump.stop lets started transfers finish and starts no more transfers of the context's streams on that cleat. -/
  | pumpStop (a : At) (cl : Cleat) (tag : OpTag)
  /-- PUMP_CACHE (R250): pump.cache starts bringing a DRAM window into the cluster cache. -/
  | pumpCache (a : At) (ts : T4) (cl : Cleat) (tag : OpTag)
  /-- PUMP_CACHE_COMPLETE (R251): A pump.cache finishes its fills, counting lines not installed, and adds 1 to its cleat. -/
  | pumpCacheComplete (x : CtxId) (nth : Nat)
  /-- SPRK_GATHER (R254): sprk.gather starts gathering indexed table rows into a Cassette window on the Sprocket path. -/
  | sprkGather (a : At) (td : T4) (ts : T4) (sa : R5) (cl : Cleat) (zpad : Bool) (tag : OpTag)
  /-- SPRK_GATHER_COMPLETE (R255): When every gathered row has been written, the completion cleat advances by 1. -/
  | sprkGatherComplete (x : CtxId) (nth : Nat)
  /-- BACKGROUND_TRANSFER_FAULT (R146): A fault found in a background transfer stops its stream, writes nothing and halts the context at its next boundary with ASYNC set. -/
  | backgroundTransferFault (x : CtxId)
  /-- MMA (R180): mma.pair adds the exact product of two operand windows into an accumulator slot on the anchor grid. -/
  | mma (a : At) (pair : Pair) (ad : A3) (ta : T4) (tb : T4) (tc : T4) (f : ProdF) (tag : OpTag)
  /-- ACC_LD (R183): acc.ld adds a stored A128 tensor into a slot as terms of the operation at its anchor. -/
  | accLd (a : At) (ad : A3) (ta : T4) (tc : T4) (f : ProdF) (tag : OpTag)
  /-- ACC_ST (R184): acc.st stores a slot in full, A64 or A48 form with its state plane and header. -/
  | accSt (a : At) (ta : T4) (ad : A3) (free : Bool) (tag : OpTag)
  /-- ACC_CVT (R185): acc.cvt converts a slot, optionally through a function, into a storage format with scales from history. -/
  | accCvt (a : At) (ta : T4) (ad : A3) (free : Bool) (fn : Fin 16) (tag : OpTag)
  /-- OP_BEGIN (R173): op.begin waits for earlier work, checks placement, reads the raise offset and opens an operation bracket with its replay image. -/
  | opBegin (a : At) (clb : Cleat) (cln : Fin 16) (sa : R5) (tag : OpTag)
  /-- OP_END (R175): op.end marks the end of the bracket and waits until the attempt is sealed and complete. -/
  | opEnd (a : At) (cl : Cleat) (sig : Bool) (tag : OpTag)
  /-- PARTICIPANT_SEAL (R175): Once op.end has issued and every accumulating instruction has formed its last product without overflow, the participant sends a seal notice. -/
  | participantSeal (x : CtxId)
  /-- ATTEMPT_COMMIT (R175): When the attempt is sealed and the bracket's instructions have completed, the attempt commits, the bracket closes and cleat CL advances if SIG is 1. -/
  | attemptCommit (x : CtxId)
  /-- V_OP (R186): v.op performs an element-wise arithmetic, comparison or conversion operation over windows. -/
  | vOp (a : At) (tc : T4) (ta : T4) (tb : T4) (opc : Fin 32) (bmode : Fin 4) (tag : OpTag)
  /-- V_FN (R186): v.fn applies a correctly rounded function element-wise. -/
  | vFn (a : At) (tc : T4) (ta : T4) (fn : Fin 16) (tag : OpTag)
  /-- V_DFN (R186): v.dfn evaluates a function's derivative at the forward input and multiplies it by b. -/
  | vDfn (a : At) (tc : T4) (ta : T4) (tb : T4) (fn : Fin 16) (bmode : Fin 4) (tag : OpTag)
  /-- V_RED (R188): v.red forms an exact sum or sum of squares along an axis into a slot. -/
  | vRed (a : At) (ad : A3) (ta : T4) (tc : T4) (f : RedF) (tag : OpTag)
  /-- BP_GW (R189): bp.gw converts a slot into S8E5 and writes both blocked copies in one pass. -/
  | bpGw (a : At) (ta : T4) (tb : T4) (ad : A3) (free : Bool) (tag : OpTag)
  /-- CRANK_UPD (R216): crank.upd updates BM16 weights and moments by the momentum SGD or Adam rule with dithered rounding. -/
  | crankUpd (a : At) (ta : T4) (tb : T4) (tc : T4) (tg : T4) (sp : R5) (rule : Fin 4) (tag : OpTag)
  /-- MMA_RS (R193): mma.rs forms this member's partial sum and, with SEND, sends the slot as sum records for reduction. -/
  | mmaRs (a : At) (pair : Pair) (ad : A3) (ta : T4) (tb : T4) (tc : T4) (f : ProdF) (tag : OpTag) (w1 : Word1)
  /-- AG_MMA (R194): ag.mma gathers one operand from every member and then multiplies. -/
  | agMma (a : At) (pair : Pair) (ad : A3) (ta : T4) (tb : T4) (tc : T4) (f : ProdF) (tag : OpTag) (w1 : Word1)
  /-- XD_DISP (R195): xd.disp sends token rows to the members that hold their experts, dropping rows beyond capacity. -/
  | xdDisp (a : At) (ta : T4) (tb : T4) (f : ProdF) (tag : OpTag) (w1 : Word1)
  /-- XD_COMB (R196): xd.comb returns expert output rows and forms the gate-weighted exact sums at each source. -/
  | xdComb (a : At) (ta : T4) (tb : T4) (tc : T4) (f : ProdF) (tag : OpTag) (w1 : Word1)
  /-- CL_ADD (R199): cl.add adds a sign-extended immediate to a local cleat. -/
  | clAdd (a : At) (cl : Cleat) (imm : Imm)
  /-- CL_ADDR (R199): cl.addr adds a scalar register to a local cleat. -/
  | clAddr (a : At) (cl : Cleat) (sa : R5)
  /-- CL_WAIT (R200): cl.wait makes the context wait until the cleat minus a register reaches an immediate. -/
  | clWait (a : At) (cl : Cleat) (sa : R5) (imm : Imm)
  /-- CLEAT_WAIT_SATISFIED (R202): A waiting condition that becomes true lets the context issue from the next clock. -/
  | cleatWaitSatisfied (x : CtxId)
  /-- CL_TEST (R199): cl.test sets a predicate to the cl.wait condition without waiting. -/
  | clTest (a : At) (pd : R5) (cl : Cleat) (sa : R5) (imm : Imm)
  /-- CL_RD (R199): cl.rd reads a cleat into a scalar register. -/
  | clRd (a : At) (sd : R5) (cl : Cleat)
  /-- CL_SIG (R201): cl.sig adds a register to a local, remote or multicast cleat, ordered behind earlier writes. -/
  | clSig (a : At) (sa : R5) (sb : R5)
  /-- CL_SIGI (R201): cl.sigi adds an immediate to a local, remote or multicast cleat, ordered behind earlier writes. -/
  | clSigi (a : At) (sa : R5) (imm : Imm)
  /-- SIGNAL_RELEASE (R201): A held signal travels on VC1 once every earlier write of its context to the target has been acknowledged. -/
  | signalRelease (x : CtxId)
  /-- CTX_LOAD (R151): LOAD checks the program image and operation table and loads the context or refuses it with a placement fault record. -/
  | ctxLoad (priv : Priv) (x : CtxId)
  /-- CTX_START (R159): START runs a loaded idle context from its PC and records its cleat range. -/
  | ctxStart (priv : Priv) (x : CtxId)
  /-- CTX_HALT (R159): HALT stops a running or waiting context at its next instruction boundary. -/
  | ctxHalt (priv : Priv) (x : CtxId)
  /-- CTX_RESUME (R159): RESUME executes the instruction at PC of a halted context again in full. -/
  | ctxResume (priv : Priv) (x : CtxId)
  /-- CTX_SKIP (R159): SKIP moves PC past the instruction at PC of a halted context and runs it. -/
  | ctxSkip (priv : Priv) (x : CtxId)
  /-- CTX_RESET (R159): RESET stops the context's streams, lets started instructions commit except in an open bracket, which it aborts, and leaves the context idle and unloaded. -/
  | ctxReset (priv : Priv) (x : CtxId)
  /-- SQACC_OWNER_CHANGE (R97): A changed slot owner takes effect when the slot's in-flight instruction completes, and the slot becomes EMPTY. -/
  | sqaccOwnerChange (c : Fin 256) (slot : A3)
  /-- CLRN_WRITE (R204): A write to CLRn sets a context's cleat range only while that context is idle. -/
  | clrnWrite (priv : Priv) (x : CtxId) (size : CtlSize) (value : Word)
  /-- TILE_END (R105): At the first group boundary after 87,500 engine clocks a tile ends, and the next tile starts and latches the context registers. -/
  | tileEnd (x : CtxId) (bad : Option (Fin 4))
  /-- SPOT_CHECK_RUN (R339): The spot core recomputes a captured tile's contribution from zero and compares it, raising event 0x04:0x8011 on a difference. -/
  | spotCheckRun (nth : Nat) (differs : Bool)
  /-- HANDOVER (R122): At the next tile boundary a core's slots are stored and its tiles are moved to sibling cores. -/
  | handover (c : Fin 256) (reason : Fin 3)
  /-- HANDOVER_TILE_ASSIGN (R122): A moved tile is assigned once a sibling context owns a free slot, and the sibling resumes from the next K segment. -/
  | handoverTileAssign (nth : Nat)
  /-- LATENESS_HANDOVER (R322): A core late in two previous steps is handed over once eight cluster cores have ended their last tile while it has more than one left. -/
  | latenessHandover (c : Fin 256)
  /-- MODE_CHANGE (R117): A write of HUB_MODCTL.MODE changes between Twin and Tandem mode when no job is resident, or is refused. -/
  | modeChange (priv : Priv) (tandem : Bool)
  /-- BRIDGE_FLIT_RECEIVE (R115): A die-bridge flit is decoded, corrected or requested again, and the bridge stops after three failures of one flit. -/
  | bridgeFlitReceive (die : Fin 2) (vc : Fin 8) (seq : BitVec 20) (errors : BitVec 288)
  /-- GEN_STAGE (R162): A write of HUB_GENCMD with the next generation stages a stage list, or is refused. -/
  | genStage (priv : Priv) (gen : BitVec 32) (step : BitVec 32)
  /-- GEN_CANCEL (R163): A write of HUB_GENCMD with the live generation cancels a pending generation. -/
  | genCancel (priv : Priv)
  /-- GEN_LIST_COPIED (R162): The Hub finishes copying and checking the stage list, sets COPIED and installs side-by-side values. -/
  | genListCopied
  /-- GEN_DRAINED (R167): When no item carries the old GTAG, the old side-by-side values are discarded and event 0x04:0x0053 is raised. -/
  | genDrained
  /-- GEN_DRAIN_OVER (R167): Draining longer than HUB_GENLIMIT sets OVER and raises event 0x04:0x0054. -/
  | genDrainOver
  /-- STACK_TEMP_MEASURE (R242): Every 50 us a stack measures its hottest DRAM die and may change its refresh band. -/
  | stackTempMeasure (d : Fin 2) (m : Fin 12) (temp : BitVec 8)
  /-- DRAM_REFRESH (R242): A refresh command runs at the stack's refresh interval, ahead of every access. -/
  | dramRefresh (d : Fin 2) (m : Fin 12)
  /-- SCRUB_STEP (R243): The die scrubber reads the next DRAM word at its paced rate, writing back corrections and logging uncorrectable words. -/
  | scrubStep (d : Fin 2) (upset : BitVec 288)
  /-- SCRUB_CLUSTER_STEP (R245): A cluster scrubs its cache and Cassettes in unused slots. -/
  | scrubClusterStep (k : Fin 16) (upset : BitVec 288)
  /-- ROW_REPAIR (R247): The Hub holds a bank, copies a failing row to a spare row and updates the repair map. -/
  | rowRepair (d : Fin 2) (m : Fin 12)
  /-- REPAIR_COMMAND (R257): A write of MEMd_STKn_RPRCMD with GO requests a runtime repair of the named row. -/
  | repairCommand (priv : Priv) (d : Fin 2) (m : Fin 12) (value : Word)
  /-- CODEWORD_RECEIVE (R262): A received RS(544,514) codeword is decoded and CRC-checked, and its flits are accepted in order or discarded. -/
  | codewordReceive (p : SpokeId) (slots : List (BitVec 256)) (crc : BitVec 16) (fec : Fin 3) (first : BitVec 20)
  /-- LINK_EQUALISATION_COMPLETE (R263): Cold equalisation or retrain finishes and the Spoke enters UP, possibly at half width. -/
  | linkEqualisationComplete (p : SpokeId) (lanes : BitVec 16)
  /-- RETRAIN (R264): A write of SPKn_LCTL.RETRAIN starts a retrain of the link. -/
  | retrain (priv : Priv) (p : SpokeId)
  /-- RETRAIN_TIMEOUT (R264): A link not UP within RTWAIT goes DOWN. -/
  | retrainTimeout (p : SpokeId)
  /-- LINK_CONTROL_SEND (R269): A Spoke sends a link control flit when idle, every 256 slots and every 100 ns while credits or acknowledgements are owed. -/
  | linkControlSend (p : SpokeId)
  /-- CTRL_CREDIT_ACK (R276): A credit and acknowledge control flit returns credits and frees acknowledged flits from the retry buffer. -/
  | ctrlCreditAck (p : SpokeId) (seq : BitVec 20) (cred : List (BitVec 12))
  /-- CTRL_NAK (R271): A NAK makes the sender resend every unacknowledged flit from the one named, retraining after 16 resends. -/
  | ctrlNak (p : SpokeId) (seq : BitVec 20)
  /-- NAK_REPEAT (R271): The receiver repeats its NAK every 2 us until the expected flit arrives. -/
  | nakRepeat (p : SpokeId)
  /-- CTRL_TIMESTAMP (R291): A timestamp control flit lets the module adjust its timebase toward its parent. -/
  | ctrlTimestamp (p : SpokeId) (time : Word) (rtt : BitVec 32)
  /-- TIMEBASE_EXCHANGE (R291): Every 100 us a module and its parent exchange timestamp flits. -/
  | timebaseExchange
  /-- CTRL_RETRAIN_REQUEST (R264): A retrain request from the partner starts a retrain. -/
  | ctrlRetrainRequest (p : SpokeId)
  /-- CTRL_GOING_DOWN (R286): A going-down control flit from the partner takes the link DOWN. -/
  | ctrlGoingDown (p : SpokeId)
  /-- LINK_DOWN (R286): A Spoke going DOWN spills waiting packets, probes the far module and re-routes later packets in the other direction. -/
  | linkDown (p : SpokeId) (cause : BitVec 8)
  /-- PROBE_TIMEOUT (R286): With no PRBRSP within PRBTMO, idempotent retry-buffer packets are spilled with RS set and non-idempotent ones discarded. -/
  | probeTimeout (p : SpokeId)
  /-- SPILL_REINJECT (R287): A spilled or relayed packet is injected again in spill order at up to 50 GB/s. -/
  | spillReinject
  /-- PACKET_FORWARD (R282): A router routes a whole packet toward its target by phase and dimension order, relaying or discarding it when no route exists. -/
  | packetForward (frm : Option SpokeId) (nth : Leaving)
  /-- ESCAPE_TO_VC7 (R284): An adaptive packet blocked at a buffer head for 200 ns moves to VC7 once VC7 has credit. -/
  | escapeToVc7 (p : SpokeId) (nth : Nat)
  /-- PKT_WR (R267): A remote write packet writes memory at the destination and is answered by WRACK. -/
  | pktWr
  /-- PKT_AMO (R267): A remote amo.add packet adds at the destination and is answered by AMORSP. -/
  | pktAmo
  /-- PKT_RDREQ (R267): A remote read request reads memory and is answered by RDRSP or ERRRSP. -/
  | pktRdreq
  /-- PKT_RDRSP (R274): A read response is written into reserved memory and frees its tag. -/
  | pktRdrsp
  /-- PKT_WRACK (R274): A write acknowledgement completes its write request and frees its tag. -/
  | pktWrack
  /-- PKT_AMORSP (R274): An amo response returns the old value and frees its tag. -/
  | pktAmorsp
  /-- PKT_ERRRSP (R275): An error response completes its request with the fault its code names. -/
  | pktErrrsp
  /-- PKT_SIG (R202): A cleat add packet adds its value to the target cleat. -/
  | pktSig
  /-- NOTICE_JOIN (R301): A JOIN from a child is compared with the member's signature and forwarded or held, aborting on mismatch. -/
  | noticeJoin
  /-- NOTICE_GO (R301): A GO notice lets the module send the collective's data packets. -/
  | noticeGo
  /-- NOTICE_SEAL (R310): A SEAL notice records a member's sealed count and may seal the attempt at this module. -/
  | noticeSeal
  /-- NOTICE_REPLAY (R39): A replay notice makes the member stop the attempt and abandon it within 2 us. -/
  | noticeReplay
  /-- NOTICE_ABORT (R312): An ABORT notice makes every unsealed participant abandon the attempt without restarting. -/
  | noticeAbort
  /-- NOTICE_DONE (R318): A DONE notice gives the row count of a source region so its completion can be detected. -/
  | noticeDone
  /-- NOTICE_REPEAT (R310): Every 50 us a module repeats each notice until the event it waits for. -/
  | noticeRepeat (nth : Nat)
  /-- PKT_SUM (R304): A sum record is added at a router slot or the owner's chunk, held as RS, or discarded by the contribution bitmaps. -/
  | pktSum (res : Fin 3) (err : Option (Fin 32 × BitVec 128))
  /-- SLOT_TIMEOUT (R308): A slot idle for SLOTTMO since its last addition sends its contents on. -/
  | slotTimeout (nth : Nat)
  /-- PKT_GATH (R319): Gathered shard data lands in the gather cache and advances CLC per share. -/
  | pktGath
  /-- PKT_XROW (R195): Expert dispatch or return rows are written into the receive or return buffer. -/
  | pktXrow
  /-- PKT_MGMT (R273): A management packet is consumed by the Hub queue and answered by MGRSP. -/
  | pktMgmt
  /-- PKT_MGRSP (R274): A management response is written into reserved memory and frees its tag. -/
  | pktMgrsp
  /-- PKT_PROBE (R286): A probe is answered with the named Spoke's LASTRX in a PRBRSP. -/
  | pktProbe
  /-- PKT_PRBRSP (R286): A probe response frees retry-buffer packets up to LASTRX and spills later ones. -/
  | pktPrbrsp
  /-- REQUEST_TIMEOUT (R275): A request without response after SPK_CTL.TMO completes with a data fault and event 0x03:0x0070. -/
  | requestTimeout (tag : BitVec 16)
  /-- SPOKE_RESET (R380): A write of SPKn_LCTL.RESET takes the Spoke down and restarts cold equalisation. -/
  | spokeReset (priv : Priv) (p : SpokeId)
  /-- PELOTON_OPEN (R297): HUB_PLTCMD OPEN reads, checks and hashes a peloton descriptor and opens the handle. -/
  | pelotonOpen (priv : Priv) (handle : BitVec 14) (addr : BitVec 42)
  /-- PELOTON_CLOSE (R297): HUB_PLTCMD CLOSE closes a handle that no collective or bracket uses. -/
  | pelotonClose (priv : Priv) (handle : BitVec 14)
  /-- PELOTON_REPLACE (R297): HUB_PLTCMD REPLACE installs a new descriptor beside the old one for the new GTAG. -/
  | pelotonReplace (priv : Priv) (handle : BitVec 14) (addr : BitVec 42)
  /-- JOIN_TIMEOUT (R313): A JOIN missing after JTMO aborts the collective with cause 3. -/
  | joinTimeout (ph : BitVec 14) (seq : BitVec 16)
  /-- COMPLETION_TIMEOUT (R313): A seal or chunk missing after CTMO aborts an unsealed attempt with cause 4. -/
  | completionTimeout (ph : BitVec 14) (seq : BitVec 16)
  /-- JOB_REWIND (R314): The step service aborts every open attempt and restores every member from the newest common snapshot. -/
  | jobRewind (s0 : BitVec 32) (cause : BitVec 8)
  /-- JOB_REFORM (R315): The step service re-forms the job around a failed member, moving its shares to its partner, and reruns from the snapshot. -/
  | jobReform (s0 : BitVec 32) (taken : List (BitVec 48 × BitVec 48 × BitVec 32)) (lost : Option (BitVec 14 × BitVec 14))
  /-- SNAPSHOT_COMPLETE (R325): After every copy is acknowledged the Hub writes the slot header with VALID, or marks the snapshot failed. -/
  | snapshotComplete
  /-- SELF_TEST_START (R344): After a detected error the Hub withdraws the suspect units for a targeted self-test. -/
  | selfTestStart (unit : Word) (cause : Fin 8) (cap : Option (BitVec 16))
  /-- SELF_TEST_WITHDRAWN (R345): When the suspect is idle, it leaves WITHDRAW and starts PASS1. -/
  | selfTestWithdrawn (unit : Word)
  /-- SELF_TEST_PASS_COMPLETE (R345): A random-operand pass ends and moves the suspect to the next pass, LEARNED or FENCE. -/
  | selfTestPassComplete (unit : Word) (clean : Bool)
  /-- LEARNED_REPLAY_COMPLETE (R345): Replay of the unit's learned vectors ends and leads to VOTE, TRANSIENT or FENCE. -/
  | learnedReplayComplete (unit : Word) (clean : Bool)
  /-- VOTE_COMPLETE (R346): A capture replayed on suspect and two voters yields fence, clear, transient or a new suspect. -/
  | voteComplete (unit : Word) (sa : Bool) (sb : Bool) (ab : Bool) (orig : Bool) (result : List Byte)
  /-- SELF_TEST_LATE (R344): Verdicts not given within 50 ms raise event 0x04:0x8050. -/
  | selfTestLate (unit : Word)
  /-- IN_FIELD_TEST_DUE (R348): A unit's in-field test falls due every PERIOD seconds and runs at its next tile boundary. -/
  | inFieldTestDue (c : Fin 256)
  /-- IN_FIELD_TEST_OVERDUE (R348): A test more than PERIOD overdue raises event 0x04:0x8031. -/
  | inFieldTestOverdue (c : Fin 256)
  /-- UNIT_MAP_LOAD_BASE (R352): INT_UMCMD 1 verifies and loads a signed base unit map and fences the units it names. -/
  | unitMapLoadBase (priv : Priv)
  /-- UNIT_MAP_LOAD_SUPPLEMENT (R352): INT_UMCMD 2 loads an unsigned supplement that can only fence units. -/
  | unitMapLoadSupplement (priv : Priv)
  /-- CADENCE_LOSS (R356): With no reference edge for 40 ns every consumer switches to the backup oscillator. -/
  | cadenceLoss
  /-- CADENCE_RESTORE (R356): After 10 ms of clean reference the module switches back to it. -/
  | cadenceRestore
  /-- PLL_LOCK_TIMEOUT (R360): A cluster PLL not locked within 10 us is retried, and after three failures the cluster is fenced. -/
  | pllLockTimeout (k : Fin 16)
  /-- FREEWHEEL_ENTER (R361): A cluster idle for FWIDLE stops its fast clock and keeps all state. -/
  | freewheelEnter (k : Fin 16)
  /-- FREEWHEEL_WAKE (R363): A wake cause restarts a Freewheeling cluster's PLL and applies held cleat adds. -/
  | freewheelWake (k : Fin 16)
  /-- WAKE_DEADLINE (R363): The timebase reaching CLUk_DRLWAKE.DEADLINE wakes the cluster and clears DEADLINE. -/
  | wakeDeadline (k : Fin 16)
  /-- CLUSTER_WAKE_COMPLETE (R364): A waking cluster's clock runs again and its sequencers first issue. -/
  | clusterWakeComplete (k : Fin 16)
  /-- DRLCTL_TARGET_WRITE (R365): A write of CLUk_DRLCTL.TARGET requests automatic Freewheel, hold in P0 or entry to P2. -/
  | drlctlTargetWrite (priv : Priv) (k : Fin 16) (size : CtlSize) (value : Word)
  /-- P2_ENTER (R365): With every context idle the Hub saves the cluster's state to its shadow and the cluster is power-gated. -/
  | p2Enter (k : Fin 16)
  /-- P2_SHADOW_ACCESS (R366): A register access to a P2 cluster is served from the Hub shadow. -/
  | p2ShadowAccess (q : CtlAcc) (write : Bool) (value : Word)
  /-- P2_WAKE (R366): A cluster in P2 powers up, zero-fills its stores, reloads microcode and restores its shadow. -/
  | p2Wake (k : Fin 16)
  /-- P3_ENTER (R367): CLK_PSCMD 1 puts every cluster in P2 and every stack in self-refresh, or is refused. -/
  | p3Enter (priv : Priv)
  /-- P3_LEAVE (R367): CLK_PSCMD 2 takes the module out of P3. -/
  | p3Leave (priv : Priv)
  /-- SELF_REFRESH_RETURN (R367): In P3 stacks return to self-refresh after 10 ms without access. -/
  | selfRefreshReturn (d : Fin 2)
  /-- POWER_MEASURE (R369): Every 1 us the module measures input power and starts or ends peak, sustained and forced Freewheel actions. -/
  | powerMeasure (watts : BitVec 14)
  /-- INPUT_VOLTAGE_CHANGE (R370): The input voltage entering a new range sets high or low reporting and half rate. -/
  | inputVoltageChange (vin : BitVec 10)
  /-- VOLTAGE_SHUTDOWN (R370): Input below 47 V for 100 us or above 62 V for 10 us stops the module and writes fatal record 0x01:0x0021. -/
  | voltageShutdown
  /-- CLUSTER_TEMP_MEASURE (R371): Every 10 us a cluster measures its hottest point and starts or ends thermal actions. -/
  | clusterTempMeasure (k : Fin 16) (temp : BitVec 8)
  /-- THERMAL_COMPARATOR_TRIP (R470): A die sensor at 120 C makes the hardware comparator pull THERM_TRIP_N low and switch the rails off within 100 us. -/
  | thermalComparatorTrip (d : Fin 2)
  /-- COOLANT_SENSOR_READ (R473): Every 100 ms the Hub reads the inlet and outlet sensors and sets INRANGE if the inlet leaves 17-40 C. -/
  | coolantSensorRead (inlet : BitVec 8) (outlet : BitVec 8)
  /-- POWER_UP (R373): The input reaching 50 V brings up the rails and boots the module through the bring-up sequence. -/
  | powerUp (pos : BitVec 6)
  /-- INPUT_LOSS (R368): Loss of the input puts the module in P4. -/
  | inputLoss
  /-- PERST_ASSERT (R380): PERST_N low for 1 us or more performs a module reset. -/
  | perstAssert (long : Bool)
  /-- PERST_DEASSERT (R373): PERST_N rising starts PCI Express link training. -/
  | perstDeassert
  /-- BEGIN (R373): A write of CLK_BRCMD.BEGIN continues bring-up without a unit map. -/
  | begin (priv : Priv)
  /-- DRAM_TRAINING_COMPLETE (R246): Training of a die's stacks ends and the memory test begins, marking out failed stacks. -/
  | dramTrainingComplete (d : Fin 2) (failed : BitVec 12)
  /-- MEMORY_TEST_COMPLETE (R246): A die's memory test and repair end and Kickstand service begins on that die. -/
  | memoryTestComplete (d : Fin 2) (rows : List (Fin 12 × BitVec 5 × BitVec 6 × BitVec 14))
  /-- CLUSTER_SELF_TEST_COMPLETE (R373): A cluster's bring-up self-test ends, setting CSTAT fields or fencing the cluster. -/
  | clusterSelfTestComplete (k : Fin 16) (whole : Bool) (failed : List Word)
  /-- IDENTITY_KEY_DERIVED (R430): Derivation of the identity key ends and is checked against the identity certificate. -/
  | identityKeyDerived (helper : Bool) (same : Bool)
  /-- FULL_SERVICE (R377): Within 2 ms of the last bring-up step the module switches to full rates and raises event 0x01:0x0002. -/
  | fullService
  /-- DEBUG_COPY (R376): HUB_DBGSEL with GO copies one slot row into HUB_DBGDATA once the slot is not busy. -/
  | debugCopy
  /-- MODULE_RESET (R381): CLK_RSTCMD KIND 1 with key 0xA5 resets the whole module except the identity key. -/
  | moduleReset (priv : Priv) (key : BitVec 8)
  /-- DIE_RESET (R383): CLK_RSTCMD KIND 2 or 3 resets one die's clusters, DRAM and Spokes, or is refused. -/
  | dieReset (priv : Priv) (d : Fin 2) (key : BitVec 8)
  /-- CLUSTER_RESTART (R384): A write of CLUk_DRLCTL.RESTART resets the cluster's contexts, cycles it through P2 and retests it. -/
  | clusterRestart (priv : Priv) (k : Fin 16)
  /-- HOT_RESET (R382): A PCI Express hot reset or link down returns the endpoint to its power-up state while jobs continue. -/
  | hotReset (down : Bool)
  /-- FUNCTION_LEVEL_RESET (R390): A function level reset has the effects of a hot reset. -/
  | functionLevelReset
  /-- D3HOT_ENTER (R390): Entering D3hot fails copies in flight and stops MSI-X messages. -/
  | d3hotEnter
  /-- BAR0_ACCESS (R391): A BAR0 access reaches the control window through a fixed area or an aperture at privilege 1. -/
  | bar0Access (off : BitVec 26) (len : Nat) (write : Bool) (data : List Byte)
  /-- BAR2_ACCESS (R394): A BAR2 access reaches module memory at privilege 1, returning poisoned data for uncorrectable words. -/
  | bar2Access (off : BitVec 36) (len : Nat) (write : Bool) (data : List Byte)
  /-- ISSUE_WINDOW_WRITE (R395): A write into an issue window stores entry bytes, or is dropped while BUSY. -/
  | issueWindowWrite (w : Fin 256) (off : BitVec 12) (data : List Byte)
  /-- ISSUE_COMMIT (R396): The commit word completes a round, which is checked and copied out or refused. -/
  | issueCommit (w : Fin 256) (value : Word)
  /-- ENTRY_NOP (R396): A NOP entry does nothing. -/
  | entryNop (w : Fin 256)
  /-- COPYIN (R396): A COPYIN entry copies host memory into the device. -/
  | copyin (w : Fin 256)
  /-- COPYOUT (R396): A COPYOUT entry copies device memory to the host. -/
  | copyout (w : Fin 256)
  /-- COPY_COMPLETE (R397): A copy entry finishes with its status and writes its completion record. -/
  | copyComplete (w : Fin 256) (nth : Nat) (host : BitVec 8) (data : List Byte)
  /-- REGW (R396): A REGW entry writes a value to a control-window register. -/
  | regw (w : Fin 256)
  /-- CLADD (R397): A CLADD entry adds a value to a cleat after earlier BAR2 writes are visible. -/
  | cladd (w : Fin 256)
  /-- CTXCMD (R396): A CTXCMD entry issues a context command to a core's context. -/
  | ctxcmd (w : Fin 256)
  /-- PLAN (R401): A PLAN entry applies the plan's registers, loads contexts, opens pelotons and writes seeds. -/
  | plan (w : Fin 256)
  /-- ENTRY_START (R401): A START entry runs the loaded plan from step FIRST. -/
  | entryStart (w : Fin 256)
  /-- ENTRY_HOLD (R401): A HOLD entry finishes or ends the running step and holds. -/
  | entryHold (w : Fin 256)
  /-- ENTRY_RESUME (R401): A RESUME entry continues a held job from the next step. -/
  | entryResume (w : Fin 256)
  /-- ENTRY_REWIND (R401): A REWIND entry rewinds a held job to a snapshot step. -/
  | entryRewind (w : Fin 256) (newest : BitVec 32)
  /-- ENTRY_END (R401): An END entry ends the step, resets plan contexts and closes the plan's pelotons. -/
  | entryEnd (w : Fin 256)
  /-- INPUT (R400): An INPUT entry posts input k of step S. -/
  | input (w : Fin 256)
  /-- ROUND_COMPLETE (R398): A completed round writes SEQ to its completion page, sets DONESEQ and may raise source 195. -/
  | roundComplete (w : Fin 256)
  /-- STEP_START (R402): With every input of step S posted, the step service runs the boundary work and starts the step's contexts. -/
  | stepStart (others : List HealthSum) (amax : List (Nat × BitVec 32)) (digestError : Bool)
  /-- STEP_END (R402): With every plan context idle and any snapshot complete, the step service writes the step report. -/
  | stepEnd
  /-- INPUT_LATE (R400): An input still missing INWAIT us after the previous step raises event 0x07:0x0031. -/
  | inputLate
  /-- INTERRUPT_EDGE (R404): A rising source edge sets the pending bit, counts it and sends a message or activates a Hub core by its route. -/
  | interruptEdge (d : Fin 2) (src : Fin 512)
  /-- ICU_PEND_CLEAR (R406): A W1C write of ICU_PENDi clears pending bits so later edges send new messages. -/
  | icuPendClear (priv : Priv) (d : Fin 2) (i : Fin 8) (value : Word)
  /-- ICU_ROUTE_WRITE (R407): A write of ICU_ROUTEs sets the route, with OWN protecting privilege-0 routes. -/
  | icuRouteWrite (priv : Priv) (d : Fin 2) (src : Fin 256) (value : Word)
  /-- ICU_RAISE (R407): A write of ICU_RAISE makes one edge on the named source. -/
  | icuRaise (priv : Priv) (d : Fin 2) (src : Fin 512)
  /-- HUB_TIMER_EXPIRE (R407): A Hub timer reaching its deadline makes an edge on its private source and clears DEADLINE. -/
  | hubTimerExpire (d : Fin 2) (n : Fin 4) (t : Fin 16)
  /-- MSIX_UNMASK (R405): Unmasking a vector with its PBA bit set sends the held message. -/
  | msixUnmask (vector : BitVec 11)
  /-- I3C_DYNAMIC_ADDRESS (R408): ENTDAA assigns the side-band its dynamic address. -/
  | i3cDynamicAddress (addr : BitVec 7)
  /-- MCTP_CONTROL (R408): An MCTP control message on the side-band is answered. -/
  | mctpControl (cmd : BitVec 8) (data : List Byte)
  /-- SB_REGISTER_READ (R409): Side-band command 0x01 reads a control-window register. -/
  | sbRegisterRead (off : BitVec 32)
  /-- SB_REGISTER_WRITE (R409): Side-band command 0x02 writes a control-window register. -/
  | sbRegisterWrite (off : BitVec 32) (value : Word)
  /-- SB_STATUS (R409): Side-band command 0x03 returns CLK_BRSTAT, CLK_PWRSTAT and HUB_SVCSTAT. -/
  | sbStatus
  /-- SB_ODOMETER_READ (R437): Side-band command 0x04 returns one Odometer record at its own cursor and advances it. -/
  | sbOdometerRead (cursor : BitVec 32)
  /-- SB_IMAGE_PIECE (R420): Side-band command 0x05 carries a delivery command or image fragment. -/
  | sbImagePiece (data : List Byte)
  /-- GET_VERSION (R432): SPDM GET_VERSION returns versions 1.2 and 1.3. -/
  | getVersion
  /-- GET_CAPABILITIES (R432): SPDM GET_CAPABILITIES reports CERT, CHAL and MEAS capabilities. -/
  | getCapabilities
  /-- NEGOTIATE_ALGORITHMS (R432): SPDM NEGOTIATE_ALGORITHMS offers RSASSA-3072 and SHA-256 only. -/
  | negotiateAlgorithms (asym : BitVec 32) (hash : BitVec 32)
  /-- GET_DIGESTS (R432): SPDM GET_DIGESTS returns the digest of certificate slot 0. -/
  | getDigests
  /-- GET_CERTIFICATE (R432): SPDM GET_CERTIFICATE returns the slot 0 chain. -/
  | getCertificate (slot : BitVec 8) (off : BitVec 16) (len : BitVec 16)
  /-- CHALLENGE (R432): SPDM CHALLENGE is signed with the identity key, or answered Busy before it exists. -/
  | challenge (slot : BitVec 8) (nonce : List Byte)
  /-- GET_MEASUREMENTS (R432): SPDM GET_MEASUREMENTS returns the measurement digests, signed once the key exists. -/
  | getMeasurements (index : BitVec 8) (signed : Bool) (raw : Bool) (nonce : List Byte)
  /-- FW_BEGIN (R420): BEGIN validates a manifest and starts or resumes delivery into the inactive slot. -/
  | fwBegin (priv : Priv) (addr : BitVec 42)
  /-- FW_PIECE (R421): PIECE hashes a piece and accepts it for writing, or discards a duplicate or mismatch. -/
  | fwPiece (priv : Priv) (index : BitVec 10) (addr : BitVec 42)
  /-- PIECE_WRITE_COMPLETE (R421): A piece is programmed and read back and its bitmap bit is programmed, completing delivery when all are present. -/
  | pieceWriteComplete (ok : Bool)
  /-- FW_COMMIT (R423): COMMIT reads the whole target slot back and checks it. -/
  | fwCommit (priv : Priv) (bad : List (BitVec 10))
  /-- FW_ACTIVATE (R424): ACTIVATE with LIVE 0 writes a trial boot control entry for the next reset. -/
  | fwActivate (priv : Priv)
  /-- FW_ACTIVATE_LIVE (R425): ACTIVATE with LIVE 1 starts a takeover by the standby Hub on the new image. -/
  | fwActivateLive (priv : Priv)
  /-- TAKEOVER_STANDBY_STARTED (R425): The standby running the new firmware triggers the freeze, handover record and move of the primary role. -/
  | takeoverStandbyStarted (adopts : Bool)
  /-- TAKEOVER_ABANDON (R426): A takeover whose standby does not start within 500 ms or fails to adopt is abandoned. -/
  | takeoverAbandon
  /-- FW_CONFIRM (R428): CONFIRM ends the trial and raises MINSVN. -/
  | fwConfirm (priv : Priv)
  /-- FW_ABANDON (R420): ABANDON erases the delivery record. -/
  | fwAbandon (priv : Priv)
  /-- AUTO_CONFIRM (R428): A trial image that has run 600 s in full service is confirmed automatically. -/
  | autoConfirm
  /-- HUB_WATCHDOG_EXPIRE (R428): An unserviced Hub watchdog writes fatal record 0x06:0x0060 and performs a module reset. -/
  | hubWatchdogExpire (d : Fin 2) (n : Fin 4)
  /-- ODOMETER_RECORD_WRITE (R435): The Hub writes the next queued event record into the Odometer, compacting or superseding as needed. -/
  | odometerRecordWrite (fails : Fin 3)
  /-- EVR_CURSOR_WRITE (R437): A write of EVR_CUR.SEQ latches the next live record into the window. -/
  | evrCursorWrite (priv : Priv) (size : CtlSize) (value : Word)
  /-- EVR_WINDOW_ADVANCE (R437): A read of the upper half of EVR_WIN7 with AUTO 1 returns the record and latches the next one. -/
  | evrWindowAdvance (priv : Priv) (size : CtlSize)
  /-- ODOMETER_CLEAR (R438): EVR_CLR with GO starts superseding records up to UPTO at or below SEVMAX and zeroes EVR_DROP. -/
  | odometerClear (priv : Priv) (upto : BitVec 32) (sevmax : Fin 4)
  /-- ODOMETER_CLEAR_DONE (R438): The background clear finishes, CLEARING returns to 0 and event 0x06:0x0050 is recorded. -/
  | odometerClearDone
  /-- LIFE_COUNTER_WRITE (R439): Every 60 s the Hub writes a life-counter entry. -/
  | lifeCounterWrite (fails : Fin 3)
  /-- PMU_LATCH (R445): A write of PMU_CTL.LATCH copies the sixteen counters and the timebase into the latch registers. -/
  | pmuLatch (priv : Priv)
  /-- PMU_MARK (R450): A write of PMU_MARK puts a MARK record into the Yalar-0 trace ring. -/
  | pmuMark (priv : Priv) (value : Word)
  /-- TRACE_RECORD_WRITE (R448): A queued trace record is written into the ring, or dropped and counted as LOST. -/
  | traceRecordWrite (source : Nat)
  /-- TELEMETRY_PAGE (R456): Every PERIOD ms the Hub builds the telemetry page and writes it to the host. -/
  | telemetryPage
  /-- SPOKE_LINK_ENABLE (R263): A write of SPKn_LCTL.EN to 1 makes the Spoke run cold equalisation against its partner, and a write of 0 takes the link down. -/
  | spokeLinkEnable (priv : Priv) (p : SpokeId) (en : Bool)
  /-- PCIE_LINK_TRAINED (R390): PCI Express link training ends, setting PCI_LSTAT UP, SPEED and WIDTH, and it sets REDUCED and raises event 0x07:0x0040 when the link is below 32 GT/s x16. -/
  | pcieLinkTrained (speed : BitVec 3) (width : BitVec 5) (rev : Bool)
  /-- D3HOT_LEAVE (R390): The host returns the endpoint from D3hot to D0, after which it again serves requests, copies and MSI-X messages. -/
  | d3hotLeave
  /-- SCRATCH_WAYS_CHANGE (R252): A write of CLUk_CCCFG.SCRW zero-fills the ways that become scratch, drops their cached lines and discards the ways that leave scratch. -/
  | scratchWaysChange (priv : Priv) (k : Fin 16) (value : BitVec 2)
  /-- PAIR_CHECKING_ENABLE (R336): A write that sets CLUk_COREj_PAIRCTL.EN makes slots 4-7 EMPTY and, on a core that is not DEGRADED, sets ACTIVE so that quad instructions run in two rounds. -/
  | pairCheckingEnable (priv : Priv) (c : Fin 256) (en : Bool)
  deriving DecidableEq, Repr

end Sys2Proof
end

