-- ==== Sys2Proof/Decode.lean ====
section
/-!
DEFINITION. The table gives no row of it any bits: no word spells a command, and commands reach the module through its
queue alone.
-/

namespace Sys2Proof

/-- The command that a table word spells: none, since no row of spec/opcode_table.json gives bits. -/
def decodeTableWord (_nbits _w : Nat) : Option Instr := none

end Sys2Proof
end

