-- ==== Sys2Proof/Config.lean ====
section
/-!
DEFINITION. What the spec leaves free and what an implementation fixes. Each free value is an opaque constant with no
body, applied to what it may depend on: nothing can be proved of it but what holds for every value.
-/

namespace Sys2Proof.Config

/-- FREE. What a byte of a memory reads as whose contents the spec calls lost or undefined (R117, R252): by the
occasion on which they were lost and the address. -/
opaque lostByte : Nat → Nat → Byte

/-- FREE. The modulus of a Zilquel key (R415): 0 and 1 the firmware keys, 2 the unit-map key. -/
opaque zilquelKey : Nat → Nat

/-- FREE. A byte of the module serial number's 32-byte block (R348, R351). -/
opaque serial : Nat → Byte

/-- FREE. The certificate chain of slot 0 (R431). -/
opaque certChain : List Byte

/-- FREE. SHA-256 digest of the public identity key that the module derives (R430). -/
opaque identityDigest : List Byte

/-- FREE. SHA-256 digest of the boot ROM (R432). -/
opaque bootRomDigest : List Byte

/-- FREE. The signature of the identity key over some bytes (R430, R432). -/
opaque sign : List Byte → List Byte

/-- FREE. The requester's and the responder's nonces and transcript bytes that the DMTF standard, and not this spec, lays out
(R432): by response code and the number of responses given. -/
opaque spdmBytes : Nat → Nat → List Byte

/-- FREE. What the spec does not name of an image as shipped (R416): by slot and field. -/
opaque shippedImage : Bool → Nat → Nat

/-- FREE. By how Yalar-1's digest of a comparison group differs when a hardware error made the results differ (R341): by the time. -/
opaque otherDigest : Nat → Word

/-- FREE. Energy in mJ that the Hub estimates for a background category's work: the category, its DRAM bytes, its fabric bytes, its core
nanoseconds (R455). -/
opaque energyEstimate : Nat → Nat → Nat → Nat → Nat

/-- FREE. HUB_PLNOCC while a plan is loaded (R323): which of a job's operations begin and end a micro-batch's passes the spec does not
say. By the time. -/
opaque inFlight : Nat → Word

/-- FREE. A Pump's moving-average latency in ns after a transfer (R253): by the free values drawn so far. -/
opaque pumpLatency : Nat → BitVec 16

/-- FREE. The header log of an AER record (R394, R411): by the free values drawn so far. -/
opaque headerLog : Nat → Nat

end Sys2Proof.Config
end

