-- ==== Sys2Proof/Machine/Map.lean ====
section
/-!
DEFINITION. Finite maps as lists of pairs, bit fields of words and the byte order of R2.
-/

namespace Sys2Proof.Machine

/-- Sparse data by key; the first pair of a key is its value. -/
abbrev Map (α β : Type) := List (α × β)

/-- The value of a key, `d` where the map does not list it. -/
def Map.get {α β : Type} [DecidableEq α] (m : Map α β) (a : α) (d : β) : β :=
  match m with
  | [] => d
  | p :: ps => if p.1 = a then p.2 else Map.get ps a d

/-- Whether a key is listed. -/
def Map.has {α β : Type} [DecidableEq α] (m : Map α β) (a : α) : Bool := m.any fun p => decide (p.1 = a)

/-- Unlist a key. -/
def Map.del {α β : Type} [DecidableEq α] (m : Map α β) (a : α) : Map α β := m.filter fun p => decide (p.1 ≠ a)

/-- List a key with a value, in place of any earlier one. -/
def Map.set {α β : Type} [DecidableEq α] (m : Map α β) (a : α) (b : β) : Map α β := (a, b) :: m.del a

/-- The field (lowest bit, width) of a word, as a number. -/
def getBits {n : Nat} (w : BitVec n) (f : Nat × Nat) : Nat := w.toNat / 2 ^ f.1 % 2 ^ f.2

/-- A word with one field replaced. -/
def putBits {n : Nat} (w : BitVec n) (f : Nat × Nat) (v : Nat) : BitVec n :=
  (w &&& ~~~(BitVec.ofNat n (2 ^ f.2 - 1) <<< f.1)) ||| (BitVec.ofNat n (v % 2 ^ f.2) <<< f.1)

/-- One bit of a word. -/
def bit {n : Nat} (w : BitVec n) (i : Nat) : Bool := w.getLsbD i

/-- A Bool as a bit. -/
def b2n (b : Bool) : Nat := if b then 1 else 0

/-- The two's-complement value of the low `w` bits of `v`. -/
def signed (w v : Nat) : Int := if 2 ^ (w - 1) ≤ v % 2 ^ w then (v % 2 ^ w : Int) - 2 ^ w else v % 2 ^ w

/-- The low `w` bits of an integer's two's-complement form. -/
def unsigned (w : Nat) (i : Int) : Nat := (i % (2 ^ w : Int)).toNat

/-- The `n` bytes of a number, least significant first (R2). -/
def toBytes : Nat → Nat → List Byte
  | 0, _ => []
  | n + 1, v => BitVec.ofNat 8 v :: toBytes n (v / 256)

/-- The number whose bytes, least significant first, are these (R2). -/
def ofBytes : List Byte → Nat
  | [] => 0
  | b :: bs => b.toNat + 256 * ofBytes bs

/-- Apply `f` to the elements of a list one after another. -/
def forAll {σ α : Type} (l : List α) (s : σ) (f : σ → α → σ) : σ := l.foldl f s

/-- Least `m` with `n ≤ 2 ^ m` (R30, R38): 0 for 0 and 1. -/
def clog2 (n : Nat) : Nat := if n ≤ 1 then 0 else Nat.log2 (n - 1) + 1

/-- Insert into a list that an order has sorted. -/
def insertBy {α : Type} (le : α → α → Bool) (a : α) : List α → List α
  | [] => [a]
  | b :: l => if le a b then a :: b :: l else b :: insertBy le a l

/-- Sort a list; equal elements keep their order. -/
def sortBy {α : Type} (le : α → α → Bool) (l : List α) : List α := l.foldr (insertBy le) []

/-- The bits below `k` of the integer square root of `n`, above those that `r` holds. -/
def isqrtFrom (n : Nat) : Nat → Nat → Nat
  | 0, r => r
  | k + 1, r => isqrtFrom n k (if (r + 2 ^ k) * (r + 2 ^ k) ≤ n then r + 2 ^ k else r)

/-- The square root of `n`, rounded down. -/
def isqrt (n : Nat) : Nat := isqrtFrom n (Nat.log2 n / 2 + 1) 0

end Sys2Proof.Machine
end

