-- ==== Sys2Proof/Machine/Registers.lean ====
section
/-!
DEFINITION. The control registers of the module: one constructor of `Reg` for each register or register array of the
spec's register tables (R7, R52, R92, R124, R160, R168, R204, R231, R257, R292, R326, R353, R387, R410, R440, R457, R473),
its place in the control window (R10), its fields with their access codes (R5) and their values after power-up.
Fields that the tables call Reserved are the bits that no field of `Reg.fields` covers.
-/

namespace Sys2Proof.Machine

/-- A control register, by the name the spec's tables give it. `c` is the module core number, `x` the context, `k` the
cluster, `d` the die, `m` the physical stack, `p` the Spoke; another index is the one the register's own table names. -/
inductive Reg where
  /-- HUB_LOCK (R7). -/
  | hubLock
  /-- XSEEDn (R52). -/
  | xseed (c : Fin 256) (n : Fin 4)
  /-- XCTLn (R52). -/
  | xctl (c : Fin 256) (n : Fin 4)
  /-- XRAISEn (R52). -/
  | xraise (c : Fin 256) (n : Fin 4)
  /-- XESCCNT (R52). -/
  | xesccnt (c : Fin 256)
  /-- XRNDCNT (R52). -/
  | xrndcnt (c : Fin 256)
  /-- XRPLCNT (R52). -/
  | xrplcnt (c : Fin 256)
  /-- XLASTOV (R52). -/
  | xlastov (c : Fin 256)
  /-- FSCTLn (R92). -/
  | fsctl (c : Fin 256) (n : Fin 4)
  /-- FHISTn (R92). -/
  | fhist (c : Fin 256) (n : Fin 4)
  /-- FNANn (R92). -/
  | fnan (c : Fin 256) (n : Fin 4)
  /-- FNCNTn (R92). -/
  | fncnt (c : Fin 256) (n : Fin 4)
  /-- FNRECn_0 (R92). -/
  | fnrec0 (c : Fin 256) (n : Fin 4)
  /-- FNRECn_1 (R92). -/
  | fnrec1 (c : Fin 256) (n : Fin 4)
  /-- FNRECn_2 (R92). -/
  | fnrec2 (c : Fin 256) (n : Fin 4)
  /-- FNRECn_3 (R92). -/
  | fnrec3 (c : Fin 256) (n : Fin 4)
  /-- FSATCNT (R92). -/
  | fsatcnt (c : Fin 256)
  /-- FOVFCNT (R92). -/
  | fovfcnt (c : Fin 256)
  /-- FUNFCNT (R92). -/
  | funfcnt (c : Fin 256)
  /-- FPPCNT (R92). -/
  | fppcnt (c : Fin 256)
  /-- CLUk_COREj_CSTAT (R124). -/
  | coreCstat (c : Fin 256)
  /-- CLUk_COREj_SQACC (R124). -/
  | coreSqacc (c : Fin 256)
  /-- CLUk_COREj_SQSTAT (R124). -/
  | coreSqstat (c : Fin 256)
  /-- CLUk_COREj_ATSTATi (R124). -/
  | coreAtstat (c : Fin 256) (i : Fin 8)
  /-- CLUk_CSTAT (R124). -/
  | cluCstat (k : Fin 16)
  /-- CLUk_CRKCNT (R124). -/
  | cluCrkcnt (k : Fin 16)
  /-- CLUk_HANDCNT (R124). -/
  | cluHandcnt (k : Fin 16)
  /-- HUB_MODCTL (R124). -/
  | hubModctl
  /-- HUB_MODSTAT (R124). -/
  | hubModstat
  /-- HUB_BRGCNT (R124). -/
  | hubBrgcnt
  /-- CTXn_PC (R160). -/
  | ctxPc (c : Fin 256) (x : Fin 4)
  /-- CTXn_CMD (R160). -/
  | ctxCmd (c : Fin 256) (x : Fin 4)
  /-- CTXn_CFG (R160). -/
  | ctxCfg (c : Fin 256) (x : Fin 4)
  /-- CTXn_FLT0 (R160). -/
  | ctxFlt0 (c : Fin 256) (x : Fin 4)
  /-- CTXn_FLT1 (R160). -/
  | ctxFlt1 (c : Fin 256) (x : Fin 4)
  /-- CTXn_FLT2 (R160). -/
  | ctxFlt2 (c : Fin 256) (x : Fin 4)
  /-- CTXn_FLT3 (R160). -/
  | ctxFlt3 (c : Fin 256) (x : Fin 4)
  /-- CTXn_STEP (R160). -/
  | ctxStep (c : Fin 256) (x : Fin 4)
  /-- PWINi (R160). -/
  | pwin (c : Fin 256) (i : Fin 8)
  /-- HUB_GENLIST (R168). -/
  | hubGenlist
  /-- HUB_GENLEN (R168). -/
  | hubGenlen
  /-- HUB_GENCMD (R168). -/
  | hubGencmd
  /-- HUB_GENLIVE (R168). -/
  | hubGenlive
  /-- HUB_GENSTAT (R168). -/
  | hubGenstat
  /-- HUB_GENLIMIT (R168). -/
  | hubGenlimit
  /-- CLRn (R204). -/
  | clr (c : Fin 256) (n : Fin 4)
  /-- CLSTAT (R204). -/
  | clstat (c : Fin 256)
  /-- OPSTn (R204). -/
  | opst (c : Fin 256) (n : Fin 4)
  /-- XDDROP (R204). -/
  | xddrop (c : Fin 256)
  /-- CLTn (R204). -/
  | clt (c : Fin 256) (n : Fin 256)
  /-- HLTHn (R231). -/
  | hlth (c : Fin 256) (n : Fin 4)
  /-- HCLASH (R231). -/
  | hclash (c : Fin 256)
  /-- MEMd_CFG (R257). -/
  | memCfg (d : Fin 2)
  /-- MEMd_SCRCTL (R257). -/
  | memScrctl (d : Fin 2)
  /-- MEMd_SCRPOS (R257). -/
  | memScrpos (d : Fin 2)
  /-- MEMd_SCRSTAT (R257). -/
  | memScrstat (d : Fin 2)
  /-- MEMd_UELOG (R257). -/
  | memUelog (d : Fin 2)
  /-- MEMd_STKn_STAT (R257). -/
  | stkStat (d : Fin 2) (m : Fin 12)
  /-- MEMd_STKn_CORR (R257). -/
  | stkCorr (d : Fin 2) (m : Fin 12)
  /-- MEMd_STKn_UNCORR (R257). -/
  | stkUncorr (d : Fin 2) (m : Fin 12)
  /-- MEMd_STKn_RPR (R257). -/
  | stkRpr (d : Fin 2) (m : Fin 12)
  /-- MEMd_STKn_RPRCMD (R257). -/
  | stkRprcmd (d : Fin 2) (m : Fin 12)
  /-- CLUk_CCCFG (R257). -/
  | cluCccfg (k : Fin 16)
  /-- CLUk_CCHIT (R257). -/
  | cluCchit (k : Fin 16)
  /-- CLUk_CCMISS (R257). -/
  | cluCcmiss (k : Fin 16)
  /-- CLUk_CCECC (R257). -/
  | cluCcecc (k : Fin 16)
  /-- CLUk_SPRSTAT (R257). -/
  | cluSprstat (k : Fin 16)
  /-- CLUk_COREj_MCOG (R257). -/
  | coreMcog (c : Fin 256)
  /-- CLUk_COREj_MECC (R257). -/
  | coreMecc (c : Fin 256)
  /-- CLUk_COREj_PMPLAT (R257). -/
  | corePmplat (c : Fin 256)
  /-- SPKn_LCTL (R292). -/
  | spkLctl (p : Fin 8)
  /-- SPKn_LSTAT (R292). -/
  | spkLstat (p : Fin 8)
  /-- SPKn_VCW (R292). -/
  | spkVcw (p : Fin 8)
  /-- SPKn_FEC (R292). -/
  | spkFec (p : Fin 8)
  /-- SPKn_RETRY (R292). -/
  | spkRetry (p : Fin 8)
  /-- SPKn_TXF (R292). -/
  | spkTxf (p : Fin 8)
  /-- SPKn_RXF (R292). -/
  | spkRxf (p : Fin 8)
  /-- SPKn_DISC (R292). -/
  | spkDisc (p : Fin 8)
  /-- SPKn_PRB (R292). -/
  | spkPrb (p : Fin 8)
  /-- SPK_COORD (R292). -/
  | spkmCoord
  /-- SPK_MAP (R292). -/
  | spkmMap
  /-- SPK_GPEER (R292). -/
  | spkmGpeer
  /-- SPK_BLK (R292). -/
  | spkmBlk
  /-- SPK_RT (R292). -/
  | spkmRt
  /-- SPK_CTL (R292). -/
  | spkmCtl
  /-- SPK_SPILL (R292). -/
  | spkmSpill
  /-- SPK_FCSTAT (R292). -/
  | spkmFcstat
  /-- SPK_SPILLSTAT (R292). -/
  | spkmSpillstat
  /-- SPK_GRTg (R292). -/
  | spkmGrt (g : Fin 129)
  /-- HUB_PLTCMD (R326). -/
  | hubPltcmd
  /-- HUB_PLTSTAT (R326). -/
  | hubPltstat
  /-- HUB_PLTCTL (R326). -/
  | hubPltctl
  /-- HUB_PLTCNT (R326). -/
  | hubPltcnt
  /-- HUB_SNAPCTL (R326). -/
  | hubSnapctl
  /-- HUB_SNAPLIST (R326). -/
  | hubSnaplist
  /-- HUB_SNAPBASE (R326). -/
  | hubSnapbase
  /-- HUB_SNAPSTAT (R326). -/
  | hubSnapstat
  /-- HUB_PLNCTL (R326). -/
  | hubPlnctl
  /-- HUB_PLNOCC (R326). -/
  | hubPlnocc
  /-- SPK_SLOTSTAT (R326). -/
  | spkmSlotstat
  /-- SPK_SLOTCNT (R326). -/
  | spkmSlotcnt
  /-- SPK_RESCNT (R326). -/
  | spkmRescnt
  /-- CLUk_COREj_PLNCL (R326). -/
  | corePlncl (c : Fin 256)
  /-- CLUk_COREj_WAITIN (R326). -/
  | coreWaitin (c : Fin 256)
  /-- CLUk_COREj_WAITCR (R326). -/
  | coreWaitcr (c : Fin 256)
  /-- CLUk_COREj_TEND (R326). -/
  | coreTend (c : Fin 256)
  /-- INT_CKCTL (R353). -/
  | intCkctl
  /-- INT_CKLO (R353). -/
  | intCklo
  /-- INT_CKHI (R353). -/
  | intCkhi
  /-- INT_CKCNT (R353). -/
  | intCkcnt
  /-- INT_CAP (R353). -/
  | intCap
  /-- INT_SPOTCTL (R353). -/
  | intSpotctl
  /-- INT_SPOTCNT (R353). -/
  | intSpotcnt
  /-- INT_TDCTL (R353). -/
  | intTdctl
  /-- INT_TDDIG0 (R353). -/
  | intTddig0
  /-- INT_TDDIG1 (R353). -/
  | intTddig1
  /-- INT_TDCNT (R353). -/
  | intTdcnt
  /-- INT_STCTL (R353). -/
  | intStctl
  /-- INT_STSTAT (R353). -/
  | intStstat
  /-- INT_STCNT (R353). -/
  | intStcnt
  /-- INT_IFCTL (R353). -/
  | intIfctl
  /-- INT_UMADDR (R353). -/
  | intUmaddr
  /-- INT_UMCMD (R353). -/
  | intUmcmd
  /-- INT_UMSTAT (R353). -/
  | intUmstat
  /-- INT_UAWCNT (R353). -/
  | intUawcnt
  /-- INT_UAWLAST (R353). -/
  | intUawlast
  /-- CLUk_COREj_PAIRCTL (R353). -/
  | corePairctl (c : Fin 256)
  /-- CLUk_COREj_PAIRCNT (R353). -/
  | corePaircnt (c : Fin 256)
  /-- CLUk_COREj_ISTAT (R353). -/
  | coreIstat (c : Fin 256)
  /-- CLK_PWRCTL (R387). -/
  | clkPwrctl
  /-- CLK_PWRSTAT (R387). -/
  | clkPwrstat
  /-- CLK_PWRCNT (R387). -/
  | clkPwrcnt
  /-- CLK_ENERGY (R387). -/
  | clkEnergy
  /-- CLK_THCTL (R387). -/
  | clkThctl
  /-- CLK_CADSTAT (R387). -/
  | clkCadstat
  /-- CLK_PSCMD (R387). -/
  | clkPscmd
  /-- CLK_BRCMD (R387). -/
  | clkBrcmd
  /-- CLK_BRSTAT (R387). -/
  | clkBrstat
  /-- CLK_RSTCMD (R387). -/
  | clkRstcmd
  /-- CLK_RSTSTAT (R387). -/
  | clkRststat
  /-- CLK_PCYCLE (R387). -/
  | clkPcycle
  /-- CLK_OPSEC (R387). -/
  | clkOpsec
  /-- CLUk_DRLCTL (R387). -/
  | cluDrlctl (k : Fin 16)
  /-- CLUk_DRLSTAT (R387). -/
  | cluDrlstat (k : Fin 16)
  /-- CLUk_DRLWAKE (R387). -/
  | cluDrlwake (k : Fin 16)
  /-- CLUk_DRLCNT (R387). -/
  | cluDrlcnt (k : Fin 16)
  /-- CLUk_DRLWAIT (R387). -/
  | cluDrlwait (k : Fin 16)
  /-- HUB_DBGSEL (R387). -/
  | hubDbgsel
  /-- HUB_DBGSTAT (R387). -/
  | hubDbgstat
  /-- HUB_DBGST2 (R387). -/
  | hubDbgst2
  /-- HUB_DBGDATA (R387). -/
  | hubDbgdata (i : Fin 64)
  /-- PCI_LSTAT (R410). -/
  | pciLstat
  /-- PCI_BAR2MAP (R410). -/
  | pciBar2map
  /-- PCI_CPYIN (R410). -/
  | pciCpyin
  /-- PCI_CPYOUT (R410). -/
  | pciCpyout
  /-- PCI_ERR (R410). -/
  | pciErr
  /-- PCI_APERi (R410). -/
  | pciAper (i : Fin 62)
  /-- PCI_IWCFGw (R410). -/
  | pciIwcfg (w : Fin 256)
  /-- PCI_IWSTATw (R410). -/
  | pciIwstat (w : Fin 256)
  /-- ICU_PENDi (R410). -/
  | icuPend (d : Fin 2) (i : Fin 8)
  /-- ICU_CNTi (R410). -/
  | icuCnt (d : Fin 2) (i : Fin 64)
  /-- ICU_ROUTEs (R410). -/
  | icuRoute (d : Fin 2) (s : Fin 256)
  /-- ICU_PRIVENn (R410). -/
  | icuPriven (d : Fin 2) (n : Fin 4)
  /-- ICU_RAISE (R410). -/
  | icuRaise (d : Fin 2)
  /-- ICU_HTMRn_t (R410). -/
  | icuHtmr (d : Fin 2) (n : Fin 4) (t : Fin 16)
  /-- HUB_SVCSTAT (R410). -/
  | hubSvcstat
  /-- HUB_SVCIN (R410). -/
  | hubSvcin
  /-- HUB_SVCCNT (R410). -/
  | hubSvccnt
  /-- HUB_FWCMD (R440). -/
  | hubFwcmd
  /-- HUB_FWSTAT (R440). -/
  | hubFwstat
  /-- HUB_FWCNT (R440). -/
  | hubFwcnt
  /-- HUB_FWVER (R440). -/
  | hubFwver
  /-- HUB_FWMINSVN (R440). -/
  | hubFwminsvn
  /-- HUB_FWCTL (R440). -/
  | hubFwctl
  /-- HUB_FWUCMIX (R440). -/
  | hubFwucmix
  /-- HUB_IDSTAT (R440). -/
  | hubIdstat
  /-- HUB_FWBMi (R440). -/
  | hubFwbm (i : Fin 12)
  /-- EVR_SEQ (R440). -/
  | evrSeq
  /-- EVR_STAT (R440). -/
  | evrStat
  /-- EVR_DROP (R440). -/
  | evrDrop
  /-- EVR_CUR (R440). -/
  | evrCur
  /-- EVR_CLR (R440). -/
  | evrClr
  /-- EVR_WEAR (R440). -/
  | evrWear
  /-- EVR_WINi (R440). -/
  | evrWin (i : Fin 8)
  /-- CLUk_UCLK (R457). -/
  | cluUclk (k : Fin 16)
  /-- CLUk_UQUAD (R457). -/
  | cluUquad (k : Fin 16)
  /-- CLUk_UVEC (R457). -/
  | cluUvec (k : Fin 16)
  /-- CLUk_UIDLE (R457). -/
  | cluUidle (k : Fin 16)
  /-- CLUk_UERR (R457). -/
  | cluUerr (k : Fin 16)
  /-- PMU_CTL (R457). -/
  | pmuCtl
  /-- PMU_LTIME (R457). -/
  | pmuLtime
  /-- PMU_MARK (R457). -/
  | pmuMark
  /-- PMU_SELn (R457). -/
  | pmuSel (n : Fin 16)
  /-- PMU_CTRn (R457). -/
  | pmuCtr (n : Fin 16)
  /-- PMU_LCTRn (R457). -/
  | pmuLctr (n : Fin 16)
  /-- PMU_TRd_CTL (R457). -/
  | pmuTrCtl (d : Fin 2)
  /-- PMU_PANd (R457). -/
  | pmuPan (d : Fin 2)
  /-- PMU_TRd_KIND (R457). -/
  | pmuTrKind (d : Fin 2)
  /-- PMU_TRd_FILT (R457). -/
  | pmuTrFilt (d : Fin 2)
  /-- PMU_TRd_WP (R457). -/
  | pmuTrWp (d : Fin 2)
  /-- PMU_TRd_RP (R457). -/
  | pmuTrRp (d : Fin 2)
  /-- PMU_TRd_STAT (R457). -/
  | pmuTrStat (d : Fin 2)
  /-- PMU_WPi_CTL (R457). -/
  | pmuWpCtli (i : Fin 16)
  /-- PMU_WPi_ID (R457). -/
  | pmuWpIdi (i : Fin 16)
  /-- PMU_WPi_DST (R457). -/
  | pmuWpDsti (i : Fin 16)
  /-- PMU_WPi_LIM (R457). -/
  | pmuWpLimi (i : Fin 16)
  /-- PMU_WPi_CL (R457). -/
  | pmuWpCli (i : Fin 16)
  /-- PMU_WPi_STAT (R457). -/
  | pmuWpStati (i : Fin 16)
  /-- PMU_BGc_DRAM (R457). -/
  | pmuBgDram (c : Fin 6)
  /-- PMU_BGc_SPK (R457). -/
  | pmuBgSpk (c : Fin 6)
  /-- PMU_BGc_CORE (R457). -/
  | pmuBgCore (c : Fin 6)
  /-- PMU_BGc_ENERGY (R457). -/
  | pmuBgEnergy (c : Fin 6)
  /-- PMU_BGTOT_DRAM (R457). -/
  | pmuBgtotDram
  /-- PMU_BGTOT_SPK (R457). -/
  | pmuBgtotSpk
  /-- PMU_TELCTL (R457). -/
  | pmuTelctl
  /-- PMU_TELPAGEi (R457). -/
  | pmuTelpage (i : Fin 32)
  /-- CLK_PHYS (R473). -/
  | clkPhys
  deriving DecidableEq, Repr

/-- The access codes of R5. -/
inductive Access where
  | rw | ro | wo | w1c | w1s | rc | rwl
  deriving DecidableEq, Repr

/-- One field of a register: its lowest bit, its width, its access code and its value after power-up. -/
structure Field where
  lo : Nat
  width : Nat
  access : Access
  reset : Nat
  deriving DecidableEq, Repr

/-- The register blocks of R10, with the block of R7 that locks each of them. -/
inductive Block where
  | hub | icu | clk | evr | pci | mem | spk | clu | pmu | int
  deriving DecidableEq, Repr

/-- Offset of the register block of core `c` (R10). -/
def coreBase (c : Fin 256) : Nat :=
  0x10000000 + 0x01000000 * (c.val / 16) + 0x100000 + 0x80000 * (c.val % 16)

/-- Offset of the register block of cluster `k` (R10). -/
def cluBase (k : Fin 16) : Nat := 0x10000000 + 0x01000000 * k.val

/-- Offset of a register in the control window (R10 and the register's own table). The second interrupt controller
and the second instance of a per-die register follow the spec's own block tables. -/
def Reg.offset : Reg → Nat
  | .hubLock => 0 + 0x2f00
  | .xseed c n => coreBase c + 0x4000 + 8 * n.val
  | .xctl c n => coreBase c + 0x4020 + 8 * n.val
  | .xraise c n => coreBase c + 0x4040 + 8 * n.val
  | .xesccnt c => coreBase c + 0x4060
  | .xrndcnt c => coreBase c + 0x4068
  | .xrplcnt c => coreBase c + 0x4070
  | .xlastov c => coreBase c + 0x4078
  | .fsctl c n => coreBase c + 0x4100 + 8 * n.val
  | .fhist c n => coreBase c + 0x4120 + 8 * n.val
  | .fnan c n => coreBase c + 0x4140 + 8 * n.val
  | .fncnt c n => coreBase c + 0x4160 + 8 * n.val
  | .fnrec0 c n => coreBase c + 0x4180 + 32 * n.val
  | .fnrec1 c n => coreBase c + 0x4188 + 32 * n.val
  | .fnrec2 c n => coreBase c + 0x4190 + 32 * n.val
  | .fnrec3 c n => coreBase c + 0x4198 + 32 * n.val
  | .fsatcnt c => coreBase c + 0x4200
  | .fovfcnt c => coreBase c + 0x4208
  | .funfcnt c => coreBase c + 0x4210
  | .fppcnt c => coreBase c + 0x4218
  | .coreCstat c => coreBase c + 0x4300
  | .coreSqacc c => coreBase c + 0x4308
  | .coreSqstat c => coreBase c + 0x4310
  | .coreAtstat c i => coreBase c + 0x4320 + 8 * i.val
  | .cluCstat k => cluBase k + 0x2000
  | .cluCrkcnt k => cluBase k + 0x2008
  | .cluHandcnt k => cluBase k + 0x2010
  | .hubModctl => 0 + 0x2000
  | .hubModstat => 0 + 0x2008
  | .hubBrgcnt => 0 + 0x2010
  | .ctxPc c x => coreBase c + 0x4400 + 0x40 * x.val + 0x0
  | .ctxCmd c x => coreBase c + 0x4400 + 0x40 * x.val + 0x8
  | .ctxCfg c x => coreBase c + 0x4400 + 0x40 * x.val + 0x10
  | .ctxFlt0 c x => coreBase c + 0x4400 + 0x40 * x.val + 0x18
  | .ctxFlt1 c x => coreBase c + 0x4400 + 0x40 * x.val + 0x20
  | .ctxFlt2 c x => coreBase c + 0x4400 + 0x40 * x.val + 0x28
  | .ctxFlt3 c x => coreBase c + 0x4400 + 0x40 * x.val + 0x30
  | .ctxStep c x => coreBase c + 0x4400 + 0x40 * x.val + 0x38
  | .pwin c i => coreBase c + 0x4500 + 8 * i.val
  | .hubGenlist => 0 + 0x2100
  | .hubGenlen => 0 + 0x2108
  | .hubGencmd => 0 + 0x2110
  | .hubGenlive => 0 + 0x2118
  | .hubGenstat => 0 + 0x2120
  | .hubGenlimit => 0 + 0x2128
  | .clr c n => coreBase c + 0x4600 + 8 * n.val
  | .clstat c => coreBase c + 0x4620
  | .opst c n => coreBase c + 0x4640 + 8 * n.val
  | .xddrop c => coreBase c + 0x4660
  | .clt c n => coreBase c + 0x6000 + 8 * n.val
  | .hlth c n => coreBase c + 0x4700 + 8 * n.val
  | .hclash c => coreBase c + 0x4720
  | .memCfg d => 0x05000000 + 0x01000000 * d.val + 0xf00000
  | .memScrctl d => 0x05000000 + 0x01000000 * d.val + 0xf00008
  | .memScrpos d => 0x05000000 + 0x01000000 * d.val + 0xf00010
  | .memScrstat d => 0x05000000 + 0x01000000 * d.val + 0xf00018
  | .memUelog d => 0x05000000 + 0x01000000 * d.val + 0xf00020
  | .stkStat d m => 0x05000000 + 0x01000000 * d.val + 0x100000 * m.val + 0x0
  | .stkCorr d m => 0x05000000 + 0x01000000 * d.val + 0x100000 * m.val + 0x8
  | .stkUncorr d m => 0x05000000 + 0x01000000 * d.val + 0x100000 * m.val + 0x10
  | .stkRpr d m => 0x05000000 + 0x01000000 * d.val + 0x100000 * m.val + 0x18
  | .stkRprcmd d m => 0x05000000 + 0x01000000 * d.val + 0x100000 * m.val + 0x20
  | .cluCccfg k => cluBase k + 0x2100
  | .cluCchit k => cluBase k + 0x2108
  | .cluCcmiss k => cluBase k + 0x2110
  | .cluCcecc k => cluBase k + 0x2118
  | .cluSprstat k => cluBase k + 0x2120
  | .coreMcog c => coreBase c + 0x4800
  | .coreMecc c => coreBase c + 0x4808
  | .corePmplat c => coreBase c + 0x4810
  | .spkLctl p => 0x08000000 + 0x100000 * p.val + 0x0
  | .spkLstat p => 0x08000000 + 0x100000 * p.val + 0x8
  | .spkVcw p => 0x08000000 + 0x100000 * p.val + 0x10
  | .spkFec p => 0x08000000 + 0x100000 * p.val + 0x18
  | .spkRetry p => 0x08000000 + 0x100000 * p.val + 0x20
  | .spkTxf p => 0x08000000 + 0x100000 * p.val + 0x28
  | .spkRxf p => 0x08000000 + 0x100000 * p.val + 0x30
  | .spkDisc p => 0x08000000 + 0x100000 * p.val + 0x38
  | .spkPrb p => 0x08000000 + 0x100000 * p.val + 0x40
  | .spkmCoord => 0x08800000 + 0x0
  | .spkmMap => 0x08800000 + 0x8
  | .spkmGpeer => 0x08800000 + 0x10
  | .spkmBlk => 0x08800000 + 0x18
  | .spkmRt => 0x08800000 + 0x20
  | .spkmCtl => 0x08800000 + 0x28
  | .spkmSpill => 0x08800000 + 0x30
  | .spkmFcstat => 0x08800000 + 0x38
  | .spkmSpillstat => 0x08800000 + 0x60
  | .spkmGrt g => 0x08800000 + 0x100 + 8 * g.val
  | .hubPltcmd => 0 + 0x2200
  | .hubPltstat => 0 + 0x2208
  | .hubPltctl => 0 + 0x2210
  | .hubPltcnt => 0 + 0x2218
  | .hubSnapctl => 0 + 0x2240
  | .hubSnaplist => 0 + 0x2248
  | .hubSnapbase => 0 + 0x2250
  | .hubSnapstat => 0 + 0x2258
  | .hubPlnctl => 0 + 0x2280
  | .hubPlnocc => 0 + 0x2288
  | .spkmSlotstat => 0x08800000 + 0x40
  | .spkmSlotcnt => 0x08800000 + 0x48
  | .spkmRescnt => 0x08800000 + 0x50
  | .corePlncl c => coreBase c + 0x4900
  | .coreWaitin c => coreBase c + 0x4908
  | .coreWaitcr c => coreBase c + 0x4910
  | .coreTend c => coreBase c + 0x4918
  | .intCkctl => 0x30000000 + 0x0
  | .intCklo => 0x30000000 + 0x8
  | .intCkhi => 0x30000000 + 0x10
  | .intCkcnt => 0x30000000 + 0x18
  | .intCap => 0x30000000 + 0x20
  | .intSpotctl => 0x30000000 + 0x28
  | .intSpotcnt => 0x30000000 + 0x30
  | .intTdctl => 0x30000000 + 0x38
  | .intTddig0 => 0x30000000 + 0x40
  | .intTddig1 => 0x30000000 + 0x48
  | .intTdcnt => 0x30000000 + 0x50
  | .intStctl => 0x30000000 + 0x58
  | .intStstat => 0x30000000 + 0x60
  | .intStcnt => 0x30000000 + 0x68
  | .intIfctl => 0x30000000 + 0x70
  | .intUmaddr => 0x30000000 + 0x78
  | .intUmcmd => 0x30000000 + 0x80
  | .intUmstat => 0x30000000 + 0x88
  | .intUawcnt => 0x30000000 + 0x90
  | .intUawlast => 0x30000000 + 0x98
  | .corePairctl c => coreBase c + 0x4a00
  | .corePaircnt c => coreBase c + 0x4a08
  | .coreIstat c => coreBase c + 0x4a10
  | .clkPwrctl => 0x02000000 + 0x0
  | .clkPwrstat => 0x02000000 + 0x8
  | .clkPwrcnt => 0x02000000 + 0x10
  | .clkEnergy => 0x02000000 + 0x18
  | .clkThctl => 0x02000000 + 0x20
  | .clkCadstat => 0x02000000 + 0x28
  | .clkPscmd => 0x02000000 + 0x30
  | .clkBrcmd => 0x02000000 + 0x38
  | .clkBrstat => 0x02000000 + 0x40
  | .clkRstcmd => 0x02000000 + 0x48
  | .clkRststat => 0x02000000 + 0x50
  | .clkPcycle => 0x02000000 + 0x58
  | .clkOpsec => 0x02000000 + 0x60
  | .cluDrlctl k => cluBase k + 0x2200
  | .cluDrlstat k => cluBase k + 0x2208
  | .cluDrlwake k => cluBase k + 0x2210
  | .cluDrlcnt k => cluBase k + 0x2218
  | .cluDrlwait k => cluBase k + 0x2220
  | .hubDbgsel => 0 + 0x2300
  | .hubDbgstat => 0 + 0x2308
  | .hubDbgst2 => 0 + 0x2310
  | .hubDbgdata i => 0 + 0x2400 + 8 * i.val
  | .pciLstat => 0x04000000 + 0x0
  | .pciBar2map => 0x04000000 + 0x8
  | .pciCpyin => 0x04000000 + 0x10
  | .pciCpyout => 0x04000000 + 0x18
  | .pciErr => 0x04000000 + 0x20
  | .pciAper i => 0x04000000 + 0x108 + 8 * i.val
  | .pciIwcfg w => 0x04000000 + 0x1000 + 8 * w.val
  | .pciIwstat w => 0x04000000 + 0x1800 + 8 * w.val
  | .icuPend d i => 0x01000000 + 0x800000 * d.val + 0x0 + 8 * i.val
  | .icuCnt d i => 0x01000000 + 0x800000 * d.val + 0x100 + 8 * i.val
  | .icuRoute d s => 0x01000000 + 0x800000 * d.val + 0x400 + 8 * s.val
  | .icuPriven d n => 0x01000000 + 0x800000 * d.val + 0xc00 + 8 * n.val
  | .icuRaise d => 0x01000000 + 0x800000 * d.val + 0xc20
  | .icuHtmr d n t => 0x01000000 + 0x800000 * d.val + 0x1000 + 128 * n.val + 8 * t.val
  | .hubSvcstat => 0 + 0x2600
  | .hubSvcin => 0 + 0x2608
  | .hubSvccnt => 0 + 0x2610
  | .hubFwcmd => 0 + 0x2800
  | .hubFwstat => 0 + 0x2808
  | .hubFwcnt => 0 + 0x2810
  | .hubFwver => 0 + 0x2818
  | .hubFwminsvn => 0 + 0x2820
  | .hubFwctl => 0 + 0x2828
  | .hubFwucmix => 0 + 0x2830
  | .hubIdstat => 0 + 0x2838
  | .hubFwbm i => 0 + 0x2840 + 8 * i.val
  | .evrSeq => 0x03000000 + 0x0
  | .evrStat => 0x03000000 + 0x8
  | .evrDrop => 0x03000000 + 0x10
  | .evrCur => 0x03000000 + 0x18
  | .evrClr => 0x03000000 + 0x20
  | .evrWear => 0x03000000 + 0x28
  | .evrWin i => 0x03000000 + 0x40 + 8 * i.val
  | .cluUclk k => cluBase k + 0x2400
  | .cluUquad k => cluBase k + 0x2408
  | .cluUvec k => cluBase k + 0x2410
  | .cluUidle k => cluBase k + 0x2418
  | .cluUerr k => cluBase k + 0x2420
  | .pmuCtl => 0x20000000 + 0x0
  | .pmuLtime => 0x20000000 + 0x8
  | .pmuMark => 0x20000000 + 0x80
  | .pmuSel n => 0x20000000 + 0x100 + 8 * n.val
  | .pmuCtr n => 0x20000000 + 0x180 + 8 * n.val
  | .pmuLctr n => 0x20000000 + 0x200 + 8 * n.val
  | .pmuTrCtl d => 0x20000000 + 0x400 + 64 * d.val
  | .pmuPan d => 0x20000000 + 0x408 + 64 * d.val
  | .pmuTrKind d => 0x20000000 + 0x410 + 64 * d.val
  | .pmuTrFilt d => 0x20000000 + 0x418 + 64 * d.val
  | .pmuTrWp d => 0x20000000 + 0x420 + 64 * d.val
  | .pmuTrRp d => 0x20000000 + 0x428 + 64 * d.val
  | .pmuTrStat d => 0x20000000 + 0x430 + 64 * d.val
  | .pmuWpCtli i => 0x20000000 + 0x800 + 64 * i.val
  | .pmuWpIdi i => 0x20000000 + 0x808 + 64 * i.val
  | .pmuWpDsti i => 0x20000000 + 0x810 + 64 * i.val
  | .pmuWpLimi i => 0x20000000 + 0x818 + 64 * i.val
  | .pmuWpCli i => 0x20000000 + 0x820 + 64 * i.val
  | .pmuWpStati i => 0x20000000 + 0x828 + 64 * i.val
  | .pmuBgDram c => 0x20000000 + 0xc00 + 32 * c.val
  | .pmuBgSpk c => 0x20000000 + 0xc08 + 32 * c.val
  | .pmuBgCore c => 0x20000000 + 0xc10 + 32 * c.val
  | .pmuBgEnergy c => 0x20000000 + 0xc18 + 32 * c.val
  | .pmuBgtotDram => 0x20000000 + 0xcc0
  | .pmuBgtotSpk => 0x20000000 + 0xcc8
  | .pmuTelctl => 0x20000000 + 0xd00
  | .pmuTelpage i => 0x20000000 + 0xe00 + 8 * i.val
  | .clkPhys => 0x02000000 + 0x68

/-- The block a register belongs to (R10). -/
def Reg.block : Reg → Block
  | .hubLock => .hub
  | .xseed _ _ => .clu
  | .xctl _ _ => .clu
  | .xraise _ _ => .clu
  | .xesccnt _ => .clu
  | .xrndcnt _ => .clu
  | .xrplcnt _ => .clu
  | .xlastov _ => .clu
  | .fsctl _ _ => .clu
  | .fhist _ _ => .clu
  | .fnan _ _ => .clu
  | .fncnt _ _ => .clu
  | .fnrec0 _ _ => .clu
  | .fnrec1 _ _ => .clu
  | .fnrec2 _ _ => .clu
  | .fnrec3 _ _ => .clu
  | .fsatcnt _ => .clu
  | .fovfcnt _ => .clu
  | .funfcnt _ => .clu
  | .fppcnt _ => .clu
  | .coreCstat _ => .clu
  | .coreSqacc _ => .clu
  | .coreSqstat _ => .clu
  | .coreAtstat _ _ => .clu
  | .cluCstat _ => .clu
  | .cluCrkcnt _ => .clu
  | .cluHandcnt _ => .clu
  | .hubModctl => .hub
  | .hubModstat => .hub
  | .hubBrgcnt => .hub
  | .ctxPc _ _ => .clu
  | .ctxCmd _ _ => .clu
  | .ctxCfg _ _ => .clu
  | .ctxFlt0 _ _ => .clu
  | .ctxFlt1 _ _ => .clu
  | .ctxFlt2 _ _ => .clu
  | .ctxFlt3 _ _ => .clu
  | .ctxStep _ _ => .clu
  | .pwin _ _ => .clu
  | .hubGenlist => .hub
  | .hubGenlen => .hub
  | .hubGencmd => .hub
  | .hubGenlive => .hub
  | .hubGenstat => .hub
  | .hubGenlimit => .hub
  | .clr _ _ => .clu
  | .clstat _ => .clu
  | .opst _ _ => .clu
  | .xddrop _ => .clu
  | .clt _ _ => .clu
  | .hlth _ _ => .clu
  | .hclash _ => .clu
  | .memCfg _ => .mem
  | .memScrctl _ => .mem
  | .memScrpos _ => .mem
  | .memScrstat _ => .mem
  | .memUelog _ => .mem
  | .stkStat _ _ => .mem
  | .stkCorr _ _ => .mem
  | .stkUncorr _ _ => .mem
  | .stkRpr _ _ => .mem
  | .stkRprcmd _ _ => .mem
  | .cluCccfg _ => .clu
  | .cluCchit _ => .clu
  | .cluCcmiss _ => .clu
  | .cluCcecc _ => .clu
  | .cluSprstat _ => .clu
  | .coreMcog _ => .clu
  | .coreMecc _ => .clu
  | .corePmplat _ => .clu
  | .spkLctl _ => .spk
  | .spkLstat _ => .spk
  | .spkVcw _ => .spk
  | .spkFec _ => .spk
  | .spkRetry _ => .spk
  | .spkTxf _ => .spk
  | .spkRxf _ => .spk
  | .spkDisc _ => .spk
  | .spkPrb _ => .spk
  | .spkmCoord => .spk
  | .spkmMap => .spk
  | .spkmGpeer => .spk
  | .spkmBlk => .spk
  | .spkmRt => .spk
  | .spkmCtl => .spk
  | .spkmSpill => .spk
  | .spkmFcstat => .spk
  | .spkmSpillstat => .spk
  | .spkmGrt _ => .spk
  | .hubPltcmd => .hub
  | .hubPltstat => .hub
  | .hubPltctl => .hub
  | .hubPltcnt => .hub
  | .hubSnapctl => .hub
  | .hubSnaplist => .hub
  | .hubSnapbase => .hub
  | .hubSnapstat => .hub
  | .hubPlnctl => .hub
  | .hubPlnocc => .hub
  | .spkmSlotstat => .spk
  | .spkmSlotcnt => .spk
  | .spkmRescnt => .spk
  | .corePlncl _ => .clu
  | .coreWaitin _ => .clu
  | .coreWaitcr _ => .clu
  | .coreTend _ => .clu
  | .intCkctl => .int
  | .intCklo => .int
  | .intCkhi => .int
  | .intCkcnt => .int
  | .intCap => .int
  | .intSpotctl => .int
  | .intSpotcnt => .int
  | .intTdctl => .int
  | .intTddig0 => .int
  | .intTddig1 => .int
  | .intTdcnt => .int
  | .intStctl => .int
  | .intStstat => .int
  | .intStcnt => .int
  | .intIfctl => .int
  | .intUmaddr => .int
  | .intUmcmd => .int
  | .intUmstat => .int
  | .intUawcnt => .int
  | .intUawlast => .int
  | .corePairctl _ => .clu
  | .corePaircnt _ => .clu
  | .coreIstat _ => .clu
  | .clkPwrctl => .clk
  | .clkPwrstat => .clk
  | .clkPwrcnt => .clk
  | .clkEnergy => .clk
  | .clkThctl => .clk
  | .clkCadstat => .clk
  | .clkPscmd => .clk
  | .clkBrcmd => .clk
  | .clkBrstat => .clk
  | .clkRstcmd => .clk
  | .clkRststat => .clk
  | .clkPcycle => .clk
  | .clkOpsec => .clk
  | .cluDrlctl _ => .clu
  | .cluDrlstat _ => .clu
  | .cluDrlwake _ => .clu
  | .cluDrlcnt _ => .clu
  | .cluDrlwait _ => .clu
  | .hubDbgsel => .hub
  | .hubDbgstat => .hub
  | .hubDbgst2 => .hub
  | .hubDbgdata _ => .hub
  | .pciLstat => .pci
  | .pciBar2map => .pci
  | .pciCpyin => .pci
  | .pciCpyout => .pci
  | .pciErr => .pci
  | .pciAper _ => .pci
  | .pciIwcfg _ => .pci
  | .pciIwstat _ => .pci
  | .icuPend _ _ => .icu
  | .icuCnt _ _ => .icu
  | .icuRoute _ _ => .icu
  | .icuPriven _ _ => .icu
  | .icuRaise _ => .icu
  | .icuHtmr _ _ _ => .icu
  | .hubSvcstat => .hub
  | .hubSvcin => .hub
  | .hubSvccnt => .hub
  | .hubFwcmd => .hub
  | .hubFwstat => .hub
  | .hubFwcnt => .hub
  | .hubFwver => .hub
  | .hubFwminsvn => .hub
  | .hubFwctl => .hub
  | .hubFwucmix => .hub
  | .hubIdstat => .hub
  | .hubFwbm _ => .hub
  | .evrSeq => .evr
  | .evrStat => .evr
  | .evrDrop => .evr
  | .evrCur => .evr
  | .evrClr => .evr
  | .evrWear => .evr
  | .evrWin _ => .evr
  | .cluUclk _ => .clu
  | .cluUquad _ => .clu
  | .cluUvec _ => .clu
  | .cluUidle _ => .clu
  | .cluUerr _ => .clu
  | .pmuCtl => .pmu
  | .pmuLtime => .pmu
  | .pmuMark => .pmu
  | .pmuSel _ => .pmu
  | .pmuCtr _ => .pmu
  | .pmuLctr _ => .pmu
  | .pmuTrCtl _ => .pmu
  | .pmuPan _ => .pmu
  | .pmuTrKind _ => .pmu
  | .pmuTrFilt _ => .pmu
  | .pmuTrWp _ => .pmu
  | .pmuTrRp _ => .pmu
  | .pmuTrStat _ => .pmu
  | .pmuWpCtli _ => .pmu
  | .pmuWpIdi _ => .pmu
  | .pmuWpDsti _ => .pmu
  | .pmuWpLimi _ => .pmu
  | .pmuWpCli _ => .pmu
  | .pmuWpStati _ => .pmu
  | .pmuBgDram _ => .pmu
  | .pmuBgSpk _ => .pmu
  | .pmuBgCore _ => .pmu
  | .pmuBgEnergy _ => .pmu
  | .pmuBgtotDram => .pmu
  | .pmuBgtotSpk => .pmu
  | .pmuTelctl => .pmu
  | .pmuTelpage _ => .pmu
  | .clkPhys => .clk

/-- The module core whose register this is, if it is a core register. -/
def Reg.core? : Reg → Option (Fin 256)
  | .xseed c _ => some c
  | .xctl c _ => some c
  | .xraise c _ => some c
  | .xesccnt c => some c
  | .xrndcnt c => some c
  | .xrplcnt c => some c
  | .xlastov c => some c
  | .fsctl c _ => some c
  | .fhist c _ => some c
  | .fnan c _ => some c
  | .fncnt c _ => some c
  | .fnrec0 c _ => some c
  | .fnrec1 c _ => some c
  | .fnrec2 c _ => some c
  | .fnrec3 c _ => some c
  | .fsatcnt c => some c
  | .fovfcnt c => some c
  | .funfcnt c => some c
  | .fppcnt c => some c
  | .coreCstat c => some c
  | .coreSqacc c => some c
  | .coreSqstat c => some c
  | .coreAtstat c _ => some c
  | .ctxPc c _ => some c
  | .ctxCmd c _ => some c
  | .ctxCfg c _ => some c
  | .ctxFlt0 c _ => some c
  | .ctxFlt1 c _ => some c
  | .ctxFlt2 c _ => some c
  | .ctxFlt3 c _ => some c
  | .ctxStep c _ => some c
  | .pwin c _ => some c
  | .clr c _ => some c
  | .clstat c => some c
  | .opst c _ => some c
  | .xddrop c => some c
  | .clt c _ => some c
  | .hlth c _ => some c
  | .hclash c => some c
  | .coreMcog c => some c
  | .coreMecc c => some c
  | .corePmplat c => some c
  | .corePlncl c => some c
  | .coreWaitin c => some c
  | .coreWaitcr c => some c
  | .coreTend c => some c
  | .corePairctl c => some c
  | .corePaircnt c => some c
  | .coreIstat c => some c
  | _ => none

/-- The cluster whose cluster register this is, if it is one. -/
def Reg.cluster? : Reg → Option (Fin 16)
  | .cluCstat k => some k
  | .cluCrkcnt k => some k
  | .cluHandcnt k => some k
  | .cluCccfg k => some k
  | .cluCchit k => some k
  | .cluCcmiss k => some k
  | .cluCcecc k => some k
  | .cluSprstat k => some k
  | .cluDrlctl k => some k
  | .cluDrlstat k => some k
  | .cluDrlwake k => some k
  | .cluDrlcnt k => some k
  | .cluDrlwait k => some k
  | .cluUclk k => some k
  | .cluUquad k => some k
  | .cluUvec k => some k
  | .cluUidle k => some k
  | .cluUerr k => some k
  | _ => none

/-- Aperture defaults (R392): whether aperture `i + 1` is enabled after power-up. -/
def aperEn (i : Fin 62) : Nat := if i.val < 27 then 1 else 0

/-- Aperture defaults (R392): the BASE of aperture `i + 1` after power-up; 0 where the table gives none. -/
def aperBase (i : Fin 62) : Nat :=
  if i.val < 11 then
    [0x000, 0x001, 0x010, 0x018, 0x020, 0x030, 0x05F, 0x06F, 0x088, 0x200, 0x300].getD i.val 0
  else if i.val < 27 then 0x100 + 0x10 * (i.val - 11) else 0

/-- The fields of each register (the spec's register tables). A value that the table reads from flash or from a strap
is 0 here: the flash of `State.reset` is empty (log entry 12). -/
def Reg.fields : Reg → List Field
  | .hubLock => [⟨0, 11, .w1s, 0⟩]
  | .xseed _ _ => [⟨0, 32, .rw, 0⟩]
  | .xctl _ _ => [⟨0, 6, .rw, 20⟩, ⟨8, 2, .rw, 0⟩]
  | .xraise _ _ => [⟨0, 1, .rw, 0⟩, ⟨14, 34, .rw, 0⟩]
  | .xesccnt _ => [⟨0, 48, .rc, 0⟩]
  | .xrndcnt _ => [⟨0, 48, .rc, 0⟩]
  | .xrplcnt _ => [⟨0, 16, .rc, 0⟩, ⟨16, 16, .rc, 0⟩]
  | .xlastov _ =>
    [⟨0, 16, .ro, 0⟩, ⟨16, 12, .ro, 0⟩, ⟨28, 2, .ro, 0⟩, ⟨30, 1, .ro, 0⟩, ⟨31, 1, .w1c, 0⟩, ⟨32, 32, .ro, 0⟩]
  | .fsctl _ _ => [⟨0, 7, .rw, 16⟩, ⟨8, 3, .rw, 0⟩, ⟨16, 6, .rw, 16⟩, ⟨24, 1, .rw, 1⟩]
  | .fhist _ _ => [⟨0, 1, .rw, 0⟩, ⟨25, 23, .rw, 0⟩]
  | .fnan _ _ => [⟨0, 1, .rw, 1⟩, ⟨1, 1, .w1c, 0⟩, ⟨2, 1, .w1c, 0⟩]
  | .fncnt _ _ => [⟨0, 48, .rc, 0⟩]
  | .fnrec0 _ _ => [⟨0, 16, .ro, 0⟩, ⟨16, 16, .ro, 0⟩, ⟨32, 32, .ro, 0⟩]
  | .fnrec1 _ _ => [⟨0, 48, .ro, 0⟩, ⟨48, 8, .ro, 0⟩, ⟨56, 2, .ro, 0⟩]
  | .fnrec2 _ _ => [⟨0, 40, .ro, 0⟩, ⟨40, 2, .ro, 0⟩, ⟨42, 1, .ro, 0⟩, ⟨63, 1, .w1c, 0⟩]
  | .fnrec3 _ _ => [⟨0, 24, .ro, 0⟩, ⟨24, 4, .ro, 0⟩]
  | .fsatcnt _ => [⟨0, 48, .rc, 0⟩]
  | .fovfcnt _ => [⟨0, 48, .rc, 0⟩]
  | .funfcnt _ => [⟨0, 48, .rc, 0⟩]
  | .fppcnt _ => [⟨0, 32, .rc, 0⟩]
  | .coreCstat _ => [⟨0, 4, .ro, 0⟩, ⟨4, 1, .ro, 0⟩, ⟨5, 1, .ro, 0⟩, ⟨6, 1, .ro, 0⟩, ⟨7, 1, .ro, 0⟩]
  | .coreSqacc _ => [⟨0, 16, .rw, 0⟩]
  | .coreSqstat _ => [⟨0, 16, .ro, 0⟩]
  | .coreAtstat _ _ =>
    [⟨0, 12, .ro, 0⟩, ⟨12, 1, .ro, 0⟩, ⟨13, 1, .ro, 1⟩, ⟨14, 2, .ro, 0⟩, ⟨16, 16, .ro, 0⟩, ⟨32, 1, .ro, 0⟩]
  | .cluCstat _ => [⟨0, 16, .ro, 0⟩, ⟨16, 1, .ro, 0⟩]
  | .cluCrkcnt _ => [⟨0, 48, .rc, 0⟩]
  | .cluHandcnt _ => [⟨0, 16, .rc, 0⟩]
  | .hubModctl => [⟨0, 1, .rw, 0⟩]
  | .hubModstat => [⟨0, 1, .ro, 0⟩, ⟨1, 1, .w1c, 0⟩]
  | .hubBrgcnt => [⟨0, 32, .rc, 0⟩, ⟨32, 16, .rc, 0⟩, ⟨63, 1, .ro, 0⟩]
  | .ctxPc _ _ => [⟨0, 48, .rw, 0⟩]
  | .ctxCmd _ _ => [⟨0, 3, .wo, 0⟩]
  | .ctxCfg _ _ => [⟨0, 2, .rw, 2⟩, ⟨2, 1, .ro, 0⟩, ⟨6, 42, .rw, 0⟩]
  | .ctxFlt0 _ _ =>
    [⟨0, 4, .ro, 0⟩, ⟨4, 4, .ro, 0⟩, ⟨8, 8, .ro, 0⟩, ⟨16, 16, .ro, 0⟩, ⟨32, 16, .ro, 0⟩, ⟨48, 8, .ro, 0⟩,
     ⟨61, 1, .ro, 0⟩, ⟨62, 1, .w1c, 0⟩, ⟨63, 1, .w1c, 0⟩]
  | .ctxFlt1 _ _ => [⟨0, 48, .ro, 0⟩]
  | .ctxFlt2 _ _ => [⟨0, 64, .ro, 0⟩]
  | .ctxFlt3 _ _ => [⟨0, 32, .ro, 0⟩, ⟨32, 4, .ro, 0⟩]
  | .ctxStep _ _ => [⟨0, 64, .rw, 0⟩]
  | .pwin _ _ => [⟨0, 1, .rw, 0⟩, ⟨1, 1, .rw, 0⟩, ⟨2, 1, .rw, 0⟩, ⟨26, 22, .rw, 0⟩, ⟨48, 16, .rw, 0⟩]
  | .hubGenlist => [⟨6, 42, .rw, 0⟩]
  | .hubGenlen => [⟨0, 17, .rw, 0⟩]
  | .hubGencmd => [⟨0, 32, .wo, 0⟩, ⟨32, 32, .wo, 0⟩]
  | .hubGenlive => [⟨0, 32, .ro, 0⟩, ⟨32, 32, .ro, 0⟩]
  | .hubGenstat =>
    [⟨0, 1, .ro, 0⟩, ⟨1, 1, .ro, 0⟩, ⟨2, 1, .ro, 0⟩, ⟨3, 1, .w1c, 0⟩, ⟨4, 4, .ro, 0⟩, ⟨8, 1, .w1c, 0⟩,
     ⟨9, 1, .w1c, 0⟩, ⟨32, 32, .ro, 0⟩]
  | .hubGenlimit => [⟨0, 20, .rw, 100000⟩]
  | .clr _ n => [⟨0, 8, .rw, 64 * n.val⟩, ⟨8, 9, .rw, 64⟩]
  | .clstat _ => [⟨0, 4, .w1c, 0⟩, ⟨4, 8, .ro, 0⟩, ⟨12, 2, .ro, 0⟩]
  | .opst _ _ =>
    [⟨0, 16, .ro, 0⟩, ⟨16, 2, .ro, 0⟩, ⟨18, 1, .ro, 0⟩, ⟨19, 1, .ro, 0⟩, ⟨20, 1, .ro, 0⟩, ⟨32, 14, .ro, 0⟩]
  | .xddrop _ => [⟨0, 48, .rc, 0⟩]
  | .clt _ _ => [⟨0, 64, .rw, 0⟩]
  | .hlth _ _ => [⟨0, 1, .rw, 0⟩, ⟨21, 27, .rw, 0⟩]
  | .hclash _ => [⟨0, 32, .rc, 0⟩]
  | .memCfg _ => [⟨0, 4, .ro, 0⟩, ⟨16, 12, .ro, 0⟩]
  | .memScrctl _ => [⟨0, 1, .rw, 1⟩, ⟨8, 24, .rw, 86400⟩]
  | .memScrpos _ => [⟨0, 40, .ro, 0⟩, ⟨40, 24, .ro, 0⟩]
  | .memScrstat _ => [⟨0, 1, .ro, 0⟩, ⟨1, 1, .ro, 0⟩]
  | .memUelog _ => [⟨0, 40, .ro, 0⟩, ⟨40, 2, .ro, 0⟩, ⟨63, 1, .w1c, 0⟩]
  | .stkStat _ _ => [⟨0, 1, .ro, 0⟩, ⟨1, 1, .ro, 0⟩, ⟨2, 2, .ro, 2⟩, ⟨4, 1, .ro, 0⟩, ⟨16, 8, .ro, 0⟩, ⟨24, 1, .ro, 0⟩]
  | .stkCorr _ _ => [⟨0, 48, .rc, 0⟩]
  | .stkUncorr _ _ => [⟨0, 32, .rc, 0⟩]
  | .stkRpr _ _ => [⟨0, 16, .ro, 0⟩, ⟨16, 16, .ro, 0⟩, ⟨32, 8, .ro, 16⟩]
  | .stkRprcmd _ _ => [⟨0, 5, .wo, 0⟩, ⟨5, 6, .wo, 0⟩, ⟨11, 14, .wo, 0⟩, ⟨25, 1, .wo, 0⟩]
  | .cluCccfg _ => [⟨0, 2, .rw, 0⟩]
  | .cluCchit _ => [⟨0, 48, .rc, 0⟩]
  | .cluCcmiss _ => [⟨0, 48, .rc, 0⟩]
  | .cluCcecc _ => [⟨0, 32, .rc, 0⟩, ⟨32, 16, .rc, 0⟩, ⟨48, 16, .rc, 0⟩]
  | .cluSprstat _ => [⟨0, 48, .rc, 0⟩, ⟨48, 10, .rc, 0⟩]
  | .coreMcog _ => [⟨0, 48, .rc, 0⟩]
  | .coreMecc _ => [⟨0, 32, .rc, 0⟩, ⟨32, 16, .rc, 0⟩]
  | .corePmplat _ => [⟨0, 16, .ro, 300⟩, ⟨16, 16, .ro, 340⟩, ⟨32, 16, .ro, 60⟩, ⟨48, 16, .ro, 2000⟩]
  | .spkLctl _ => [⟨0, 1, .rw, 1⟩, ⟨1, 1, .wo, 0⟩, ⟨2, 1, .wo, 0⟩, ⟨3, 1, .rw, 1⟩, ⟨8, 16, .rw, 256⟩]
  | .spkLstat _ => [⟨0, 3, .ro, 0⟩, ⟨3, 1, .ro, 0⟩, ⟨4, 1, .ro, 0⟩, ⟨16, 16, .ro, 0⟩, ⟨32, 16, .rc, 0⟩]
  | .spkVcw _ =>
    [⟨0, 6, .rw, 1⟩, ⟨8, 6, .rw, 1⟩, ⟨16, 6, .rw, 1⟩, ⟨24, 6, .rw, 1⟩, ⟨32, 6, .rw, 1⟩, ⟨40, 6, .rw, 1⟩,
     ⟨48, 6, .rw, 1⟩, ⟨56, 6, .rw, 1⟩]
  | .spkFec _ => [⟨0, 32, .rc, 0⟩, ⟨32, 16, .rc, 0⟩]
  | .spkRetry _ => [⟨0, 32, .rc, 0⟩, ⟨32, 16, .rc, 0⟩]
  | .spkTxf _ => [⟨0, 48, .rc, 0⟩]
  | .spkRxf _ => [⟨0, 48, .rc, 0⟩]
  | .spkDisc _ => [⟨0, 16, .rc, 0⟩, ⟨16, 16, .rc, 0⟩, ⟨32, 16, .rc, 0⟩, ⟨48, 16, .rc, 0⟩]
  | .spkPrb _ => [⟨0, 20, .ro, 0⟩, ⟨20, 1, .ro, 0⟩]
  | .spkmCoord => [⟨0, 2, .rw, 0⟩, ⟨2, 2, .rw, 0⟩, ⟨4, 2, .rw, 0⟩, ⟨8, 8, .rw, 0⟩, ⟨16, 1, .rw, 0⟩]
  | .spkmMap =>
    [⟨0, 4, .rw, 15⟩, ⟨4, 4, .rw, 15⟩, ⟨8, 4, .rw, 15⟩, ⟨12, 4, .rw, 15⟩, ⟨16, 4, .rw, 15⟩, ⟨20, 4, .rw, 15⟩,
     ⟨24, 4, .rw, 15⟩, ⟨28, 4, .rw, 15⟩, ⟨32, 1, .rw, 0⟩]
  | .spkmGpeer => [⟨0, 8, .rw, 0⟩, ⟨8, 8, .rw, 0⟩]
  | .spkmBlk => [⟨0, 4, .rw, 0⟩, ⟨4, 4, .rw, 0⟩, ⟨8, 4, .rw, 0⟩, ⟨12, 8, .rw, 0⟩, ⟨20, 8, .rw, 0⟩]
  | .spkmRt => [⟨0, 8, .rw, 255⟩, ⟨8, 8, .rw, 255⟩, ⟨16, 8, .rw, 255⟩]
  | .spkmCtl =>
    [⟨0, 1, .rw, 0⟩, ⟨1, 1, .rw, 0⟩, ⟨2, 3, .rw, 0⟩, ⟨8, 20, .rw, 1000⟩, ⟨28, 16, .rw, 200⟩, ⟨44, 16, .rw, 1000⟩]
  | .spkmSpill => [⟨0, 1, .rw, 0⟩, ⟨24, 24, .rw, 0⟩, ⟨48, 8, .rw, 0⟩, ⟨56, 8, .rw, 0⟩]
  | .spkmFcstat => [⟨0, 14, .ro, 0⟩, ⟨16, 14, .rc, 0⟩, ⟨32, 16, .rc, 0⟩, ⟨48, 16, .rc, 0⟩]
  | .spkmSpillstat => [⟨0, 32, .rc, 0⟩, ⟨32, 16, .rc, 0⟩]
  | .spkmGrt _ => [⟨0, 6, .rw, 0⟩, ⟨6, 1, .rw, 0⟩, ⟨7, 1, .rw, 0⟩, ⟨8, 6, .rw, 0⟩, ⟨14, 1, .rw, 0⟩, ⟨15, 1, .rw, 0⟩]
  | .hubPltcmd => [⟨0, 14, .wo, 0⟩, ⟨14, 2, .wo, 0⟩, ⟨16, 42, .wo, 0⟩]
  | .hubPltstat => [⟨0, 11, .ro, 0⟩, ⟨11, 1, .w1c, 0⟩, ⟨12, 3, .ro, 0⟩, ⟨16, 14, .ro, 0⟩]
  | .hubPltctl => [⟨0, 20, .rw, 10000⟩, ⟨20, 20, .rw, 200000⟩, ⟨40, 8, .rw, 20⟩]
  | .hubPltcnt => [⟨0, 32, .rc, 0⟩, ⟨32, 16, .rc, 0⟩, ⟨48, 8, .rc, 0⟩, ⟨56, 8, .rc, 0⟩]
  | .hubSnapctl => [⟨0, 1, .rw, 0⟩, ⟨1, 16, .rw, 100⟩, ⟨24, 8, .rw, 25⟩]
  | .hubSnaplist => [⟨6, 42, .rw, 0⟩, ⟨48, 16, .rw, 0⟩]
  | .hubSnapbase => [⟨26, 22, .rw, 0⟩, ⟨48, 16, .rw, 0⟩]
  | .hubSnapstat => [⟨0, 1, .ro, 0⟩, ⟨1, 1, .w1c, 0⟩, ⟨2, 1, .ro, 0⟩, ⟨3, 1, .ro, 0⟩, ⟨32, 32, .ro, 0⟩]
  | .hubPlnctl => [⟨0, 20, .rw, 50⟩]
  | .hubPlnocc => [⟨0, 8, .ro, 0⟩, ⟨8, 8, .rc, 0⟩, ⟨16, 32, .ro, 0⟩]
  | .spkmSlotstat => [⟨0, 7, .ro, 0⟩, ⟨7, 1, .ro, 0⟩, ⟨8, 7, .rc, 0⟩]
  | .spkmSlotcnt => [⟨0, 32, .rc, 0⟩, ⟨32, 16, .rc, 0⟩, ⟨48, 16, .rc, 0⟩]
  | .spkmRescnt => [⟨0, 16, .rc, 0⟩, ⟨16, 16, .rc, 0⟩]
  | .corePlncl _ => [⟨0, 8, .rw, 0⟩, ⟨8, 8, .rw, 0⟩, ⟨16, 8, .rw, 0⟩, ⟨24, 8, .rw, 0⟩]
  | .coreWaitin _ => [⟨0, 48, .rc, 0⟩]
  | .coreWaitcr _ => [⟨0, 48, .rc, 0⟩]
  | .coreTend _ => [⟨0, 64, .ro, 0⟩]
  | .intCkctl => [⟨0, 1, .rw, 0⟩, ⟨1, 1, .rw, 0⟩, ⟨12, 36, .rw, 0⟩]
  | .intCklo => [⟨12, 36, .rw, 0⟩]
  | .intCkhi => [⟨12, 36, .rw, 0⟩]
  | .intCkcnt => [⟨0, 32, .rc, 0⟩, ⟨32, 16, .rc, 0⟩, ⟨48, 16, .rc, 0⟩]
  | .intCap => [⟨0, 1, .rw, 0⟩, ⟨26, 22, .rw, 0⟩, ⟨48, 16, .rw, 0⟩]
  | .intSpotctl => [⟨0, 4, .rw, 0⟩]
  | .intSpotcnt => [⟨0, 32, .rc, 0⟩, ⟨32, 16, .rc, 0⟩, ⟨48, 16, .rc, 0⟩]
  | .intTdctl => [⟨0, 1, .rw, 0⟩]
  | .intTddig0 => [⟨0, 64, .ro, 0⟩]
  | .intTddig1 => [⟨0, 64, .ro, 0⟩]
  | .intTdcnt => [⟨0, 32, .rc, 0⟩, ⟨32, 16, .rc, 0⟩]
  | .intStctl => [⟨0, 4, .rw, 3⟩]
  | .intStstat => [⟨0, 43, .ro, 0⟩, ⟨43, 4, .ro, 0⟩, ⟨47, 1, .w1c, 0⟩, ⟨48, 16, .ro, 0⟩]
  | .intStcnt => [⟨0, 16, .rc, 0⟩, ⟨16, 16, .rc, 0⟩, ⟨32, 16, .rc, 0⟩, ⟨48, 16, .rc, 0⟩]
  | .intIfctl => [⟨0, 1, .rw, 1⟩, ⟨8, 24, .rw, 21600⟩]
  | .intUmaddr => [⟨6, 42, .rw, 0⟩]
  | .intUmcmd => [⟨0, 2, .wo, 0⟩]
  | .intUmstat => [⟨0, 1, .ro, 0⟩, ⟨1, 1, .ro, 0⟩, ⟨8, 4, .ro, 0⟩, ⟨16, 16, .ro, 0⟩]
  | .intUawcnt => [⟨0, 32, .rc, 0⟩]
  | .intUawlast => [⟨0, 30, .ro, 0⟩, ⟨31, 1, .w1c, 0⟩]
  | .corePairctl _ => [⟨0, 1, .rw, 0⟩, ⟨1, 1, .ro, 0⟩]
  | .corePaircnt _ => [⟨0, 32, .rc, 0⟩, ⟨32, 16, .rc, 0⟩]
  | .coreIstat _ => [⟨0, 4, .ro, 0⟩, ⟨32, 32, .ro, 0⟩]
  | .clkPwrctl => [⟨0, 13, .rw, 3600⟩, ⟨13, 13, .rw, 4200⟩]
  | .clkPwrstat =>
    [⟨0, 13, .ro, 0⟩, ⟨13, 13, .ro, 0⟩, ⟨26, 10, .ro, 0⟩, ⟨36, 1, .ro, 0⟩, ⟨37, 1, .ro, 0⟩, ⟨38, 1, .ro, 0⟩,
     ⟨39, 1, .ro, 0⟩, ⟨40, 1, .ro, 0⟩]
  | .clkPwrcnt => [⟨0, 32, .rc, 0⟩, ⟨32, 32, .rc, 0⟩]
  | .clkEnergy => [⟨0, 64, .ro, 0⟩]
  | .clkThctl => [⟨0, 8, .rw, 100⟩, ⟨8, 8, .rw, 105⟩]
  | .clkCadstat => [⟨0, 1, .ro, 0⟩, ⟨1, 1, .w1c, 0⟩, ⟨16, 16, .rc, 0⟩]
  | .clkPscmd => [⟨0, 2, .wo, 0⟩]
  | .clkBrcmd => [⟨0, 1, .wo, 0⟩]
  | .clkBrstat =>
    [⟨0, 3, .ro, 0⟩, ⟨3, 1, .ro, 0⟩, ⟨4, 1, .ro, 0⟩, ⟨5, 1, .ro, 0⟩, ⟨6, 1, .ro, 0⟩, ⟨7, 1, .ro, 0⟩,
     ⟨8, 1, .ro, 0⟩, ⟨9, 1, .w1c, 0⟩, ⟨32, 24, .ro, 0⟩]
  | .clkRstcmd => [⟨0, 2, .wo, 0⟩, ⟨8, 8, .wo, 0⟩]
  | .clkRststat => [⟨0, 4, .ro, 1⟩, ⟨4, 1, .w1c, 0⟩, ⟨5, 1, .w1c, 0⟩, ⟨6, 1, .ro, 0⟩, ⟨16, 16, .rc, 0⟩]
  | .clkPcycle => [⟨0, 32, .ro, 0⟩]
  | .clkOpsec => [⟨0, 40, .ro, 0⟩]
  | .cluDrlctl _ =>
    [⟨0, 2, .rw, 0⟩, ⟨2, 1, .rw, 0⟩, ⟨3, 1, .rw, 0⟩, ⟨4, 1, .wo, 0⟩, ⟨8, 16, .rw, 20⟩, ⟨24, 16, .rw, 1000⟩]
  | .cluDrlstat _ =>
    [⟨0, 3, .ro, 2⟩, ⟨3, 2, .ro, 2⟩, ⟨5, 1, .ro, 0⟩, ⟨6, 1, .ro, 0⟩, ⟨7, 1, .ro, 0⟩, ⟨8, 1, .ro, 0⟩,
     ⟨9, 1, .ro, 0⟩, ⟨16, 8, .ro, 0⟩, ⟨24, 1, .ro, 0⟩]
  | .cluDrlwake _ => [⟨0, 64, .rw, 0⟩]
  | .cluDrlcnt _ => [⟨0, 24, .rc, 0⟩, ⟨24, 16, .rc, 0⟩, ⟨40, 24, .rc, 0⟩]
  | .cluDrlwait _ => [⟨0, 48, .rc, 0⟩]
  | .hubDbgsel => [⟨0, 8, .rw, 0⟩, ⟨8, 3, .rw, 0⟩, ⟨11, 5, .rw, 0⟩, ⟨16, 1, .wo, 0⟩]
  | .hubDbgstat => [⟨0, 1, .w1c, 0⟩, ⟨1, 1, .w1c, 0⟩]
  | .hubDbgst2 => [⟨0, 64, .ro, 0⟩]
  | .hubDbgdata _ => [⟨0, 64, .ro, 0⟩]
  | .pciLstat => [⟨0, 3, .ro, 0⟩, ⟨3, 5, .ro, 0⟩, ⟨8, 1, .ro, 0⟩, ⟨9, 1, .ro, 0⟩, ⟨10, 1, .ro, 0⟩, ⟨16, 16, .rc, 0⟩]
  | .pciBar2map => [⟨30, 18, .rw, 0⟩]
  | .pciCpyin => [⟨0, 48, .rc, 0⟩]
  | .pciCpyout => [⟨0, 48, .rc, 0⟩]
  | .pciErr => [⟨0, 16, .rc, 0⟩, ⟨16, 16, .rc, 0⟩, ⟨32, 16, .rc, 0⟩]
  | .pciAper i => [⟨0, 1, .rw, aperEn i⟩, ⟨20, 10, .rw, aperBase i⟩]
  | .pciIwcfg _ => [⟨0, 1, .rw, 0⟩, ⟨1, 2, .rw, 1⟩, ⟨12, 52, .rw, 0⟩]
  | .pciIwstat _ =>
    [⟨0, 16, .ro, 0⟩, ⟨16, 16, .ro, 0⟩, ⟨32, 1, .ro, 0⟩, ⟨33, 1, .w1c, 0⟩, ⟨34, 1, .w1c, 0⟩, ⟨35, 1, .w1c, 0⟩]
  | .icuPend _ _ => [⟨0, 64, .w1c, 0⟩]
  | .icuCnt _ _ => [⟨0, 64, .rc, 0⟩]
  | .icuRoute _ _ =>
    [⟨0, 1, .rw, 0⟩, ⟨1, 1, .rw, 0⟩, ⟨2, 1, .rw, 0⟩, ⟨3, 2, .rw, 0⟩, ⟨5, 1, .ro, 0⟩, ⟨16, 11, .rw, 0⟩]
  | .icuPriven _ _ => [⟨0, 64, .rw, 0⟩]
  | .icuRaise _ => [⟨0, 9, .wo, 0⟩]
  | .icuHtmr _ _ _ => [⟨0, 64, .rw, 0⟩]
  | .hubSvcstat => [⟨0, 2, .ro, 0⟩, ⟨8, 8, .ro, 0⟩, ⟨16, 8, .ro, 0⟩, ⟨32, 32, .ro, 0⟩]
  | .hubSvcin => [⟨0, 32, .ro, 0⟩]
  | .hubSvccnt => [⟨0, 32, .rc, 0⟩, ⟨32, 16, .rc, 0⟩, ⟨48, 16, .rc, 0⟩]
  | .hubFwcmd => [⟨0, 3, .wo, 0⟩, ⟨3, 1, .wo, 0⟩, ⟨4, 10, .wo, 0⟩, ⟨16, 42, .wo, 0⟩]
  | .hubFwstat =>
    [⟨0, 2, .ro, 0⟩, ⟨2, 1, .ro, 0⟩, ⟨3, 1, .w1c, 0⟩, ⟨4, 4, .ro, 0⟩, ⟨8, 1, .ro, 0⟩, ⟨9, 1, .ro, 0⟩,
     ⟨10, 2, .ro, 0⟩, ⟨12, 1, .ro, 0⟩, ⟨13, 2, .ro, 0⟩, ⟨16, 10, .ro, 0⟩, ⟨26, 10, .ro, 0⟩]
  | .hubFwcnt => [⟨0, 16, .rc, 0⟩, ⟨16, 16, .rc, 0⟩, ⟨32, 16, .rc, 0⟩, ⟨48, 16, .rc, 0⟩]
  | .hubFwver => [⟨0, 32, .ro, 0⟩, ⟨32, 32, .ro, 0⟩]
  | .hubFwminsvn => [⟨0, 32, .ro, 0⟩]
  | .hubFwctl => [⟨0, 1, .rw, 0⟩, ⟨1, 1, .rw, 1⟩]
  | .hubFwucmix => [⟨0, 16, .ro, 0⟩, ⟨16, 8, .ro, 0⟩]
  | .hubIdstat => [⟨0, 1, .ro, 0⟩, ⟨1, 1, .ro, 0⟩]
  | .hubFwbm _ => [⟨0, 64, .ro, 0⟩]
  | .evrSeq => [⟨0, 32, .ro, 0⟩, ⟨32, 32, .ro, 0⟩]
  | .evrStat => [⟨0, 18, .ro, 0⟩, ⟨18, 1, .ro, 0⟩, ⟨19, 1, .ro, 0⟩, ⟨20, 12, .ro, 0⟩]
  | .evrDrop => [⟨0, 24, .ro, 0⟩]
  | .evrCur => [⟨0, 32, .rw, 0⟩, ⟨32, 1, .rw, 1⟩, ⟨33, 1, .w1c, 0⟩, ⟨34, 1, .ro, 0⟩]
  | .evrClr => [⟨0, 32, .wo, 0⟩, ⟨32, 2, .wo, 0⟩, ⟨34, 1, .wo, 0⟩]
  | .evrWear => [⟨0, 32, .ro, 0⟩, ⟨32, 8, .ro, 0⟩]
  | .evrWin _ => [⟨0, 64, .ro, 0⟩]
  | .cluUclk _ => [⟨0, 64, .ro, 0⟩]
  | .cluUquad _ => [⟨0, 64, .ro, 0⟩]
  | .cluUvec _ => [⟨0, 64, .ro, 0⟩]
  | .cluUidle _ => [⟨0, 64, .ro, 0⟩]
  | .cluUerr _ => [⟨0, 16, .ro, 0⟩, ⟨16, 16, .ro, 0⟩, ⟨32, 16, .ro, 0⟩, ⟨48, 16, .ro, 0⟩]
  | .pmuCtl => [⟨0, 1, .wo, 0⟩]
  | .pmuLtime => [⟨0, 64, .ro, 0⟩]
  | .pmuMark => [⟨0, 64, .wo, 0⟩]
  | .pmuSel _ =>
    [⟨0, 8, .rw, 0⟩, ⟨8, 1, .rw, 0⟩, ⟨9, 16, .rw, 65535⟩, ⟨25, 1, .rw, 0⟩, ⟨26, 1, .rw, 0⟩, ⟨32, 16, .rw, 0⟩,
     ⟨48, 16, .rw, 0⟩]
  | .pmuCtr _ => [⟨0, 64, .ro, 0⟩]
  | .pmuLctr _ => [⟨0, 64, .ro, 0⟩]
  | .pmuTrCtl _ => [⟨0, 1, .rw, 0⟩, ⟨1, 1, .rw, 0⟩, ⟨8, 7, .rw, 0⟩]
  | .pmuPan _ => [⟨0, 1, .rw, 0⟩, ⟨30, 18, .rw, 0⟩, ⟨48, 7, .rw, 0⟩]
  | .pmuTrKind _ => [⟨0, 64, .rw, 0⟩]
  | .pmuTrFilt _ => [⟨0, 16, .rw, 0⟩, ⟨16, 16, .rw, 0⟩, ⟨32, 1, .rw, 0⟩, ⟨33, 1, .rw, 0⟩, ⟨34, 8, .rw, 255⟩]
  | .pmuTrWp _ => [⟨0, 64, .ro, 0⟩]
  | .pmuTrRp _ => [⟨0, 64, .rw, 0⟩]
  | .pmuTrStat _ => [⟨0, 1, .ro, 0⟩, ⟨32, 32, .rc, 0⟩]
  | .pmuWpCtli _ => [⟨0, 1, .rw, 0⟩, ⟨1, 2, .rw, 0⟩, ⟨3, 1, .rw, 1⟩, ⟨4, 8, .rw, 0⟩, ⟨12, 8, .rw, 0⟩]
  | .pmuWpIdi _ => [⟨0, 16, .rw, 0⟩, ⟨16, 16, .rw, 0⟩, ⟨32, 32, .rw, 0⟩]
  | .pmuWpDsti _ => [⟨6, 42, .rw, 0⟩]
  | .pmuWpLimi _ => [⟨0, 32, .rw, 0⟩, ⟨32, 16, .rw, 0⟩]
  | .pmuWpCli _ => [⟨0, 64, .rw, 0⟩]
  | .pmuWpStati _ => [⟨0, 16, .ro, 0⟩, ⟨16, 1, .w1c, 0⟩, ⟨17, 1, .w1c, 0⟩, ⟨32, 32, .ro, 0⟩]
  | .pmuBgDram _ => [⟨0, 64, .ro, 0⟩]
  | .pmuBgSpk _ => [⟨0, 64, .ro, 0⟩]
  | .pmuBgCore _ => [⟨0, 64, .ro, 0⟩]
  | .pmuBgEnergy _ => [⟨0, 64, .ro, 0⟩]
  | .pmuBgtotDram => [⟨0, 64, .ro, 0⟩]
  | .pmuBgtotSpk => [⟨0, 64, .ro, 0⟩]
  | .pmuTelctl => [⟨0, 1, .rw, 0⟩, ⟨1, 10, .rw, 100⟩, ⟨12, 52, .rw, 0⟩]
  | .pmuTelpage _ => [⟨0, 64, .ro, 0⟩]
  | .clkPhys => [⟨0, 8, .ro, 0⟩, ⟨8, 8, .ro, 0⟩, ⟨16, 1, .ro, 0⟩, ⟨17, 1, .w1c, 0⟩, ⟨24, 6, .ro, 0⟩]

/-- The mask of a field. -/
def Field.mask (f : Field) : Word := (BitVec.ofNat 64 (2 ^ f.width - 1)) <<< f.lo

/-- The bits of a register that its table assigns; the others are reserved and read 0 (R8). -/
def Reg.mask (r : Reg) : Word := r.fields.foldl (fun a f => a ||| f.mask) 0

/-- A register's value after power-up. -/
def Reg.reset (r : Reg) : Word :=
  r.fields.foldl (fun a f => a ||| ((BitVec.ofNat 64 f.reset <<< f.lo) &&& f.mask)) 0

/-- Index of offset `o` in an array of `count` registers that starts at `base` with the given stride. -/
def regIndex (o base stride count : Nat) : Option Nat :=
  if base ≤ o ∧ (o - base) % stride = 0 ∧ (o - base) / stride < count then some ((o - base) / stride) else none

/-- An array of registers inside a block: base, stride, count and the register of each index. -/
structure RegArray where
  base : Nat
  stride : Nat
  count : Nat
  reg : Nat → Reg

/-- Look an offset up among a block's single registers and its arrays. -/
def regAt (single : List (Nat × Reg)) (arrays : List RegArray) (o : Nat) : Option Reg :=
  (single.lookup o).or (arrays.findSome? fun a => (regIndex o a.base a.stride a.count).map a.reg)

/-- The register at offset `o` of a ctx register block, if one lies there. -/
def ctxRegAt (c : Fin 256) (x : Fin 4) (o : Nat) : Option Reg :=
  regAt
    [(0x0, .ctxPc c x),
     (0x8, .ctxCmd c x),
     (0x10, .ctxCfg c x),
     (0x18, .ctxFlt0 c x),
     (0x20, .ctxFlt1 c x),
     (0x28, .ctxFlt2 c x),
     (0x30, .ctxFlt3 c x),
     (0x38, .ctxStep c x)]
    [] o

/-- The register at offset `o` of a core register block, if one lies there. -/
def coreRegAt (c : Fin 256) (o : Nat) : Option Reg :=
  regAt
    [(0x4060, .xesccnt c),
     (0x4068, .xrndcnt c),
     (0x4070, .xrplcnt c),
     (0x4078, .xlastov c),
     (0x4200, .fsatcnt c),
     (0x4208, .fovfcnt c),
     (0x4210, .funfcnt c),
     (0x4218, .fppcnt c),
     (0x4300, .coreCstat c),
     (0x4308, .coreSqacc c),
     (0x4310, .coreSqstat c),
     (0x4620, .clstat c),
     (0x4660, .xddrop c),
     (0x4720, .hclash c),
     (0x4800, .coreMcog c),
     (0x4808, .coreMecc c),
     (0x4810, .corePmplat c),
     (0x4900, .corePlncl c),
     (0x4908, .coreWaitin c),
     (0x4910, .coreWaitcr c),
     (0x4918, .coreTend c),
     (0x4a00, .corePairctl c),
     (0x4a08, .corePaircnt c),
     (0x4a10, .coreIstat c)]
    [⟨0x4000, 8, 4, fun i => .xseed c (Fin.ofNat _ i)⟩,
     ⟨0x4020, 8, 4, fun i => .xctl c (Fin.ofNat _ i)⟩,
     ⟨0x4040, 8, 4, fun i => .xraise c (Fin.ofNat _ i)⟩,
     ⟨0x4100, 8, 4, fun i => .fsctl c (Fin.ofNat _ i)⟩,
     ⟨0x4120, 8, 4, fun i => .fhist c (Fin.ofNat _ i)⟩,
     ⟨0x4140, 8, 4, fun i => .fnan c (Fin.ofNat _ i)⟩,
     ⟨0x4160, 8, 4, fun i => .fncnt c (Fin.ofNat _ i)⟩,
     ⟨0x4180, 32, 4, fun i => .fnrec0 c (Fin.ofNat _ i)⟩,
     ⟨0x4188, 32, 4, fun i => .fnrec1 c (Fin.ofNat _ i)⟩,
     ⟨0x4190, 32, 4, fun i => .fnrec2 c (Fin.ofNat _ i)⟩,
     ⟨0x4198, 32, 4, fun i => .fnrec3 c (Fin.ofNat _ i)⟩,
     ⟨0x4320, 8, 8, fun i => .coreAtstat c (Fin.ofNat _ i)⟩,
     ⟨0x4500, 8, 8, fun i => .pwin c (Fin.ofNat _ i)⟩,
     ⟨0x4600, 8, 4, fun i => .clr c (Fin.ofNat _ i)⟩,
     ⟨0x4640, 8, 4, fun i => .opst c (Fin.ofNat _ i)⟩,
     ⟨0x6000, 8, 256, fun i => .clt c (Fin.ofNat _ i)⟩,
     ⟨0x4700, 8, 4, fun i => .hlth c (Fin.ofNat _ i)⟩] o

/-- The register at offset `o` of a clu register block, if one lies there. -/
def cluRegAt (k : Fin 16) (o : Nat) : Option Reg :=
  regAt
    [(0x2000, .cluCstat k),
     (0x2008, .cluCrkcnt k),
     (0x2010, .cluHandcnt k),
     (0x2100, .cluCccfg k),
     (0x2108, .cluCchit k),
     (0x2110, .cluCcmiss k),
     (0x2118, .cluCcecc k),
     (0x2120, .cluSprstat k),
     (0x2200, .cluDrlctl k),
     (0x2208, .cluDrlstat k),
     (0x2210, .cluDrlwake k),
     (0x2218, .cluDrlcnt k),
     (0x2220, .cluDrlwait k),
     (0x2400, .cluUclk k),
     (0x2408, .cluUquad k),
     (0x2410, .cluUvec k),
     (0x2418, .cluUidle k),
     (0x2420, .cluUerr k)]
    [] o

/-- The register at offset `o` of a stk register block, if one lies there. -/
def stkRegAt (d : Fin 2) (m : Fin 12) (o : Nat) : Option Reg :=
  regAt
    [(0x0, .stkStat d m),
     (0x8, .stkCorr d m),
     (0x10, .stkUncorr d m),
     (0x18, .stkRpr d m),
     (0x20, .stkRprcmd d m)]
    [] o

/-- The register at offset `o` of a mem register block, if one lies there. -/
def memRegAt (d : Fin 2) (o : Nat) : Option Reg :=
  regAt
    [(0xf00000, .memCfg d),
     (0xf00008, .memScrctl d),
     (0xf00010, .memScrpos d),
     (0xf00018, .memScrstat d),
     (0xf00020, .memUelog d)]
    [] o

/-- The register at offset `o` of a spk register block, if one lies there. -/
def spkRegAt (p : Fin 8) (o : Nat) : Option Reg :=
  regAt
    [(0x0, .spkLctl p),
     (0x8, .spkLstat p),
     (0x10, .spkVcw p),
     (0x18, .spkFec p),
     (0x20, .spkRetry p),
     (0x28, .spkTxf p),
     (0x30, .spkRxf p),
     (0x38, .spkDisc p),
     (0x40, .spkPrb p)]
    [] o

/-- The register at offset `o` of a icu register block, if one lies there. -/
def icuRegAt (d : Fin 2) (o : Nat) : Option Reg :=
  regAt
    [(0xc20, .icuRaise d)]
    [⟨0x0, 8, 8, fun i => .icuPend d (Fin.ofNat _ i)⟩,
     ⟨0x100, 8, 64, fun i => .icuCnt d (Fin.ofNat _ i)⟩,
     ⟨0x400, 8, 256, fun i => .icuRoute d (Fin.ofNat _ i)⟩,
     ⟨0xc00, 8, 4, fun i => .icuPriven d (Fin.ofNat _ i)⟩,
     ⟨0x1000, 8, 16, fun i => .icuHtmr d 0 (Fin.ofNat _ i)⟩,
     ⟨0x1080, 8, 16, fun i => .icuHtmr d 1 (Fin.ofNat _ i)⟩,
     ⟨0x1100, 8, 16, fun i => .icuHtmr d 2 (Fin.ofNat _ i)⟩,
     ⟨0x1180, 8, 16, fun i => .icuHtmr d 3 (Fin.ofNat _ i)⟩] o

/-- The register at offset `o` of a hub register block, if one lies there. -/
def hubRegAt (o : Nat) : Option Reg :=
  regAt
    [(0x2f00, .hubLock),
     (0x2000, .hubModctl),
     (0x2008, .hubModstat),
     (0x2010, .hubBrgcnt),
     (0x2100, .hubGenlist),
     (0x2108, .hubGenlen),
     (0x2110, .hubGencmd),
     (0x2118, .hubGenlive),
     (0x2120, .hubGenstat),
     (0x2128, .hubGenlimit),
     (0x2200, .hubPltcmd),
     (0x2208, .hubPltstat),
     (0x2210, .hubPltctl),
     (0x2218, .hubPltcnt),
     (0x2240, .hubSnapctl),
     (0x2248, .hubSnaplist),
     (0x2250, .hubSnapbase),
     (0x2258, .hubSnapstat),
     (0x2280, .hubPlnctl),
     (0x2288, .hubPlnocc),
     (0x2300, .hubDbgsel),
     (0x2308, .hubDbgstat),
     (0x2310, .hubDbgst2),
     (0x2600, .hubSvcstat),
     (0x2608, .hubSvcin),
     (0x2610, .hubSvccnt),
     (0x2800, .hubFwcmd),
     (0x2808, .hubFwstat),
     (0x2810, .hubFwcnt),
     (0x2818, .hubFwver),
     (0x2820, .hubFwminsvn),
     (0x2828, .hubFwctl),
     (0x2830, .hubFwucmix),
     (0x2838, .hubIdstat)]
    [⟨0x2400, 8, 64, fun i => .hubDbgdata (Fin.ofNat _ i)⟩,
     ⟨0x2840, 8, 12, fun i => .hubFwbm (Fin.ofNat _ i)⟩] o

/-- The register at offset `o` of a clk register block, if one lies there. -/
def clkRegAt (o : Nat) : Option Reg :=
  regAt
    [(0x0, .clkPwrctl),
     (0x8, .clkPwrstat),
     (0x10, .clkPwrcnt),
     (0x18, .clkEnergy),
     (0x20, .clkThctl),
     (0x28, .clkCadstat),
     (0x30, .clkPscmd),
     (0x38, .clkBrcmd),
     (0x40, .clkBrstat),
     (0x48, .clkRstcmd),
     (0x50, .clkRststat),
     (0x58, .clkPcycle),
     (0x60, .clkOpsec),
     (0x68, .clkPhys)]
    [] o

/-- The register at offset `o` of a evr register block, if one lies there. -/
def evrRegAt (o : Nat) : Option Reg :=
  regAt
    [(0x0, .evrSeq),
     (0x8, .evrStat),
     (0x10, .evrDrop),
     (0x18, .evrCur),
     (0x20, .evrClr),
     (0x28, .evrWear)]
    [⟨0x40, 8, 8, fun i => .evrWin (Fin.ofNat _ i)⟩] o

/-- The register at offset `o` of a pci register block, if one lies there. -/
def pciRegAt (o : Nat) : Option Reg :=
  regAt
    [(0x0, .pciLstat),
     (0x8, .pciBar2map),
     (0x10, .pciCpyin),
     (0x18, .pciCpyout),
     (0x20, .pciErr)]
    [⟨0x108, 8, 62, fun i => .pciAper (Fin.ofNat _ i)⟩,
     ⟨0x1000, 8, 256, fun i => .pciIwcfg (Fin.ofNat _ i)⟩,
     ⟨0x1800, 8, 256, fun i => .pciIwstat (Fin.ofNat _ i)⟩] o

/-- The register at offset `o` of a spkm register block, if one lies there. -/
def spkmRegAt (o : Nat) : Option Reg :=
  regAt
    [(0x0, .spkmCoord),
     (0x8, .spkmMap),
     (0x10, .spkmGpeer),
     (0x18, .spkmBlk),
     (0x20, .spkmRt),
     (0x28, .spkmCtl),
     (0x30, .spkmSpill),
     (0x38, .spkmFcstat),
     (0x60, .spkmSpillstat),
     (0x40, .spkmSlotstat),
     (0x48, .spkmSlotcnt),
     (0x50, .spkmRescnt)]
    [⟨0x100, 8, 129, fun i => .spkmGrt (Fin.ofNat _ i)⟩] o

/-- The register at offset `o` of a pmu register block, if one lies there. -/
def pmuRegAt (o : Nat) : Option Reg :=
  regAt
    [(0x0, .pmuCtl),
     (0x8, .pmuLtime),
     (0x80, .pmuMark),
     (0xcc0, .pmuBgtotDram),
     (0xcc8, .pmuBgtotSpk),
     (0xd00, .pmuTelctl)]
    [⟨0x100, 8, 16, fun i => .pmuSel (Fin.ofNat _ i)⟩,
     ⟨0x180, 8, 16, fun i => .pmuCtr (Fin.ofNat _ i)⟩,
     ⟨0x200, 8, 16, fun i => .pmuLctr (Fin.ofNat _ i)⟩,
     ⟨0x400, 64, 2, fun i => .pmuTrCtl (Fin.ofNat _ i)⟩,
     ⟨0x408, 64, 2, fun i => .pmuPan (Fin.ofNat _ i)⟩,
     ⟨0x410, 64, 2, fun i => .pmuTrKind (Fin.ofNat _ i)⟩,
     ⟨0x418, 64, 2, fun i => .pmuTrFilt (Fin.ofNat _ i)⟩,
     ⟨0x420, 64, 2, fun i => .pmuTrWp (Fin.ofNat _ i)⟩,
     ⟨0x428, 64, 2, fun i => .pmuTrRp (Fin.ofNat _ i)⟩,
     ⟨0x430, 64, 2, fun i => .pmuTrStat (Fin.ofNat _ i)⟩,
     ⟨0x800, 64, 16, fun i => .pmuWpCtli (Fin.ofNat _ i)⟩,
     ⟨0x808, 64, 16, fun i => .pmuWpIdi (Fin.ofNat _ i)⟩,
     ⟨0x810, 64, 16, fun i => .pmuWpDsti (Fin.ofNat _ i)⟩,
     ⟨0x818, 64, 16, fun i => .pmuWpLimi (Fin.ofNat _ i)⟩,
     ⟨0x820, 64, 16, fun i => .pmuWpCli (Fin.ofNat _ i)⟩,
     ⟨0x828, 64, 16, fun i => .pmuWpStati (Fin.ofNat _ i)⟩,
     ⟨0xc00, 32, 6, fun i => .pmuBgDram (Fin.ofNat _ i)⟩,
     ⟨0xc08, 32, 6, fun i => .pmuBgSpk (Fin.ofNat _ i)⟩,
     ⟨0xc10, 32, 6, fun i => .pmuBgCore (Fin.ofNat _ i)⟩,
     ⟨0xc18, 32, 6, fun i => .pmuBgEnergy (Fin.ofNat _ i)⟩,
     ⟨0xe00, 8, 32, fun i => .pmuTelpage (Fin.ofNat _ i)⟩] o

/-- The register at offset `o` of a int register block, if one lies there. -/
def intRegAt (o : Nat) : Option Reg :=
  regAt
    [(0x0, .intCkctl),
     (0x8, .intCklo),
     (0x10, .intCkhi),
     (0x18, .intCkcnt),
     (0x20, .intCap),
     (0x28, .intSpotctl),
     (0x30, .intSpotcnt),
     (0x38, .intTdctl),
     (0x40, .intTddig0),
     (0x48, .intTddig1),
     (0x50, .intTdcnt),
     (0x58, .intStctl),
     (0x60, .intStstat),
     (0x68, .intStcnt),
     (0x70, .intIfctl),
     (0x78, .intUmaddr),
     (0x80, .intUmcmd),
     (0x88, .intUmstat),
     (0x90, .intUawcnt),
     (0x98, .intUawlast)]
    [] o

/-- The register at control-window offset `o`, if one lies there (R10; the offsets without one are R8's unassigned
offsets, the Hub SRAM windows apart). -/
def Reg.ofOffset (o : Nat) : Option Reg :=
  if o < 0x01000000 then hubRegAt o
  else if o < 0x02000000 then
    icuRegAt (Fin.ofNat _ ((o - 0x01000000) / 0x800000)) ((o - 0x01000000) % 0x800000)
  else if o < 0x03000000 then clkRegAt (o - 0x02000000)
  else if o < 0x04000000 then evrRegAt (o - 0x03000000)
  else if o < 0x05000000 then pciRegAt (o - 0x04000000)
  else if o < 0x07000000 then
    let d := Fin.ofNat 2 ((o - 0x05000000) / 0x01000000)
    let r := (o - 0x05000000) % 0x01000000
    if r < 0xC00000 then stkRegAt d (Fin.ofNat _ (r / 0x100000)) (r % 0x100000) else memRegAt d r
  else if o < 0x08000000 then none
  else if o < 0x08800000 then spkRegAt (Fin.ofNat _ ((o - 0x08000000) / 0x100000)) ((o - 0x08000000) % 0x100000)
  else if o < 0x09000000 then spkmRegAt (o - 0x08800000)
  else if o < 0x10000000 then none
  else if o < 0x20000000 then
    let k := (o - 0x10000000) / 0x01000000
    let r := (o - 0x10000000) % 0x01000000
    if r < 0x100000 then cluRegAt (Fin.ofNat _ k) r
    else if r < 0x900000 then
      let c := Fin.ofNat 256 (16 * k + (r - 0x100000) / 0x80000)
      let q := (r - 0x100000) % 0x80000
      if 0x4400 ≤ q ∧ q < 0x4500 then ctxRegAt c (Fin.ofNat _ ((q - 0x4400) / 0x40)) ((q - 0x4400) % 0x40)
      else coreRegAt c q
    else none
  else if o < 0x21000000 then pmuRegAt (o - 0x20000000)
  else if 0x30000000 ≤ o ∧ o < 0x31000000 then intRegAt (o - 0x30000000)
  else none

/-! Field names: (lowest bit, width) of each field of the tables. -/
namespace F

abbrev hubLock_LOCK : Nat × Nat := (0, 11)
abbrev xseed_SEED : Nat × Nat := (0, 32)
abbrev xctl_DTLOG : Nat × Nat := (0, 6)
abbrev xctl_RND : Nat × Nat := (8, 2)
abbrev xraise_EN : Nat × Nat := (0, 1)
abbrev xraise_BASE : Nat × Nat := (14, 34)
abbrev xesccnt_COUNT : Nat × Nat := (0, 48)
abbrev xrndcnt_COUNT : Nat × Nat := (0, 48)
abbrev xrplcnt_RAISES : Nat × Nat := (0, 16)
abbrev xrplcnt_FALLBACKS : Nat × Nat := (16, 16)
abbrev xlastov_OPTAG : Nat × Nat := (0, 16)
abbrev xlastov_ANCHOR : Nat × Nat := (16, 12)
abbrev xlastov_RAISE : Nat × Nat := (28, 2)
abbrev xlastov_FALLBACK : Nat × Nat := (30, 1)
abbrev xlastov_VALID : Nat × Nat := (31, 1)
abbrev xlastov_STEP : Nat × Nat := (32, 32)
abbrev fsctl_HLEN : Nat × Nat := (0, 7)
abbrev fsctl_MARGIN : Nat × Nat := (8, 3)
abbrev fsctl_FLOORSPAN : Nat × Nat := (16, 6)
abbrev fsctl_PREPASS : Nat × Nat := (24, 1)
abbrev fhist_EN : Nat × Nat := (0, 1)
abbrev fhist_BASE : Nat × Nat := (25, 23)
abbrev fnan_ARM : Nat × Nat := (0, 1)
abbrev fnan_TRAPPED : Nat × Nat := (1, 1)
abbrev fnan_LOST : Nat × Nat := (2, 1)
abbrev fncnt_COUNT : Nat × Nat := (0, 48)
abbrev fnrec0_OPTAG : Nat × Nat := (0, 16)
abbrev fnrec0_LAYER : Nat × Nat := (16, 16)
abbrev fnrec0_STEP : Nat × Nat := (32, 32)
abbrev fnrec1_IADDR : Nat × Nat := (0, 48)
abbrev fnrec1_MBATCH : Nat × Nat := (48, 8)
abbrev fnrec1_CTX : Nat × Nat := (56, 2)
abbrev fnrec2_ELEM : Nat × Nat := (0, 40)
abbrev fnrec2_OPND : Nat × Nat := (40, 2)
abbrev fnrec2_KIND : Nat × Nat := (42, 1)
abbrev fnrec2_VALID : Nat × Nat := (63, 1)
abbrev fnrec3_TID : Nat × Nat := (0, 24)
abbrev fnrec3_FORMAT : Nat × Nat := (24, 4)
abbrev fsatcnt_COUNT : Nat × Nat := (0, 48)
abbrev fovfcnt_COUNT : Nat × Nat := (0, 48)
abbrev funfcnt_COUNT : Nat × Nat := (0, 48)
abbrev fppcnt_COUNT : Nat × Nat := (0, 32)
abbrev coreCstat_ENGOK : Nat × Nat := (0, 4)
abbrev coreCstat_VECOK : Nat × Nat := (4, 1)
abbrev coreCstat_BPOK : Nat × Nat := (5, 1)
abbrev coreCstat_DEGRADED : Nat × Nat := (6, 1)
abbrev coreCstat_USABLE : Nat × Nat := (7, 1)
abbrev coreSqacc_OWN : Nat × Nat := (0, 16)
abbrev coreSqstat_STATE : Nat × Nat := (0, 16)
abbrev coreAtstat_ANCHOR : Nat × Nat := (0, 12)
abbrev coreAtstat_SINF : Nat × Nat := (12, 1)
abbrev coreAtstat_EMPTY : Nat × Nat := (13, 1)
abbrev coreAtstat_RAISE : Nat × Nat := (14, 2)
abbrev coreAtstat_OPTAG : Nat × Nat := (16, 16)
abbrev coreAtstat_BUSY : Nat × Nat := (32, 1)
abbrev cluCstat_COREOK : Nat × Nat := (0, 16)
abbrev cluCstat_CRKOK : Nat × Nat := (16, 1)
abbrev cluCrkcnt_COUNT : Nat × Nat := (0, 48)
abbrev cluHandcnt_COUNT : Nat × Nat := (0, 16)
abbrev hubModctl_MODE : Nat × Nat := (0, 1)
abbrev hubModstat_MODE : Nat × Nat := (0, 1)
abbrev hubModstat_REJ : Nat × Nat := (1, 1)
abbrev hubBrgcnt_CORR : Nat × Nat := (0, 32)
abbrev hubBrgcnt_RETRY : Nat × Nat := (32, 16)
abbrev hubBrgcnt_DOWN : Nat × Nat := (63, 1)
abbrev ctxPc_PC : Nat × Nat := (0, 48)
abbrev ctxCmd_CMD : Nat × Nat := (0, 3)
abbrev ctxCfg_PRIV : Nat × Nat := (0, 2)
abbrev ctxCfg_LOADED : Nat × Nat := (2, 1)
abbrev ctxCfg_IMAGE : Nat × Nat := (6, 42)
abbrev ctxFlt0_CODE : Nat × Nat := (0, 4)
abbrev ctxFlt0_DETAIL : Nat × Nat := (4, 4)
abbrev ctxFlt0_OP : Nat × Nat := (8, 8)
abbrev ctxFlt0_OPTAG : Nat × Nat := (16, 16)
abbrev ctxFlt0_LAYER : Nat × Nat := (32, 16)
abbrev ctxFlt0_MBATCH : Nat × Nat := (48, 8)
abbrev ctxFlt0_ASYNC : Nat × Nat := (61, 1)
abbrev ctxFlt0_LOST : Nat × Nat := (62, 1)
abbrev ctxFlt0_VALID : Nat × Nat := (63, 1)
abbrev ctxFlt1_IADDR : Nat × Nat := (0, 48)
abbrev ctxFlt2_VALUE : Nat × Nat := (0, 64)
abbrev ctxFlt3_STEP : Nat × Nat := (0, 32)
abbrev ctxFlt3_TREG : Nat × Nat := (32, 4)
abbrev ctxStep_STEP : Nat × Nat := (0, 64)
abbrev pwin_EN : Nat × Nat := (0, 1)
abbrev pwin_WR : Nat × Nat := (1, 1)
abbrev pwin_EXEC : Nat × Nat := (2, 1)
abbrev pwin_BASE : Nat × Nat := (26, 22)
abbrev pwin_SIZE : Nat × Nat := (48, 16)
abbrev hubGenlist_ADDR : Nat × Nat := (6, 42)
abbrev hubGenlen_COUNT : Nat × Nat := (0, 17)
abbrev hubGencmd_GEN : Nat × Nat := (0, 32)
abbrev hubGencmd_STEP : Nat × Nat := (32, 32)
abbrev hubGenlive_GEN : Nat × Nat := (0, 32)
abbrev hubGenlive_STEP : Nat × Nat := (32, 32)
abbrev hubGenstat_PEND : Nat × Nat := (0, 1)
abbrev hubGenstat_COPIED : Nat × Nat := (1, 1)
abbrev hubGenstat_DRAIN : Nat × Nat := (2, 1)
abbrev hubGenstat_REJ : Nat × Nat := (3, 1)
abbrev hubGenstat_WHY : Nat × Nat := (4, 4)
abbrev hubGenstat_EARLY : Nat × Nat := (8, 1)
abbrev hubGenstat_OVER : Nat × Nat := (9, 1)
abbrev hubGenstat_DRAINUS : Nat × Nat := (32, 32)
abbrev hubGenlimit_LIMIT : Nat × Nat := (0, 20)
abbrev clr_BASE : Nat × Nat := (0, 8)
abbrev clr_COUNT : Nat × Nat := (8, 9)
abbrev clstat_UNBAL : Nat × Nat := (0, 4)
abbrev clstat_FIRST : Nat × Nat := (4, 8)
abbrev clstat_CTX : Nat × Nat := (12, 2)
abbrev opst_OPTAG : Nat × Nat := (0, 16)
abbrev opst_RAISE : Nat × Nat := (16, 2)
abbrev opst_OPEN : Nat × Nat := (18, 1)
abbrev opst_SEALED : Nat × Nat := (19, 1)
abbrev opst_ENDWAIT : Nat × Nat := (20, 1)
abbrev opst_PH : Nat × Nat := (32, 14)
abbrev xddrop_COUNT : Nat × Nat := (0, 48)
abbrev clt_VALUE : Nat × Nat := (0, 64)
abbrev hlth_EN : Nat × Nat := (0, 1)
abbrev hlth_BASE : Nat × Nat := (21, 27)
abbrev hclash_COUNT : Nat × Nat := (0, 32)
abbrev memCfg_NSTK : Nat × Nat := (0, 4)
abbrev memCfg_STKOK : Nat × Nat := (16, 12)
abbrev memScrctl_EN : Nat × Nat := (0, 1)
abbrev memScrctl_PERIOD : Nat × Nat := (8, 24)
abbrev memScrpos_POS : Nat × Nat := (0, 40)
abbrev memScrpos_PASSES : Nat × Nat := (40, 24)
abbrev memScrstat_SLOW : Nat × Nat := (0, 1)
abbrev memScrstat_PAUSED : Nat × Nat := (1, 1)
abbrev memUelog_ADDR : Nat × Nat := (0, 40)
abbrev memUelog_SRC : Nat × Nat := (40, 2)
abbrev memUelog_VALID : Nat × Nat := (63, 1)
abbrev stkStat_USABLE : Nat × Nat := (0, 1)
abbrev stkStat_TRAINED : Nat × Nat := (1, 1)
abbrev stkStat_BAND : Nat × Nat := (2, 2)
abbrev stkStat_SREF : Nat × Nat := (4, 1)
abbrev stkStat_TEMP : Nat × Nat := (16, 8)
abbrev stkStat_TVALID : Nat × Nat := (24, 1)
abbrev stkCorr_COUNT : Nat × Nat := (0, 48)
abbrev stkUncorr_COUNT : Nat × Nat := (0, 32)
abbrev stkRpr_ROWS : Nat × Nat := (0, 16)
abbrev stkRpr_RUNTIME : Nat × Nat := (16, 16)
abbrev stkRpr_MINSPARE : Nat × Nat := (32, 8)
abbrev stkRprcmd_PC : Nat × Nat := (0, 5)
abbrev stkRprcmd_BANK : Nat × Nat := (5, 6)
abbrev stkRprcmd_ROW : Nat × Nat := (11, 14)
abbrev stkRprcmd_GO : Nat × Nat := (25, 1)
abbrev cluCccfg_SCRW : Nat × Nat := (0, 2)
abbrev cluCchit_COUNT : Nat × Nat := (0, 48)
abbrev cluCcmiss_COUNT : Nat × Nat := (0, 48)
abbrev cluCcecc_CORR : Nat × Nat := (0, 32)
abbrev cluCcecc_DROP : Nat × Nat := (32, 16)
abbrev cluCcecc_SUE : Nat × Nat := (48, 16)
abbrev cluSprstat_READS : Nat × Nat := (0, 48)
abbrev cluSprstat_QPEAK : Nat × Nat := (48, 10)
abbrev coreMcog_COUNT : Nat × Nat := (0, 48)
abbrev coreMecc_CORR : Nat × Nat := (0, 32)
abbrev coreMecc_UNCORR : Nat × Nat := (32, 16)
abbrev corePmplat_LOCAL : Nat × Nat := (0, 16)
abbrev corePmplat_BRIDGE : Nat × Nat := (16, 16)
abbrev corePmplat_CACHE : Nat × Nat := (32, 16)
abbrev corePmplat_REMOTE : Nat × Nat := (48, 16)
abbrev spkLctl_EN : Nat × Nat := (0, 1)
abbrev spkLctl_RESET : Nat × Nat := (1, 1)
abbrev spkLctl_RETRAIN : Nat × Nat := (2, 1)
abbrev spkLctl_X8OK : Nat × Nat := (3, 1)
abbrev spkLctl_RTHR : Nat × Nat := (8, 16)
abbrev spkLstat_STATE : Nat × Nat := (0, 3)
abbrev spkLstat_X8 : Nat × Nat := (3, 1)
abbrev spkLstat_HALF : Nat × Nat := (4, 1)
abbrev spkLstat_LANEOK : Nat × Nat := (16, 16)
abbrev spkLstat_RETRAINS : Nat × Nat := (32, 16)
abbrev spkVcw_W0 : Nat × Nat := (0, 6)
abbrev spkVcw_W1 : Nat × Nat := (8, 6)
abbrev spkVcw_W2 : Nat × Nat := (16, 6)
abbrev spkVcw_W3 : Nat × Nat := (24, 6)
abbrev spkVcw_W4 : Nat × Nat := (32, 6)
abbrev spkVcw_W5 : Nat × Nat := (40, 6)
abbrev spkVcw_W6 : Nat × Nat := (48, 6)
abbrev spkVcw_W7 : Nat × Nat := (56, 6)
abbrev spkFec_CORR : Nat × Nat := (0, 32)
abbrev spkFec_UNCORR : Nat × Nat := (32, 16)
abbrev spkRetry_FLITS : Nat × Nat := (0, 32)
abbrev spkRetry_NAKS : Nat × Nat := (32, 16)
abbrev spkTxf_COUNT : Nat × Nat := (0, 48)
abbrev spkRxf_COUNT : Nat × Nat := (0, 48)
abbrev spkDisc_MALF : Nat × Nat := (0, 16)
abbrev spkDisc_FOREIGN : Nat × Nat := (16, 16)
abbrev spkDisc_HOPLIM : Nat × Nat := (32, 16)
abbrev spkDisc_UNREACH : Nat × Nat := (48, 16)
abbrev spkPrb_LASTRX : Nat × Nat := (0, 20)
abbrev spkPrb_VALID : Nat × Nat := (20, 1)
abbrev spkmCoord_X : Nat × Nat := (0, 2)
abbrev spkmCoord_Y : Nat × Nat := (2, 2)
abbrev spkmCoord_Z : Nat × Nat := (4, 2)
abbrev spkmCoord_W : Nat × Nat := (8, 8)
abbrev spkmCoord_VALID : Nat × Nat := (16, 1)
abbrev spkmMap_ROLE0 : Nat × Nat := (0, 4)
abbrev spkmMap_ROLE1 : Nat × Nat := (4, 4)
abbrev spkmMap_ROLE2 : Nat × Nat := (8, 4)
abbrev spkmMap_ROLE3 : Nat × Nat := (12, 4)
abbrev spkmMap_ROLE4 : Nat × Nat := (16, 4)
abbrev spkmMap_ROLE5 : Nat × Nat := (20, 4)
abbrev spkmMap_ROLE6 : Nat × Nat := (24, 4)
abbrev spkmMap_ROLE7 : Nat × Nat := (28, 4)
abbrev spkmMap_VALID : Nat × Nat := (32, 1)
abbrev spkmGpeer_G6 : Nat × Nat := (0, 8)
abbrev spkmGpeer_G7 : Nat × Nat := (8, 8)
abbrev spkmBlk_XMASK : Nat × Nat := (0, 4)
abbrev spkmBlk_YMASK : Nat × Nat := (4, 4)
abbrev spkmBlk_ZMASK : Nat × Nat := (8, 4)
abbrev spkmBlk_WBASE : Nat × Nat := (12, 8)
abbrev spkmBlk_WCOUNT : Nat × Nat := (20, 8)
abbrev spkmRt_RTX : Nat × Nat := (0, 8)
abbrev spkmRt_RTY : Nat × Nat := (8, 8)
abbrev spkmRt_RTZ : Nat × Nat := (16, 8)
abbrev spkmCtl_BYPASS : Nat × Nat := (0, 1)
abbrev spkmCtl_TROOT : Nat × Nat := (1, 1)
abbrev spkmCtl_TPARENT : Nat × Nat := (2, 3)
abbrev spkmCtl_TMO : Nat × Nat := (8, 20)
abbrev spkmCtl_PRBTMO : Nat × Nat := (28, 16)
abbrev spkmCtl_RTWAIT : Nat × Nat := (44, 16)
abbrev spkmSpill_EN : Nat × Nat := (0, 1)
abbrev spkmSpill_BASE : Nat × Nat := (24, 24)
abbrev spkmSpill_SIZE : Nat × Nat := (48, 8)
abbrev spkmSpill_HOLD : Nat × Nat := (56, 8)
abbrev spkmFcstat_INUSE : Nat × Nat := (0, 14)
abbrev spkmFcstat_PEAK : Nat × Nat := (16, 14)
abbrev spkmFcstat_LATE : Nat × Nat := (32, 16)
abbrev spkmFcstat_TMO : Nat × Nat := (48, 16)
abbrev spkmSpillstat_HOLDDISC : Nat × Nat := (0, 32)
abbrev spkmSpillstat_PEAKMIB : Nat × Nat := (32, 16)
abbrev spkmGrt_MOD1 : Nat × Nat := (0, 6)
abbrev spkmGrt_PORT1 : Nat × Nat := (6, 1)
abbrev spkmGrt_V1 : Nat × Nat := (7, 1)
abbrev spkmGrt_MOD2 : Nat × Nat := (8, 6)
abbrev spkmGrt_PORT2 : Nat × Nat := (14, 1)
abbrev spkmGrt_V2 : Nat × Nat := (15, 1)
abbrev hubPltcmd_HANDLE : Nat × Nat := (0, 14)
abbrev hubPltcmd_CMD : Nat × Nat := (14, 2)
abbrev hubPltcmd_ADDR : Nat × Nat := (16, 42)
abbrev hubPltstat_OPEN : Nat × Nat := (0, 11)
abbrev hubPltstat_REJ : Nat × Nat := (11, 1)
abbrev hubPltstat_WHY : Nat × Nat := (12, 3)
abbrev hubPltstat_LASTH : Nat × Nat := (16, 14)
abbrev hubPltctl_JTMO : Nat × Nat := (0, 20)
abbrev hubPltctl_CTMO : Nat × Nat := (20, 20)
abbrev hubPltctl_SLOTTMO : Nat × Nat := (40, 8)
abbrev hubPltcnt_COLL : Nat × Nat := (0, 32)
abbrev hubPltcnt_ABORTS : Nat × Nat := (32, 16)
abbrev hubPltcnt_RSADD : Nat × Nat := (48, 8)
abbrev hubPltcnt_OVLP : Nat × Nat := (56, 8)
abbrev hubSnapctl_EN : Nat × Nat := (0, 1)
abbrev hubSnapctl_EVERY : Nat × Nat := (1, 16)
abbrev hubSnapctl_BW : Nat × Nat := (24, 8)
abbrev hubSnaplist_ADDR : Nat × Nat := (6, 42)
abbrev hubSnaplist_COUNT : Nat × Nat := (48, 16)
abbrev hubSnapbase_ADDR : Nat × Nat := (26, 22)
abbrev hubSnapbase_SLOTSZ : Nat × Nat := (48, 16)
abbrev hubSnapstat_BUSY : Nat × Nat := (0, 1)
abbrev hubSnapstat_FAIL : Nat × Nat := (1, 1)
abbrev hubSnapstat_SLOT : Nat × Nat := (2, 1)
abbrev hubSnapstat_VALID : Nat × Nat := (3, 1)
abbrev hubSnapstat_STEP : Nat × Nat := (32, 32)
abbrev hubPlnctl_LATELIM : Nat × Nat := (0, 20)
abbrev hubPlnocc_CUR : Nat × Nat := (0, 8)
abbrev hubPlnocc_PEAK : Nat × Nat := (8, 8)
abbrev hubPlnocc_KEPT : Nat × Nat := (16, 32)
abbrev spkmSlotstat_INUSE : Nat × Nat := (0, 7)
abbrev spkmSlotstat_FENCED : Nat × Nat := (7, 1)
abbrev spkmSlotstat_PEAK : Nat × Nat := (8, 7)
abbrev spkmSlotcnt_COMB : Nat × Nat := (0, 32)
abbrev spkmSlotcnt_PREEMPT : Nat × Nat := (32, 16)
abbrev spkmSlotcnt_FWD : Nat × Nat := (48, 16)
abbrev spkmRescnt_REPEAT : Nat × Nat := (0, 16)
abbrev spkmRescnt_FAIL : Nat × Nat := (16, 16)
abbrev corePlncl_INB : Nat × Nat := (0, 8)
abbrev corePlncl_INN : Nat × Nat := (8, 8)
abbrev corePlncl_CRB : Nat × Nat := (16, 8)
abbrev corePlncl_CRN : Nat × Nat := (24, 8)
abbrev coreWaitin_COUNT : Nat × Nat := (0, 48)
abbrev coreWaitcr_COUNT : Nat × Nat := (0, 48)
abbrev coreTend_TIME : Nat × Nat := (0, 64)
abbrev intCkctl_EN : Nat × Nat := (0, 1)
abbrev intCkctl_CKSCRUB : Nat × Nat := (1, 1)
abbrev intCkctl_BASE : Nat × Nat := (12, 36)
abbrev intCklo_ADDR : Nat × Nat := (12, 36)
abbrev intCkhi_ADDR : Nat × Nat := (12, 36)
abbrev intCkcnt_VERIF : Nat × Nat := (0, 32)
abbrev intCkcnt_MIS : Nat × Nat := (32, 16)
abbrev intCkcnt_PREDMIS : Nat × Nat := (48, 16)
abbrev intCap_EN : Nat × Nat := (0, 1)
abbrev intCap_BASE : Nat × Nat := (26, 22)
abbrev intCap_SIZE : Nat × Nat := (48, 16)
abbrev intSpotctl_K : Nat × Nat := (0, 4)
abbrev intSpotcnt_CHECKED : Nat × Nat := (0, 32)
abbrev intSpotcnt_SKIP : Nat × Nat := (32, 16)
abbrev intSpotcnt_MIS : Nat × Nat := (48, 16)
abbrev intTdctl_FINE : Nat × Nat := (0, 1)
abbrev intTddig0_DIG : Nat × Nat := (0, 64)
abbrev intTddig1_DIG : Nat × Nat := (0, 64)
abbrev intTdcnt_GROUPS : Nat × Nat := (0, 32)
abbrev intTdcnt_MIS : Nat × Nat := (32, 16)
abbrev intStctl_TRLIM : Nat × Nat := (0, 4)
abbrev intStstat_UNIT : Nat × Nat := (0, 43)
abbrev intStstat_VERDICT : Nat × Nat := (43, 4)
abbrev intStstat_VALID : Nat × Nat := (47, 1)
abbrev intStstat_DURMS : Nat × Nat := (48, 16)
abbrev intStcnt_TESTS : Nat × Nat := (0, 16)
abbrev intStcnt_TRANS : Nat × Nat := (16, 16)
abbrev intStcnt_FENCED : Nat × Nat := (32, 16)
abbrev intStcnt_LEARNED : Nat × Nat := (48, 16)
abbrev intIfctl_EN : Nat × Nat := (0, 1)
abbrev intIfctl_PERIOD : Nat × Nat := (8, 24)
abbrev intUmaddr_ADDR : Nat × Nat := (6, 42)
abbrev intUmcmd_CMD : Nat × Nat := (0, 2)
abbrev intUmstat_BASE : Nat × Nat := (0, 1)
abbrev intUmstat_BUSY : Nat × Nat := (1, 1)
abbrev intUmstat_WHY : Nat × Nat := (8, 4)
abbrev intUmstat_FENCED : Nat × Nat := (16, 16)
abbrev intUawcnt_COUNT : Nat × Nat := (0, 32)
abbrev intUawlast_OFFSET : Nat × Nat := (0, 30)
abbrev intUawlast_VALID : Nat × Nat := (31, 1)
abbrev corePairctl_EN : Nat × Nat := (0, 1)
abbrev corePairctl_ACTIVE : Nat × Nat := (1, 1)
abbrev corePaircnt_TILES : Nat × Nat := (0, 32)
abbrev corePaircnt_MIS : Nat × Nat := (32, 16)
abbrev coreIstat_STATE : Nat × Nat := (0, 4)
abbrev coreIstat_IFAGE : Nat × Nat := (32, 32)
abbrev clkPwrctl_SUST : Nat × Nat := (0, 13)
abbrev clkPwrctl_PEAK : Nat × Nat := (13, 13)
abbrev clkPwrstat_P10 : Nat × Nat := (0, 13)
abbrev clkPwrstat_P1M : Nat × Nat := (13, 13)
abbrev clkPwrstat_VIN : Nat × Nat := (26, 10)
abbrev clkPwrstat_PEAKACT : Nat × Nat := (36, 1)
abbrev clkPwrstat_SUSTACT : Nat × Nat := (37, 1)
abbrev clkPwrstat_FORCED : Nat × Nat := (38, 1)
abbrev clkPwrstat_LOWV : Nat × Nat := (39, 1)
abbrev clkPwrstat_HIGHV : Nat × Nat := (40, 1)
abbrev clkPwrcnt_PEAKUS : Nat × Nat := (0, 32)
abbrev clkPwrcnt_SUSTUS : Nat × Nat := (32, 32)
abbrev clkEnergy_MJ : Nat × Nat := (0, 64)
abbrev clkThctl_TLIM : Nat × Nat := (0, 8)
abbrev clkThctl_FWLIM : Nat × Nat := (8, 8)
abbrev clkCadstat_BACKUP : Nat × Nat := (0, 1)
abbrev clkCadstat_LOST : Nat × Nat := (1, 1)
abbrev clkCadstat_LOSSES : Nat × Nat := (16, 16)
abbrev clkPscmd_CMD : Nat × Nat := (0, 2)
abbrev clkBrcmd_BEGIN : Nat × Nat := (0, 1)
abbrev clkBrstat_PHASE : Nat × Nat := (0, 3)
abbrev clkBrstat_KEYOK : Nat × Nat := (3, 1)
abbrev clkBrstat_DRAM0 : Nat × Nat := (4, 1)
abbrev clkBrstat_DRAM1 : Nat × Nat := (5, 1)
abbrev clkBrstat_CLUDONE : Nat × Nat := (6, 1)
abbrev clkBrstat_EQDONE : Nat × Nat := (7, 1)
abbrev clkBrstat_TBSYNC : Nat × Nat := (8, 1)
abbrev clkBrstat_KSREJ : Nat × Nat := (9, 1)
abbrev clkBrstat_FULLMS : Nat × Nat := (32, 24)
abbrev clkRstcmd_KIND : Nat × Nat := (0, 2)
abbrev clkRstcmd_KEY : Nat × Nat := (8, 8)
abbrev clkRststat_CAUSE : Nat × Nat := (0, 4)
abbrev clkRststat_RSTREJ : Nat × Nat := (4, 1)
abbrev clkRststat_P3REJ : Nat × Nat := (5, 1)
abbrev clkRststat_INP3 : Nat × Nat := (6, 1)
abbrev clkRststat_HOTRST : Nat × Nat := (16, 16)
abbrev clkPcycle_COUNT : Nat × Nat := (0, 32)
abbrev clkOpsec_SECONDS : Nat × Nat := (0, 40)
abbrev cluDrlctl_TARGET : Nat × Nat := (0, 2)
abbrev cluDrlctl_HALF : Nat × Nat := (2, 1)
abbrev cluDrlctl_AUTOP2 : Nat × Nat := (3, 1)
abbrev cluDrlctl_RESTART : Nat × Nat := (4, 1)
abbrev cluDrlctl_FWIDLE : Nat × Nat := (8, 16)
abbrev cluDrlctl_P2IDLE : Nat × Nat := (24, 16)
abbrev cluDrlstat_PSTATE : Nat × Nat := (0, 3)
abbrev cluDrlstat_RATE : Nat × Nat := (3, 2)
abbrev cluDrlstat_KICK : Nat × Nat := (5, 1)
abbrev cluDrlstat_PWR : Nat × Nat := (6, 1)
abbrev cluDrlstat_THERM : Nat × Nat := (7, 1)
abbrev cluDrlstat_FORCED : Nat × Nat := (8, 1)
abbrev cluDrlstat_P2PEND : Nat × Nat := (9, 1)
abbrev cluDrlstat_TEMP : Nat × Nat := (16, 8)
abbrev cluDrlstat_TVALID : Nat × Nat := (24, 1)
abbrev cluDrlwake_DEADLINE : Nat × Nat := (0, 64)
abbrev cluDrlcnt_WAKE1 : Nat × Nat := (0, 24)
abbrev cluDrlcnt_WAKE2 : Nat × Nat := (24, 16)
abbrev cluDrlcnt_FWMS : Nat × Nat := (40, 24)
abbrev cluDrlwait_NS : Nat × Nat := (0, 48)
abbrev hubDbgsel_CORE : Nat × Nat := (0, 8)
abbrev hubDbgsel_SLOT : Nat × Nat := (8, 3)
abbrev hubDbgsel_ROW : Nat × Nat := (11, 5)
abbrev hubDbgsel_GO : Nat × Nat := (16, 1)
abbrev hubDbgstat_DONE : Nat × Nat := (0, 1)
abbrev hubDbgstat_ERR : Nat × Nat := (1, 1)
abbrev hubDbgst2_STATE : Nat × Nat := (0, 64)
abbrev hubDbgdata_DATA : Nat × Nat := (0, 64)
abbrev pciLstat_SPEED : Nat × Nat := (0, 3)
abbrev pciLstat_WIDTH : Nat × Nat := (3, 5)
abbrev pciLstat_REV : Nat × Nat := (8, 1)
abbrev pciLstat_UP : Nat × Nat := (9, 1)
abbrev pciLstat_REDUCED : Nat × Nat := (10, 1)
abbrev pciLstat_DOWNS : Nat × Nat := (16, 16)
abbrev pciBar2map_BASE : Nat × Nat := (30, 18)
abbrev pciCpyin_BYTES : Nat × Nat := (0, 48)
abbrev pciCpyout_BYTES : Nat × Nat := (0, 48)
abbrev pciErr_HOSTERR : Nat × Nat := (0, 16)
abbrev pciErr_POISON : Nat × Nat := (16, 16)
abbrev pciErr_CA : Nat × Nat := (32, 16)
abbrev pciAper_EN : Nat × Nat := (0, 1)
abbrev pciAper_BASE : Nat × Nat := (20, 10)
abbrev pciIwcfg_EN : Nat × Nat := (0, 1)
abbrev pciIwcfg_PRIV : Nat × Nat := (1, 2)
abbrev pciIwcfg_CPLPAGE : Nat × Nat := (12, 52)
abbrev pciIwstat_ACCSEQ : Nat × Nat := (0, 16)
abbrev pciIwstat_DONESEQ : Nat × Nat := (16, 16)
abbrev pciIwstat_BUSY : Nat × Nat := (32, 1)
abbrev pciIwstat_ERR : Nat × Nat := (33, 1)
abbrev pciIwstat_REFUSED : Nat × Nat := (34, 1)
abbrev pciIwstat_DROP : Nat × Nat := (35, 1)
abbrev icuPend_PEND : Nat × Nat := (0, 64)
abbrev icuCnt_CNT : Nat × Nat := (0, 64)
abbrev icuRoute_EN : Nat × Nat := (0, 1)
abbrev icuRoute_KIND : Nat × Nat := (1, 1)
abbrev icuRoute_HDIE : Nat × Nat := (2, 1)
abbrev icuRoute_HCORE : Nat × Nat := (3, 2)
abbrev icuRoute_OWN : Nat × Nat := (5, 1)
abbrev icuRoute_VECTOR : Nat × Nat := (16, 11)
abbrev icuPriven_EN : Nat × Nat := (0, 64)
abbrev icuRaise_SRC : Nat × Nat := (0, 9)
abbrev icuHtmr_DEADLINE : Nat × Nat := (0, 64)
abbrev hubSvcstat_STATE : Nat × Nat := (0, 2)
abbrev hubSvcstat_CAUSE : Nat × Nat := (8, 8)
abbrev hubSvcstat_PLANERR : Nat × Nat := (16, 8)
abbrev hubSvcstat_STEP : Nat × Nat := (32, 32)
abbrev hubSvcin_NEXTIN : Nat × Nat := (0, 32)
abbrev hubSvccnt_STEPS : Nat × Nat := (0, 32)
abbrev hubSvccnt_HOLDS : Nat × Nat := (32, 16)
abbrev hubSvccnt_REWINDS : Nat × Nat := (48, 16)
abbrev hubFwcmd_CMD : Nat × Nat := (0, 3)
abbrev hubFwcmd_LIVE : Nat × Nat := (3, 1)
abbrev hubFwcmd_INDEX : Nat × Nat := (4, 10)
abbrev hubFwcmd_ADDR : Nat × Nat := (16, 42)
abbrev hubFwstat_DSTATE : Nat × Nat := (0, 2)
abbrev hubFwstat_BUSY : Nat × Nat := (2, 1)
abbrev hubFwstat_REJ : Nat × Nat := (3, 1)
abbrev hubFwstat_WHY : Nat × Nat := (4, 4)
abbrev hubFwstat_ACTSLOT : Nat × Nat := (8, 1)
abbrev hubFwstat_TRIAL : Nat × Nat := (9, 1)
abbrev hubFwstat_TRYCNT : Nat × Nat := (10, 2)
abbrev hubFwstat_PRIMDIE : Nat × Nat := (12, 1)
abbrev hubFwstat_TKSTATE : Nat × Nat := (13, 2)
abbrev hubFwstat_RECEIVED : Nat × Nat := (16, 10)
abbrev hubFwstat_NPIECES : Nat × Nat := (26, 10)
abbrev hubFwcnt_PIECES : Nat × Nat := (0, 16)
abbrev hubFwcnt_DUP : Nat × Nat := (16, 16)
abbrev hubFwcnt_BADHASH : Nat × Nat := (32, 16)
abbrev hubFwcnt_TAKEOVERS : Nat × Nat := (48, 16)
abbrev hubFwver_IMAGEVER : Nat × Nat := (0, 32)
abbrev hubFwver_SVN : Nat × Nat := (32, 32)
abbrev hubFwminsvn_MINSVN : Nat × Nat := (0, 32)
abbrev hubFwctl_FABRICOK : Nat × Nat := (0, 1)
abbrev hubFwctl_AUTOCONF : Nat × Nat := (1, 1)
abbrev hubFwucmix_CLU : Nat × Nat := (0, 16)
abbrev hubFwucmix_SPK : Nat × Nat := (16, 8)
abbrev hubIdstat_CERTOK : Nat × Nat := (0, 1)
abbrev hubIdstat_HELPERBAD : Nat × Nat := (1, 1)
abbrev hubFwbm_PRESENT : Nat × Nat := (0, 64)
abbrev evrSeq_OLDEST : Nat × Nat := (0, 32)
abbrev evrSeq_NEWEST : Nat × Nat := (32, 32)
abbrev evrStat_LIVE : Nat × Nat := (0, 18)
abbrev evrStat_FULL : Nat × Nat := (18, 1)
abbrev evrStat_CLEARING : Nat × Nat := (19, 1)
abbrev evrStat_QUEUED : Nat × Nat := (20, 12)
abbrev evrDrop_COUNT : Nat × Nat := (0, 24)
abbrev evrCur_SEQ : Nat × Nat := (0, 32)
abbrev evrCur_AUTO : Nat × Nat := (32, 1)
abbrev evrCur_STALE : Nat × Nat := (33, 1)
abbrev evrCur_NONE : Nat × Nat := (34, 1)
abbrev evrClr_UPTO : Nat × Nat := (0, 32)
abbrev evrClr_SEVMAX : Nat × Nat := (32, 2)
abbrev evrClr_GO : Nat × Nat := (34, 1)
abbrev evrWear_MAXERASE : Nat × Nat := (0, 32)
abbrev evrWear_RETIRED : Nat × Nat := (32, 8)
abbrev evrWin_DATA : Nat × Nat := (0, 64)
abbrev cluUclk_CLOCKS : Nat × Nat := (0, 64)
abbrev cluUquad_COUNT : Nat × Nat := (0, 64)
abbrev cluUvec_COUNT : Nat × Nat := (0, 64)
abbrev cluUidle_TICKS : Nat × Nat := (0, 64)
abbrev cluUerr_FAULTS : Nat × Nat := (0, 16)
abbrev cluUerr_TRAPS : Nat × Nat := (16, 16)
abbrev cluUerr_CORR : Nat × Nat := (32, 16)
abbrev cluUerr_DETECT : Nat × Nat := (48, 16)
abbrev pmuCtl_LATCH : Nat × Nat := (0, 1)
abbrev pmuLtime_TIME : Nat × Nat := (0, 64)
abbrev pmuMark_VALUE : Nat × Nat := (0, 64)
abbrev pmuSel_EVT : Nat × Nat := (0, 8)
abbrev pmuSel_EN : Nat × Nat := (8, 1)
abbrev pmuSel_CLMASK : Nat × Nat := (9, 16)
abbrev pmuSel_OPF : Nat × Nat := (25, 1)
abbrev pmuSel_LYF : Nat × Nat := (26, 1)
abbrev pmuSel_OPTAG : Nat × Nat := (32, 16)
abbrev pmuSel_LAYER : Nat × Nat := (48, 16)
abbrev pmuCtr_COUNT : Nat × Nat := (0, 64)
abbrev pmuLctr_COUNT : Nat × Nat := (0, 64)
abbrev pmuTrCtl_EN : Nat × Nat := (0, 1)
abbrev pmuTrCtl_STOP : Nat × Nat := (1, 1)
abbrev pmuTrCtl_TRGIB : Nat × Nat := (8, 7)
abbrev pmuPan_EN : Nat × Nat := (0, 1)
abbrev pmuPan_BASE : Nat × Nat := (30, 18)
abbrev pmuPan_SIZE : Nat × Nat := (48, 7)
abbrev pmuTrKind_MASK : Nat × Nat := (0, 64)
abbrev pmuTrFilt_OPTAG : Nat × Nat := (0, 16)
abbrev pmuTrFilt_LAYER : Nat × Nat := (16, 16)
abbrev pmuTrFilt_OPF : Nat × Nat := (32, 1)
abbrev pmuTrFilt_LYF : Nat × Nat := (33, 1)
abbrev pmuTrFilt_CLMASK : Nat × Nat := (34, 8)
abbrev pmuTrWp_BYTES : Nat × Nat := (0, 64)
abbrev pmuTrRp_BYTES : Nat × Nat := (0, 64)
abbrev pmuTrStat_FULL : Nat × Nat := (0, 1)
abbrev pmuTrStat_LOST : Nat × Nat := (32, 32)
abbrev pmuWpCtli_EN : Nat × Nat := (0, 1)
abbrev pmuWpCtli_WHAT : Nat × Nat := (1, 2)
abbrev pmuWpCtli_ANYMB : Nat × Nat := (3, 1)
abbrev pmuWpCtli_MBATCH : Nat × Nat := (4, 8)
abbrev pmuWpCtli_OPMATCH : Nat × Nat := (12, 8)
abbrev pmuWpIdi_OPTAG : Nat × Nat := (0, 16)
abbrev pmuWpIdi_LAYER : Nat × Nat := (16, 16)
abbrev pmuWpIdi_STEP : Nat × Nat := (32, 32)
abbrev pmuWpDsti_ADDR : Nat × Nat := (6, 42)
abbrev pmuWpLimi_LIMKIB : Nat × Nat := (0, 32)
abbrev pmuWpLimi_MAXD : Nat × Nat := (32, 16)
abbrev pmuWpCli_CLADDR : Nat × Nat := (0, 64)
abbrev pmuWpStati_DUMPS : Nat × Nat := (0, 16)
abbrev pmuWpStati_DONE : Nat × Nat := (16, 1)
abbrev pmuWpStati_TRUNC : Nat × Nat := (17, 1)
abbrev pmuWpStati_KIB : Nat × Nat := (32, 32)
abbrev pmuBgDram_BYTES : Nat × Nat := (0, 64)
abbrev pmuBgSpk_BYTES : Nat × Nat := (0, 64)
abbrev pmuBgCore_NS : Nat × Nat := (0, 64)
abbrev pmuBgEnergy_MJ : Nat × Nat := (0, 64)
abbrev pmuBgtotDram_BYTES : Nat × Nat := (0, 64)
abbrev pmuBgtotSpk_BYTES : Nat × Nat := (0, 64)
abbrev pmuTelctl_EN : Nat × Nat := (0, 1)
abbrev pmuTelctl_PERIOD : Nat × Nat := (1, 10)
abbrev pmuTelctl_ADDR : Nat × Nat := (12, 52)
abbrev pmuTelpage_DATA : Nat × Nat := (0, 64)
abbrev clkPhys_INLET : Nat × Nat := (0, 8)
abbrev clkPhys_OUTLET : Nat × Nat := (8, 8)
abbrev clkPhys_TVALID : Nat × Nat := (16, 1)
abbrev clkPhys_INRANGE : Nat × Nat := (17, 1)
abbrev clkPhys_MOD_POS : Nat × Nat := (24, 6)

end F

end Sys2Proof.Machine
end

