-- ==== Sys2Proof/Machine/State.lean ====
section
/-!
DEFINITION. The state of the module: every register, memory, accumulator slot, context, queue and unit the spec gives it,
as plain data, and the state right after power-up.
-/

namespace Sys2Proof.Machine

/-! ## Memory -/

/-- A range of bytes whose contents were lost (R117, R252): its bounds and the occasion. -/
structure LostRange where
  lo : Nat
  hi : Nat
  serial : Nat
  deriving DecidableEq, Repr

/-- The module's memory, by module physical address (R9). An address that neither list names reads as 0 (log entry 3). -/
structure Memory where
  cells : List Host.Cell
  lost : List LostRange
  deriving DecidableEq, Repr

/-- A change to memory that a command makes. -/
inductive MemOp where
  | put (a : Nat) (b : Byte)
  | zero (lo hi : Nat)
  | lose (lo hi serial : Nat)
  deriving DecidableEq, Repr

/-! ## Accumulator slots -/

/-- The state of an accumulator element (R19). -/
inductive ElState where
  | fin | pinf | ninf | nan
  deriving DecidableEq, Repr

/-- An accumulator element: k of R17 and its state. -/
structure Elem where
  k : BitVec 128
  st : ElState
  deriving DecidableEq, Repr

/-- An element of an EMPTY slot (R97). -/
def Elem.zero : Elem := ⟨0, .fin⟩

/-- The name of a slot: a module core and a slot of its quad (R96). -/
structure SlotId where
  core : Fin 256
  i : A3
  deriving DecidableEq, Repr

/-- What a slot holds beside its ATSTAT register: its elements by 32 * row + column, the attempt that wrote it
(R181: the context, its bracket and the raise count) and that operation's step (R184). -/
structure Slot where
  elems : Map Nat Elem
  writer : Option (Fin 4 × Nat × Nat)
  step : BitVec 32
  deriving DecidableEq, Repr

/-! ## Contexts -/

/-- A tile descriptor: words D0-D7 (R129). -/
structure Desc where
  d0 : Word
  d1 : Word
  d2 : Word
  d3 : Word
  d4 : Word
  d5 : Word
  d6 : Word
  d7 : Word
  deriving DecidableEq, Repr

/-- A descriptor with all bits 0 (R126). -/
def Desc.zero : Desc := ⟨0, 0, 0, 0, 0, 0, 0, 0⟩

/-- One entry of an operation table (R150). -/
structure OpEntry where
  tag : BitVec 16
  amode : Nat
  rnd : Nat
  anchor : Int
  tid : Nat
  k : Nat
  lrows : Nat
  lcols : Nat
  deriving DecidableEq, Repr

/-- What a context waits for: a cleat (R200), since when and with which op tag, the commit of its bracket (R175), a response to a remote access (R274),
or a unit or fence that lets the same instruction issue again. -/
inductive Wait where
  | cleat (cl : Cleat) (base imm : Word) (since : Nat) (tag : OpTag)
  | opEnd
  | reply (tag : Nat)
  | unit
  deriving DecidableEq, Repr

/-- The replay image of op.begin (R173). -/
structure Image where
  pc : Nat
  sreg : Map R5 Word
  pred : Map (Fin 8) Bool
  tile : Map T4 Desc
  layer : BitVec 16
  mbatch : BitVec 8
  cleats : List (Cleat × Word)
  deriving DecidableEq, Repr

/-- The identity of an accumulating operation under a peloton handle (R148, R173). Under handle 0 its context is its only
participant, and `own` names it. -/
structure OpId where
  tag : BitVec 16
  mbatch : BitVec 8
  step : BitVec 32
  ph : Nat
  own : Option CtxId
  deriving DecidableEq, Repr

/-- An instruction as records name it: its context and what it carried when it issued (R148). -/
structure Ins where
  x : CtxId
  op : Nat
  words : Nat
  tag : OpTag
  iaddr : Nat
  layer : BitVec 16
  mbatch : BitVec 8
  step : BitVec 32
  raise : Nat
  deriving DecidableEq, Repr

/-- An accumulator slot that an instruction of a bracket wrote: what a dump at its commit names (R452). -/
structure Wrote where
  slot : A3
  ins : Ins
  out : Desc
  deriving DecidableEq, Repr

/-- Which element a NaN record names (R89): its operand, whether it was produced, its index, tensor and format. -/
structure NanAt where
  opnd : Nat
  produced : Bool
  elem : Nat
  tid : Nat
  fmt : Nat
  deriving DecidableEq, Repr

/-- A rounding mode in effect (R33). -/
inductive Rnd where
  | rne | dither
  deriving DecidableEq, Repr

/-- An open operation bracket (R172-R177). -/
structure Bracket where
  serial : Nat              -- distinguishes the brackets of a context
  op : OpId
  nloc : Nat                -- participants on this module (R302)
  raise : Nat               -- raise count of the attempt
  anchor : Option Int       -- of the attempt, once its first accumulating instruction computed it (R174)
  image : Image
  ended : Option (Cleat × Bool)   -- op.end has issued, with its CL and SIG
  sealed : Bool             -- this participant has sealed its part
  fallback : Bool           -- the fallback of R42 applies
  aborted : Bool            -- abandoned without restart (R177)
  begun : Nat               -- time of op.begin
  nans : Nat                -- NaN elements of the attempt that count at its commit (R88, R90)
  wrote : List Wrote        -- what the attempt's instructions wrote
  tiles : Nat               -- tiles of accumulating quad instructions that the bracket has started (R338)
  spots : Nat               -- spot checks that have not been compared (R339)
  failed : Bool             -- a pair or spot comparison failed (R337, R343)
  deriving DecidableEq, Repr

/-- The registers a tile latches when it starts (R54, R93, R161, R231). -/
structure Latch where
  seed : Word
  xctl : Word
  xraise : Word
  fsctl : Word
  fhist : Word
  hlth : Word
  gen : Nat
  deriving DecidableEq, Repr

/-- The tile a context ran last (R105): its instruction, its number t within the open bracket (R338), its operands, and the slot it wrote as it
stood at the tile's start (R338). -/
structure TileRun where
  ins : Ins
  number : Nat
  descs : List Desc
  slot : Option (A3 × Slot × Word)
  busy : Option A3         -- the slot that the instruction writes or reads: it is in flight on it (R97)
  left : Nat               -- tiles of the instruction after this one (R105)
  copy : Option (Fin 256)  -- the Yalar-1 core that repeats the tile in Tandem mode (R118)
  index : Nat              -- its number within the instruction (R447)
  clocks : Nat             -- engine clocks of the tiles from this one on
  escapes : Nat
  cogs : Nat               -- clocks lost to cog conflicts (R248, R447)
  emask : Nat
  amode : Nat
  rnd : Nat
  anchor : Int
  k : Nat
  seed : BitVec 32
  deriving DecidableEq, Repr

/-- A hardware context (R126): what its registers of R160 and R204 do not show. -/
structure Ctx where
  sreg : Map R5 Word
  pred : Map (Fin 8) Bool
  tile : Map T4 Desc
  layer : BitVec 16
  mbatch : BitVec 8
  job : Word
  table : List OpEntry
  wait : Option Wait
  startCleats : List (Cleat × Word)   -- the values of its range at START (R203)
  bracket : Option Bracket
  serial : Nat              -- brackets opened since power-up
  latch : Latch
  run : Option TileRun      -- the tile that ran last
  planned : Bool            -- belongs to the plan of the step service (R401)
  owed : Nat                -- a HALT (3) or RESET (6) that has not acted yet (R159), else 0
  why : Nat                 -- why it halted: 0 a command, 1 a fault, 2 a first-NaN trap
  deriving DecidableEq, Repr

/-! ## Background work of the cores -/

/-- A stream of pump.stream (R143): what it latched at issue and how far it has come. -/
structure Stream where
  td : Desc
  ts : Desc
  n : Nat
  sb : Word
  dir : Bool
  depth : Nat
  d0 : Word
  started : Nat
  completed : Nat
  stopped : Bool
  deriving DecidableEq, Repr

/-- What a background operation of the Pump or the Sprocket path does (R143, R250, R254). -/
inductive BgKind where
  | tcopy (td ts : Desc)
  | stream (t : Stream)
  | cache (ts : Desc) (beaten : List Nat)   -- with the lines that writes have removed since its fills began (R251)
  | gather (td ts : Desc) (idx : Nat) (zpad : Bool)
  deriving DecidableEq, Repr

/-- A request of a background operation that waits for a response tag (R274): its transfer, its module or peloton, the address, and what it
reads (plane, offset, bytes) or the data it writes. -/
structure Ask where
  nth : Nat
  dst : Nat
  mc : Bool
  acks : Nat
  addr : Nat
  read : Option (Nat × Nat × Nat)
  data : List Byte
  deriving DecidableEq, Repr

/-- A background operation in progress: its context, the instruction that started it and its completion cleat. -/
structure Bg where
  id : Nat
  x : CtxId
  kind : BgKind
  tdn : T4                 -- the descriptors its instruction named
  tsn : T4
  cl : Cleat
  iaddr : Nat
  tag : OpTag
  layer : BitVec 16
  mbatch : BitVec 8
  bracket : Option Nat     -- the bracket that started it
  gen : Nat                -- generation that its tile latched (R161)
  fctx : Nat               -- fabric context of its remote requests, 16,384 where it has none (R290)
  unsent : List Ask        -- requests that wait for a response tag
  muted : Bool             -- its bracket was abandoned: it adds nothing to a cleat (R176)
  data : List (Nat × Nat × Nat × List Byte)  -- remote data that has arrived: transfer, plane, offset, bytes
  entries : List (Nat × Word × List Byte)    -- check entries to write at the destination, by transfer (R332)
  deriving DecidableEq, Repr

/-- A fault found after its instruction issued (R138, R146). -/
structure AsyncFault where
  x : CtxId
  store : Bool             -- a store's fault (R138); otherwise a background transfer's (R146)
  code : Nat
  value : Word
  op : Nat
  iaddr : Nat
  tag : OpTag
  layer : BitVec 16
  mbatch : BitVec 8
  treg : Nat
  deriving DecidableEq, Repr

/-- A cleat signal held at its core until earlier writes of its context are acknowledged (R201). -/
structure HeldSignal where
  x : CtxId
  bracket : Option Nat     -- the open bracket in which it issued
  gen : Nat                -- generation that its tile latched (R161)
  addr : Word
  value : Word
  tags : List Nat          -- requests that must be answered first
  bgs : List (Nat × Nat)   -- background operations, each with the transfers of it that must end first
  deriving DecidableEq, Repr

/-- A line of a cluster cache, by cluster and DRAM line address, oldest use first (R250), with the errors of a word of it that no reader has
met (R238). -/
structure CacheLine where
  k : Fin 16
  line : Nat
  errs : BitVec 288
  deriving DecidableEq, Repr

/-- What the cores, their Pumps and the cluster caches hold. -/
structure CoreState where
  ctxs : Map CtxId Ctx
  slots : Map SlotId Slot
  owners : Map SlotId (Fin 4)      -- owner still in effect of a slot whose owner SQACC has changed (R97)
  bg : List Bg
  nextBg : Nat
  faults : List AsyncFault
  signals : List HeldSignal
  heldAdds : List (Fin 256 × Cleat × Word)   -- adds to cleats of a cluster whose clock stands (R202)
  cache : List CacheLine
  clock : Map (Fin 16) Nat         -- special register CLOCK of each cluster (R128)
  prepass : List (Nat × Nat × Int) -- pre-pass results of the step: tensor id and magnitude m × 2^e (R85)
  once : List (Nat × Nat)          -- events raised once per tensor and step: code, tensor id (R81, R85)
  amax : Map Nat Nat               -- largest AMAX recorded in the step for a tensor id, FP32 code (R82)
  raised : Map (Nat × Nat) Nat     -- raise counts reached in the step by raise table and op tag (R43)
  reached : Map Nat Nat            -- raise counts reached in the step by op tag, under any table or none (R207)
  handAsked : Map (Fin 256) Nat    -- cores whose handover waits for the end of their tile in progress, with its reason (R122)
  bounds : Map Nat (Nat × Int)     -- product bounds of this step's operations by op tag, m × 2^e (R222)
  seeded : List Nat                -- tensors converted in the step under a seed or after a pre-pass (R224)
  deriving DecidableEq, Repr

/-! ## The fabric -/

/-- A packet (R266): its header fields and its payload. `rsv` is whether a reserved bit of the header is nonzero. -/
structure Packet where
  vc : Nat
  dlc : Bool
  phase : Bool
  typ : Nat
  len : Nat
  gtag : Nat
  mc : Bool
  sh : Bool
  direct : Bool
  lock : Bool
  dir : Bool
  relayed : Bool
  rsv : Bool
  dst : Nat
  src : Nat
  addr : Nat
  fctx : Nat
  optag : OpTag
  tag : Nat
  hops : Nat
  tspec : Nat
  payload : List Byte
  entry : Option SpokeId   -- the model's own: the Spoke by which a multicast packet came that was spilled here (log entry 79)
  deriving DecidableEq, Repr

/-- What a response to a request does at this module (R274). -/
inductive ReqKind where
  /-- A remote scalar load: destination register, bytes, sign extension. -/
  | load (rd : R5) (bytes : Nat) (signed : Bool)
  /-- A remote tld. -/
  | desc (td : T4)
  /-- A remote scalar store. -/
  | store
  /-- A remote amo.add. -/
  | amo (rd : R5)
  /-- A read of transfer `nth` of a background operation: the plane of its source and the offset in it. -/
  | bgRead (bg nth plane off : Nat)
  /-- A write of transfer `nth` of a background operation. -/
  | bgWrite (bg nth : Nat)
  /-- A write of a snapshot copy of a region to the partner (R324). -/
  | snapshot (region : Nat)
  /-- A write of a fused instruction's data. -/
  | fused
  /-- A packet of entry `nth` of a host copy that reaches another module: its window, its round's serial, its offset and bytes (R397). -/
  | hostCopy (w : Fin 256) (serial nth off bytes : Nat)
  /-- A management request of the Hub. -/
  | mgmt
  /-- The probe of a Spoke that has gone down (R286). -/
  | probe (p : SpokeId)
  deriving DecidableEq, Repr

/-- A request whose response is outstanding (R274, R275). -/
structure Req where
  tag : Nat
  fctx : Nat
  kind : ReqKind
  x : CtxId
  typ : Nat
  dst : Nat
  addr : Nat
  iaddr : Nat
  op : Nat
  optag : OpTag
  layer : BitVec 16
  mbatch : BitVec 8
  acks : Nat               -- responses still to come; more than one for a multicast write
  at_ : Nat                -- time at which it was issued
  deriving DecidableEq, Repr

/-- A whole packet in a Spoke's input buffer, and the row of the buffer allocation it occupies (R276). -/
structure InPkt where
  pkt : Packet
  row : Nat
  blocked : Option Nat     -- since when it has found no eligible output at the head (R284)
  held : Bool              -- its generation is not installed (R166)
  deriving DecidableEq, Repr

/-- A packet in a Spoke's retry buffer, by the sequence number of its first flit (R270). -/
structure RetryPkt where
  seq : Nat
  pkt : Packet
  deriving DecidableEq, Repr

/-- What a Spoke holds beside its registers. -/
structure Spoke where
  txSeq : Nat              -- next sequence number to send
  rxSeq : Nat              -- sequence number expected next
  acked : Nat              -- first flit that the partner has not acknowledged
  retry : List RetryPkt
  input : List InPkt
  partialHead : Option Packet  -- header of the packet being received
  partialData : List Byte      -- its data flits so far
  credits : Map Nat Nat    -- flit credits taken, per row of the buffer allocation
  owed : Map Nat Nat       -- flit credits to return, per row
  nak : Bool               -- a flit is missing (R271)
  resends : Nat            -- resends of the flit after `acked` without progress
  resent : List (Nat × Nat)  -- flits resent in the last millisecond, each count with its time (R264)
  retrained : Bool         -- a retrain has followed 16 resends
  probing : Bool           -- a PROBE is outstanding (R286)
  discs : List (Nat × Nat × Nat)  -- packets discarded since the last event 0x03:0x0060: reason, SRC, TYPE
  discAt : Option Nat      -- time of that event
  probeAt : Nat            -- time at which the outstanding PROBE was sent
  since : Nat              -- time at which equalisation or a retrain began
  trained : Bool           -- it keeps the coefficients of an equalisation (R263)
  waiting : Bool           -- a retrain has begun and the link has not been UP since (R264)
  nakAt : Nat              -- time of the last NAK (R271)
  tsAt : Option Nat        -- time of the last timestamp sent to the parent (R291)
  deriving DecidableEq, Repr

/-- A Spoke after power-up or a Spoke reset. -/
def Spoke.reset : Spoke :=
  { txSeq := 0, rxSeq := 0, acked := 0, retry := [], input := [], partialHead := none, partialData := [], credits := [], owed := [],
    nak := false, resends := 0, resent := [], retrained := false, probing := false, discs := [], discAt := none, probeAt := 0, since := 0,
    trained := false, waiting := false, nakAt := 0, tsAt := none }

/-- A packet in the re-route part of the spill region (R287). -/
structure Spilled where
  pkt : Packet
  relay : Bool
  avoid : Option SpokeId   -- the down link it was ejected from
  deriving DecidableEq, Repr

/-- What the fabric units of the module hold. -/
structure FabState where
  spokes : Map SpokeId Spoke
  inject : List Packet
  ejected : List (Option SpokeId × Packet)  -- packets for this module, with the Spoke they came in on
  spill : List Spilled
  reqs : List Req
  cooling : List (Nat × Nat)   -- timed-out tags and the time until which they are not used again (R275)
  nextTag : Nat
  hubWaits : List (Packet × ReqKind)  -- requests of the Hub that wait for a response tag (R274)
  spilledBytes : Nat
  timeAdjust : Int         -- timebase correction that is still to be made, in ns (R291)
  adjPhase : Nat           -- ticks since its last 10 ns were made
  deriving DecidableEq, Repr

/-! ## Pelotons and collectives -/

/-- A peloton descriptor as the Hub keeps it (R295): shares by number, each with the module that holds it. -/
structure PltDesc where
  axes : Nat
  sdim : Bool
  slotok : Bool
  jts1 : Bool
  nshare : Nat
  epoch : Nat
  prio : Nat
  nexp : Nat
  gbase : Nat
  gsize : Nat
  shares : List Nat
  dhash : Nat
  deriving DecidableEq, Repr

/-- An open peloton (R297): its descriptor, and those that serve the items of other generations. -/
structure Peloton where
  handle : Nat
  desc : PltDesc
  old : Option PltDesc     -- serves items of the old generation while it drains (R297)
  next : Option PltDesc    -- serves items of a generation that is installed beside the live one
  early : Bool             -- packets of the next epoch have been reported (R317)
  deriving DecidableEq, Repr

/-- The highest count of sealed participants that a member has reported (R310). -/
structure SealOf where
  lmn : Nat
  sealed : Nat
  nloc : Nat
  deriving DecidableEq, Repr

/-- An attempt of an operation under a peloton handle, as this module follows it (R310, R312). -/
structure Attempt where
  op : OpId
  raise : Nat
  seals : List SealOf      -- of the other members
  cause : Option Nat       -- it was aborted, with the first cause
  fallback : Option (Option Int)  -- the fallback of R42 applies, with the last anchor tried once it is known here
  mine : Option (Nat × Nat)  -- the REPLAY or ABORT that this module sent: its kind, and the raise count or the cause
  noted : Nat              -- time of this module's last notice of it (R310)
  deriving DecidableEq, Repr

/-- A chunk at its owner, or at a member of an all-reduce (R304, R305). -/
structure Chunk where
  n : Nat
  raise : Nat
  got : BitVec 64          -- F: first-path contributions added
  elems : List Elem
  held : List (BitVec 64 × List Elem)   -- resent records, not added
  predicted : Nat          -- image sum of the records added (R335)
  complete : Bool
  written : Bool
  deriving DecidableEq, Repr

/-- A fused instruction of a collective on this module. -/
structure Part where
  ins : Ins
  serial : Nat             -- of its bracket; 0 for xd.disp
  anchor : Int
  latch : Latch
  rnd : Rnd
  k : Nat
  ta : Desc
  tb : Desc
  tc : Desc
  t2 : Desc
  t2n : T4
  clc : Cleat
  cap : Nat
  fctx : Nat               -- fabric context of its packets, 16,384 where it sends none (R290)
  arrived : Nat            -- shards, regions or output rows that have advanced CLC
  formed : Bool            -- its last product has been formed
  done : Bool
  deriving DecidableEq, Repr

/-- A JOIN received from a child (R301). -/
structure Join where
  lmn : Nat
  sig : Nat
  need : Bool
  deriving DecidableEq, Repr

/-- A collective at this module (R301-R306, R319). -/
structure Coll where
  ph : Nat
  seq : Nat
  epoch : Nat
  op : OpId
  opcode : Nat
  sig : Nat
  joined : Bool            -- a fused instruction of it has issued here
  up : Bool                -- the JOIN toward the root has been sent
  go : Bool
  need : Bool
  joins : List Join
  needmap : BitVec 64
  begun : Nat              -- time of its JOIN
  goAt : Nat               -- time of its GO
  parts : List Part
  sent : List Nat          -- blocks whose contribution this module has sent
  chunks : List Chunk
  waiting : List Packet    -- packets that may leave only once it holds GO
  early : List (Option SpokeId × Packet)   -- records held until it joins (R304, R317)
  gen : Nat                -- GTAG of its packets: that of the tile which joined it (R161)
  noted : Nat              -- time of this module's last JOIN or GO (R310)
  shards : List (Nat × Nat × Nat)   -- gathered pieces: share, offset, bytes (R319)
  closed : Bool            -- committed or aborted at this module
  deriving DecidableEq, Repr

/-- A reduction slot of the router (R307): one block group of a collective, with the chunks added so far. -/
structure RSlot where
  ph : Nat
  seq : Nat
  epoch : Nat
  group : Nat
  raise : Nat
  gtag : Bool
  op : OpTag
  chunks : List (Nat × Nat × BitVec 64 × List Elem)  -- chunk, owner, contributions, sums
  last : Nat               -- time of the last addition
  deriving DecidableEq, Repr

/-- A source region of an expert exchange at its receiver (R195, R318): rows arrived, rows announced. -/
structure XRegion where
  ph : Nat
  seq : Nat
  src : Nat
  ret : Bool
  rows : List Nat
  need : Option Nat
  complete : Bool
  deriving DecidableEq, Repr

/-- A gathered entry kept in the gather cache (R319, R320). -/
structure GEntry where
  ph : Nat
  seq : Nat
  tid : Nat
  planes : Nat             -- address of the source planes
  at_ : Nat                -- place in the gather cache
  sizes : List Nat         -- bytes of each share's packed shard
  step : BitVec 32
  inUse : Bool
  deriving DecidableEq, Repr

/-- A peer snapshot in progress (R324, R325). -/
structure Snap where
  slot : Bool
  step : BitVec 64
  regions : List (Nat × Nat)
  failed : Option Nat      -- a region that could not be copied
  bytes : Nat
  partner : Option Nat
  deriving DecidableEq, Repr

/-- What the module holds of open pelotons and collectives. -/
structure PltState where
  pelotons : List Peloton
  attempts : List Attempt
  colls : List Coll
  slots : List RSlot
  regions : List XRegion
  cache : List GEntry
  snap : Option Snap
  deriving DecidableEq, Repr

/-! ## Observation -/

/-- A trace record waiting in the queue of its source: a core, or a die's Hub (R447, R449). -/
structure TraceRec where
  die : Fin 2
  source : Nat             -- module core number, or 256 + die for a Hub
  time : Nat
  kind : Nat
  ctx : Nat
  unit : Nat
  tag : OpTag
  layer : BitVec 16
  mbatch : BitVec 8
  raise : Nat
  step : BitVec 32
  data : Nat
  deriving DecidableEq, Repr

/-- What the observation units hold beside their registers. -/
structure ObsState where
  trace : List TraceRec
  lost : Map Nat Nat       -- records of a source dropped since its last record was written (R449)
  telSeq : Nat             -- telemetry pages built (R456)
  dumpAt : Map (Fin 16) Nat  -- next dump address of a watchpoint's area (R453)
  watch : Map (Fin 256) (List (Fin 16 × Word × Word))  -- CTL and ID of the watchpoints in force on a core since its last tile start (R454)
  base : Map Nat Nat       -- counter values at the start of the telemetry period (R456)
  telAt : Nat              -- when the last telemetry page was built
  bytes : Map (Fin 2) Nat  -- DRAM bytes moved by a die since power-up (R456)
  deriving DecidableEq, Repr

/-! ## Host interface -/

/-- An entry of the MSI-X table (R388, as PCI Express defines it). -/
structure MsixEntry where
  addr : Word
  data : BitVec 32
  masked : Bool
  deriving DecidableEq, Repr

/-- An MSI-X entry after power-up: masked, as PCI Express defines. -/
def MsixEntry.reset : MsixEntry := ⟨0, 0, true⟩

/-- An entry of a committed round (R396, R397): its four words, how far it is (0 waiting, 1 running, 2 ended, 3 writing at another module) and its status. -/
structure IEntry where
  w0 : Word
  w1 : Word
  w2 : Word
  w3 : Word
  phase : Nat
  status : Nat
  moved : Nat              -- bytes moved
  deriving DecidableEq, Repr

/-- A round of an issue window (R396). -/
structure Round where
  seq : Nat
  serial : Nat             -- order of commit arrival
  priv : Priv              -- privilege of the window at the commit
  page : Nat               -- host bus address of the completion page at the commit, 0 none
  entries : List IEntry
  deriving DecidableEq, Repr

/-- An issue window (R395): the bytes last written, which bytes of the commit word were written since the last commit, and its
rounds, the running one first. -/
structure IssueWin where
  cells : Map Nat Byte
  written : BitVec 8
  rounds : List Round
  deriving DecidableEq, Repr

/-- An issue window after power-up. -/
def IssueWin.reset : IssueWin := ⟨[], 0, []⟩

/-- What the host interface holds. -/
structure HostState where
  msix : Map Nat MsixEntry
  pba : Map Nat Bool
  msixEnable : Bool
  msixMask : Bool
  d3hot : Bool
  master : Bool            -- bus mastering enabled
  up : Bool                -- link up and configured
  wins : Map (Fin 256) IssueWin
  nextRound : Nat
  bar2Log : Nat            -- log2 of the size of BAR2 in GiB
  deriving DecidableEq, Repr

/-! ## Integrity -/

/-- A selected tile that waits for its spot check (R338, R339). -/
structure Spot where
  x : CtxId
  serial : Nat             -- of its bracket
  raise : Nat
  tile : TileRun
  cap : Nat                -- capture slot
  core : Fin 256           -- spot core
  deriving DecidableEq, Repr

/-- A unit under targeted self-test (R345), by its unit id (R349), with the detected error and its capture. -/
structure SelfTest where
  unit : Nat
  state : Nat              -- as ISTAT.STATE numbers them
  cause : Nat
  cap : Option Nat
  since : Nat
  late : Bool
  deriving DecidableEq, Repr

/-- A learned vector (R347): its unit and its capture slot. -/
structure Learned where
  unit : Nat
  cap : Nat
  deriving DecidableEq, Repr

/-- What the checking units hold beside their registers. -/
structure IntState where
  digest : Word            -- Yalar-0's digest of the comparison group in progress (R340)
  digest1 : Word           -- Yalar-1's
  rerunStep : Nat          -- the step whose results differed (R342)
  rerun : Nat              -- rerun that localises a Tandem mismatch (R342): 0 none, 1 with FINE set, 2 capturing the culprit
  culprit : Option OpTag   -- the operation whose digests differed again
  spots : List Spot
  caps : List Nat          -- capture slots in flight
  capTag : Map Nat Nat     -- op tag of the tile in a capture slot
  tests : List SelfTest
  transients : List (Nat × Nat)   -- unit and time of each transient verdict
  learned : List Learned
  fenced : List Nat        -- unit ids that are fenced
  inField : List (Fin 256)        -- cores in an in-field test
  lastTest : Map (Fin 256) Nat    -- time of a core's last in-field test
  deriving DecidableEq, Repr

/-! ## Generations -/

/-- A staged generation (R162): its list by register offset and value. -/
structure Staged where
  gen : Nat
  step : Nat
  addr : Nat
  count : Nat
  list : List (Nat × Word)
  deriving DecidableEq, Repr

/-- What the Hub holds of generations (R161-R167). -/
structure GenState where
  staged : Option Staged
  next : Map Reg Word      -- side-by-side values of the generation installed beside the live one
  prev : Map Reg Word      -- side-by-side values that serve the old generation's items while it drains
  drainSince : Nat
  early : List Nat         -- generations for which an early item was reported (R166)
  opening : List Peloton   -- opened by the generation installed beside the live one
  closing : List Nat       -- handles that it closes
  closed : List Peloton    -- closed by the live generation: they serve the old one's items while it drains
  opened : List Nat        -- handles that it opened
  told : Bool              -- event 0x04:0x0054 was raised for the draining in progress
  deriving DecidableEq, Repr

/-! ## Power, clocks and pins -/

/-- The levels of the module's control pins and straps (R464-R471). -/
structure Pins where
  pwrGood : Bool
  perst : Bool             -- PERST_N
  thermTrip : Bool         -- THERM_TRIP_N
  alert : Bool             -- ALERT_N
  pos : BitVec 6           -- MOD_POS[5:0]
  deriving DecidableEq, Repr

/-- What the Derailleurs and the Hub hold of power, heat, clocks and bring-up beside their registers. -/
structure PowerState where
  samples : List Nat       -- input power of the last microseconds in W, newest first, at most 1,000 (R369)
  micro : Nat              -- energy in µJ below one mJ
  peakAt : Option Nat      -- time at which the peak action began
  peakBelow : Option Nat   -- since when P10 has stayed at or below PEAK − 300 W
  sustOver : Option Nat    -- since when P1M has exceeded SUST
  sustAt : Option Nat      -- time at which the sustained action began
  sustBelow : Option Nat   -- since when P1M has stayed at or below SUST − 200 W
  forced : List (Fin 16)   -- clusters in forced Freewheel for power, latest first
  forcedAt : Nat           -- time of the last step of the forced Freewheel
  heldSince : Option Nat   -- since when the limit has held
  vin : Nat                -- input voltage, 0.1 V
  lowSince : Option Nat    -- since when the input is below 47 V
  highSince : Option Nat   -- since when the input is above 62 V
  highAt : Nat             -- when the input was last above 60 V
  highDue : Bool           -- an excursion above 62 V whose event has not been raised
  off : Bool               -- P4 (R368)
  inReset : Bool           -- PERST_N is low after it started a module reset (R381)
  trip : Bool              -- a thermal trip has latched (R471)
  tripLogged : Bool        -- its fatal record was committed
  shutdown : Bool          -- the last power-down was a voltage shutdown whose record was committed
  clean : Bool             -- an input loss since the last power-up is accounted for
  hot : Map (Fin 16) Nat   -- thermal half rate of a cluster: since when it has been at or below TLIM − 3
  heat : List (Fin 16)     -- clusters in forced Freewheel for heat
  bandSince : Map (Fin 2 × Fin 12) Nat  -- since when a stack has been 2 °C below its band (R242)
  stackHot : List (Fin 2 × Fin 12)  -- stacks in the 105-110 °C band
  idleSince : Map (Fin 16) Nat   -- since when a cluster has met the conditions of R361
  wakeAt : Map (Fin 16) (Nat × Bool)  -- time of a cluster's wake cause, and whether it satisfied a wait
  wakeP2 : List (Fin 16)   -- clusters that wake from P2
  restart : List (Fin 16)  -- clusters in a restart (R384)
  fwSince : Map (Fin 16) Nat     -- since when a cluster is in Freewheel
  pllTries : Map (Fin 16) Nat
  cadLost : Nat            -- time at which the reference was lost
  kick : Nat × Nat × Nat   -- Kickstand refusals not yet reported: starts, opens, operand faults
  kickCore : Option Nat
  kickAt : Option Nat      -- time of the last event 0x01:0x0060
  goodAt : Nat             -- time at which PWR_GOOD rose
  mapped : Bool            -- bring-up step 6 has ended
  trained : List (Fin 2)   -- dies whose bring-up step 7 has ended
  tested : List (Fin 16)   -- clusters whose bring-up self-test has ended
  p3Access : Map (Fin 2) Nat     -- in P3, the last access of a die's DRAM
  debug : Bool             -- a debug copy is requested (R376)
  bridgeFails : List (Nat × Nat × Nat)  -- bridge flits that wait to be sent again: direction, sequence number, failures in a row
  deriving DecidableEq, Repr

/-- The power state after power-up. -/
def PowerState.reset : PowerState :=
  { samples := [], micro := 0, peakAt := none, peakBelow := none, sustOver := none, sustAt := none, sustBelow := none, forced := [],
    forcedAt := 0, heldSince := none, vin := 0, lowSince := none, highSince := none, highAt := 0, highDue := false, off := true, inReset := false, trip := false,
    tripLogged := false, shutdown := false, clean := true, hot := [], heat := [], bandSince := [], stackHot := [], idleSince := [], wakeAt := [],
    wakeP2 := [], restart := [], fwSince := [], pllTries := [], cadLost := 0, kick := (0, 0, 0), kickCore := none, kickAt := none,
    goodAt := 0, mapped := false, trained := [], tested := [], p3Access := [], debug := false, bridgeFails := [] }

/-! ## Memory upkeep -/

/-- A row that the Hub is to repair (R247): die, stack, pseudo-channel, bank, row; the reason: 0 uncorrectable word, 1 corrected
errors in three words, 2 register, 3 unit map or fence. -/
structure RowJob where
  d : Fin 2
  m : Fin 12
  pc : Nat
  bank : Nat
  row : Nat
  why : Nat
  deriving DecidableEq, Repr

/-- What the memory controllers and the Hub hold of scrubbing and repair. -/
structure UpkeepState where
  rows : List RowJob       -- rows waiting for a repair
  spares : Map (Fin 2 × Fin 12 × Nat × Nat) Nat  -- spare rows used in a bank
  mapped : List (Fin 2 × Fin 12 × Nat × Nat × Nat)  -- rows mapped to spares
  corrected : List (Nat × Nat)   -- DRAM words corrected within 24 hours, each with its time
  pass : Map (Fin 2) (Nat × Nat)  -- words corrected and uncorrectable in the current scrub pass
  cluPos : Map (Fin 16) Nat      -- next word of a cluster's scrub
  refresh : Map (Fin 2 × Fin 12) Nat  -- time of a stack's last refresh command
  deriving DecidableEq, Repr

/-! ## The step service -/

/-- A context of a plan (R399). -/
structure PlanCtx where
  x : CtxId
  priv : Nat
  image : Nat
  deriving DecidableEq, Repr

/-- A tensor of a plan's health list (R228). -/
structure HealthItem where
  tid : Nat
  action : Nat
  ctxmask : Nat
  satlim : Nat
  vanlim : Nat
  deriving DecidableEq, Repr

/-- A plan (R399). -/
structure Plan where
  addr : Nat
  nanpol : Nat
  mbatch : Nat
  job : Word
  first : Nat
  nsteps : Nat
  baseseed : Nat
  inwait : Nat
  inbase : Nat
  inslots : Nat
  inper : Nat
  inslotsz : Nat
  rptbase : Nat
  rptcount : Nat
  hbase : Nat
  ctxs : List PlanCtx
  regs : List (Nat × Word)
  plts : List Nat
  recompute : List (Nat × Nat)
  health : List HealthItem
  seeds : List (Nat × Nat)
  frozen : List Nat
  clips : List (Nat × Nat)
  deriving DecidableEq, Repr

/-- What the step service counts in a step for its report (R403). -/
structure StepCnt where
  replays : Nat
  fallbacks : Nat
  handovers : Nat
  nans : Nat
  traps : Nat
  events : Map Nat Nat     -- by class
  waitIn : Map (Fin 256) Nat
  waitCr : Map (Fin 256) Nat
  start : Nat
  last : Nat
  flags : Nat
  snap : Nat
  deriving DecidableEq, Repr

/-- Nothing counted. -/
def StepCnt.zero : StepCnt :=
  { replays := 0, fallbacks := 0, handovers := 0, nans := 0, traps := 0, events := [], waitIn := [], waitCr := [], start := 0, last := 0,
    flags := 0, snap := 0 }

/-- One change of an ADJUST (R228): the tensor that called for it, its contexts, and whether it raised MARGIN. -/
structure Adjust where
  tid : Nat
  ctxmask : Nat
  margin : Bool
  deriving DecidableEq, Repr

/-- A seed that the step service wrote into a history slot (R222): the slot's address, its tensor, the step in which it was written
(none before the plan's first step), and the step whose recorded maximum took its place (R223). -/
structure SeedNote where
  slot : Nat
  tid : Nat
  since : Option Nat
  till : Option Nat
  deriving DecidableEq, Repr

/-- What the step service holds (R399-R403). -/
structure SvcState where
  plan : Option Plan
  next : Nat               -- the step that starts next
  active : Bool            -- the step of HUB_SVCSTAT has started and not ended
  posted : List (Nat × Nat)  -- inputs posted: step, index
  late : Bool              -- event 0x07:0x0031 was raised for the next step
  ended : Nat              -- time at which the last step ended
  stop : Option (Nat × Nat)  -- the last step to finish before a hold, and the cause
  abandoned : Bool         -- the step in progress was ended by cause 6
  cnt : StepCnt
  adjusts : List Adjust    -- changes in force, latest first
  due : List Adjust        -- changes called for and not yet staged
  undo : List Adjust       -- changes to take back
  calm : Map Nat Nat       -- consecutive steps at or below half of both limits
  health : List HealthSum  -- reduced health of the last step
  late1 : List (Fin 256)   -- cores late in the last step
  late2 : List (Fin 256)   -- cores late in the last two steps
  reformed : Bool          -- the next step is the first of a re-formed run
  ran : Bool               -- a step ended whose boundary work is not done
  passed : Bool            -- the boundary work before the next step is done
  fsbase : Map (Fin 256 × Fin 4) Word  -- FSCTLn of the plan's start, where an ADJUST has changed it
  taken : List (Nat × Nat × Nat)  -- taken-over regions to load: place in the partner slot, local address, bytes (R315)
  seedsWritten : List SeedNote
  startMem : Option Memory  -- memory as it stood at the start of the step, while one runs (R43, R83)
  deriving DecidableEq, Repr

/-- The step service after power-up: IDLE. -/
def SvcState.reset : SvcState :=
  { plan := none, next := 0, active := false, posted := [], late := false, ended := 0, stop := none, abandoned := false,
    cnt := StepCnt.zero, adjusts := [], due := [], undo := [], calm := [], health := [], late1 := [], late2 := [], reformed := false, ran := false, passed := false, fsbase := [], taken := [],
    seedsWritten := [], startMem := none }

/-! ## Handovers -/

/-- A context whose tiles wait for a sibling (R122): where it ran, what it held, and its slots in full form. -/
structure Moved where
  x : CtxId
  dest : Option CtxId      -- the sibling context that runs it
  stored : List (A3 × Slot × Word)  -- its slots in full A128 form, each with its ATSTAT, until the sibling loads them
  reason : Nat
  at_ : Nat
  deriving DecidableEq, Repr

/-! ## Events -/

/-- An event record waiting for the Odometer: its class and code (R16) and its contents as (bytes, value) items. -/
structure Event where
  cls : Nat
  code : Nat
  die : Fin 2
  data : List (Nat × Nat)
  deriving DecidableEq, Repr

/-! ## Firmware -/

/-- A boot control entry (R414). -/
structure BootEntry where
  seq : Nat
  active : Bool
  trial : Bool
  tryCnt : Nat
  minSvn : Nat
  deriving DecidableEq, Repr

/-- A firmware slot of the flash (R416): its manifest, its pieces, and whether its contents verify (R417). -/
structure FwSlot where
  manifest : List Byte
  pieces : Map Nat (List Byte)
  sound : Bool
  deriving DecidableEq, Repr

/-- The delivery record (R420). -/
structure Delivery where
  dstate : Nat
  slot : Bool
  digest : List Byte
  manifest : List Byte
  present : List Nat
  deriving DecidableEq, Repr

/-- A piece or manifest that is being assembled from fragments (R421, R422): its source, what it is (a piece index, or none for
the manifest) and its fragments. -/
structure Assembly where
  src : Nat
  piece : Option Nat
  frags : Map Nat (List Byte)
  deriving DecidableEq, Repr

/-- An Odometer record (R434): its bytes but the STATE, which is live or superseded here, and its sector. -/
structure OdoRec where
  seq : Nat
  sev : Nat
  die : Nat
  cont : Bool
  cls : Nat
  code : Nat
  pcycle : Nat
  opsec : Nat
  payload : List Byte
  live : Bool
  sector : Nat
  deriving DecidableEq, Repr

/-- A sector of the Odometer region (R433). -/
structure OdoSector where
  erases : Nat
  used : Nat               -- record slots programmed since its erase
  bad : Bool
  deriving DecidableEq, Repr

/-- The boot flash (R412), which survives everything. -/
structure FlashState where
  boot : Option BootEntry
  slotA : FwSlot
  slotB : FwSlot
  delivery : Delivery
  pcycle : Nat             -- life counters in force (R439)
  opsec : Nat
  drop : Nat
  odo : List OdoRec        -- records, oldest first
  sectors : Map Nat OdoSector
  openSector : Nat
  nextSeq : Nat
  deriving DecidableEq, Repr

/-- A firmware command or takeover in progress and what the Hubs hold of the running image. -/
structure FwState where
  running : FwSlot         -- the slot that was booted
  runSlot : Bool
  since : Option Nat       -- full service on a trial image since (R428)
  piece : List (Nat × List Byte)  -- pieces accepted and not yet in flash
  asm : List Assembly
  takeover : Option Nat    -- time of an ACTIVATE with LIVE 1
  oldBoot : Option BootEntry
  dups : Nat               -- duplicates of the delivery
  watchdog : Bool          -- a Hub watchdog has expired since boot
  clearing : Option (Nat × Nat × Nat)  -- a clear of the Odometer in progress: UPTO, SEVMAX, records cleared
  latched : Option Nat     -- SEQ of the record in the EVR window
  latchedLive : Bool       -- it has not been superseded since it was latched
  i3c : Option (BitVec 7)  -- dynamic address
  eid : Nat                -- MCTP endpoint id
  sbCursor : Nat           -- the side-band's own Odometer cursor (R437)
  answers : Nat            -- the model's own: free values drawn for SPDM responses
  baseMap : List Byte      -- the loaded base unit map
  opsecAt : Nat            -- time up to which operating seconds are counted
  lifeAt : Nat             -- time of the last life-counter entry
  deriving DecidableEq, Repr

/-- The Hub's firmware state before boot. -/
def FwState.reset : FwState :=
  { running := ⟨[], [], true⟩, runSlot := false, since := none, piece := [], asm := [], takeover := none, oldBoot := none, dups := 0,
    watchdog := false, clearing := none, latched := none, latchedLive := false, i3c := none, eid := 0, sbCursor := 0, answers := 0, baseMap := [], opsecAt := 0,
    lifeAt := 0 }

/-- The boot flash as shipped: slot A holds an image that verifies, slot B and every log are empty (log entry 12). -/
def FlashState.shipped : FlashState :=
  { boot := none, slotA := ⟨[], [], true⟩, slotB := ⟨[], [], false⟩, delivery := ⟨0, false, [], [], []⟩, pcycle := 0, opsec := 0, drop := 0,
    odo := [], sectors := [], openSector := 0, nextSeq := 1 }

/-! ## Outputs -/

/-- What the module has answered or driven outward, oldest first. -/
inductive Out where
  /-- Data of a register read, or of a BAR0, BAR2 or side-band read. -/
  | data (bytes : List Byte)
  /-- A read that was answered with an address fault or Completer Abort. -/
  | abort
  /-- An MSI-X message (R405): vector, address, data. -/
  | msi (vector : Nat) (addr : Word) (data : BitVec 32)
  /-- A packet sent on a Spoke's link. -/
  | packet (spoke : SpokeId) (p : Packet)
  /-- A link control flit sent on a Spoke: KIND, SEQ, CRED fields, TIME (R269). -/
  | control (spoke : SpokeId) (kind seq : Nat) (cred : List Nat) (time : Nat)
  /-- Bytes written into host memory at a host bus address (R396, R398, R403, R456). -/
  | hostWrite (addr : Nat) (bytes : List Byte)
  /-- A request for host memory that a copy needs: window, entry, address, bytes (R396). -/
  | hostRead (w entry addr len : Nat)
  /-- A poisoned completion (R394). -/
  | poison (bytes : List Byte)
  /-- A side-band response: its command code, its completion code and its data (R408, R409). -/
  | sideband (code completion : Nat) (bytes : List Byte)
  /-- An SPDM response by its code and its content (R432). -/
  | spdm (code : Nat) (bytes : List Byte)
  deriving DecidableEq, Repr

/-! ## The whole state -/

/-- The state of the module. -/
structure State where
  /-- The commands that are waiting, first in, first out. -/
  pending : List Instr
  mem : Memory
  /-- The model's own: what the command in progress has written, newest first. Empty between commands. -/
  stores : List MemOp
  /-- Errors in stored words of the Rim code: word number and the bits that differ from the codeword (R238). -/
  rim : Map Nat (BitVec 288)
  regs : Map Reg Word
  core : CoreState
  fab : FabState
  plt : PltState
  host : HostState
  obs : ObsState
  int : IntState
  gen : GenState
  pins : Pins
  pow : PowerState
  keep : UpkeepState
  svc : SvcState
  moved : List Moved
  flash : FlashState
  fw : FwState
  /-- HUB_MAPBUF (R374): bytes by offset; an offset not listed reads 0. -/
  mapbuf : Map Nat Byte
  /-- Global timebase, in ticks of 10 ns (R128). -/
  time : Nat
  /-- Events raised and not yet written by the Odometer. -/
  events : List Event
  out : List Out
  /-- The model's own: how many free values have been drawn. -/
  free : Nat
  deriving DecidableEq, Repr

/-- No command stops with a fault. -/
inductive Fault where
  /-- Raised by no command: every fault of the spec is a next state. Safe. -/
  | none
  deriving DecidableEq, Repr

/-- Why a command has no meaning. -/
inductive Refusal where
  /-- A command of the table that the model does not reach; raised by `exec` alone. Safe. -/
  | notModelled (mnemonic : String)
  deriving DecidableEq, Repr

/-- A context after power-up (R126). -/
def Ctx.reset : Ctx :=
  { sreg := [], pred := [], tile := [], layer := 0, mbatch := 0, job := 0, table := [], wait := none,
    startCleats := [], bracket := none, serial := 0, latch := ⟨0, 0, 0, 0, 0, 0, 0⟩, run := none,
    planned := false, owed := 0, why := 0 }

/-- The host interface after power-up. BAR2 is 64 GiB (R389). -/
def HostState.reset : HostState :=
  { msix := [], pba := [], msixEnable := false, msixMask := false, d3hot := false, master := false, up := false, wins := [],
    nextRound := 0, bar2Log := 6 }

/-- An EMPTY slot (R97). -/
def Slot.empty : Slot := { elems := [], writer := none, step := 0 }

/-- The module right after power-up, before bring-up begins: every register at its After power-up value. -/
def State.reset : State :=
  { pending := [], mem := ⟨[], []⟩, stores := [], rim := [], regs := [],
    core := { ctxs := [], slots := [], owners := [], bg := [], nextBg := 0, faults := [], signals := [], heldAdds := [], cache := [], clock := [],
              prepass := [], once := [], amax := [], raised := [], reached := [], handAsked := [], bounds := [], seeded := [] },
    fab := { spokes := [], inject := [], ejected := [], spill := [], reqs := [], cooling := [], nextTag := 0, hubWaits := [],
             spilledBytes := 0, timeAdjust := 0, adjPhase := 0 },
    plt := { pelotons := [], attempts := [], colls := [], slots := [], regions := [], cache := [], snap := none },
    host := HostState.reset,
    obs := { trace := [], lost := [], telSeq := 0, telAt := 0, bytes := [], dumpAt := [], watch := [], base := [] },
    int := { digest := 0, digest1 := 0, rerunStep := 0, rerun := 0, culprit := none, spots := [], caps := [], capTag := [], tests := [], transients := [], learned := [], fenced := [], inField := [],
             lastTest := [] },
    gen := { staged := none, next := [], prev := [], drainSince := 0, early := [], opening := [], closing := [], closed := [], opened := [], told := false },
    pins := { pwrGood := false, perst := false, thermTrip := true, alert := true, pos := 0 },
    pow := PowerState.reset,
    keep := { rows := [], spares := [], mapped := [], corrected := [], pass := [], cluPos := [], refresh := [] },
    svc := SvcState.reset, moved := [], flash := FlashState.shipped, fw := FwState.reset, mapbuf := [],
    time := 0, events := [], out := [], free := 0 }

end Sys2Proof.Machine
end

