-- ==== Sys2Proof/Machine/Exact.lean ====
section
/-!
DEFINITION. Exact numbers and the exactness contract's arithmetic (R17-R38): products, the grid, coordinate dither,
accumulator elements, anchors and the product bound.
-/

namespace Sys2Proof.Machine

/-- An exact value as the units read it: NaN, an infinity, or (-1)^neg × m × 2^e. A zero keeps its sign (R62). -/
inductive Num where
  | nan
  | inf (neg : Bool)
  | fin (neg : Bool) (m : Nat) (e : Int)
  deriving DecidableEq, Repr

/-- Zero. -/
def Num.zero : Num := .fin false 0 0

/-- One. -/
def Num.one : Num := .fin false 1 0

/-- Is this value a NaN? -/
def Num.isNan : Num → Bool
  | .nan => true
  | _ => false

/-- Is this value a zero of either sign? -/
def Num.isZero : Num → Bool
  | .fin _ 0 _ => true
  | _ => false

/-- Multiply by 2^s, exactly. -/
def Num.scale : Num → Int → Num
  | .fin n m e, s => .fin n m (e + s)
  | x, _ => x

/-- The exact product; NaN for ∞ × 0 (R19). -/
def Num.mul : Num → Num → Num
  | .nan, _ => .nan
  | _, .nan => .nan
  | .inf a, .inf b => .inf (a ^^ b)
  | .inf a, .fin b m _ => if m = 0 then .nan else .inf (a ^^ b)
  | .fin a m _, .inf b => if m = 0 then .nan else .inf (a ^^ b)
  | .fin a m e, .fin b n f => .fin (a ^^ b) (m * n) (e + f)

/-- The signed integer of a finite value's mantissa. -/
def sgn (neg : Bool) (m : Nat) : Int := if neg then -(m : Int) else m

/-- The exact sum; the sign of an exact zero is + unless both are negative (IEEE 754, round to nearest). -/
def Num.add : Num → Num → Num
  | .nan, _ => .nan
  | _, .nan => .nan
  | .inf a, .inf b => if a = b then .inf a else .nan
  | .inf a, .fin _ _ _ => .inf a
  | .fin _ _ _, .inf b => .inf b
  | .fin a m e, .fin b n f =>
    let g := min e f
    let v := sgn a (m <<< (e - g).toNat) + sgn b (n <<< (f - g).toNat)
    if v = 0 then .fin (a && b) 0 g else .fin (decide (v < 0)) v.natAbs g

/-- The opposite value. -/
def Num.neg : Num → Num
  | .nan => .nan
  | .inf a => .inf (!a)
  | .fin a m e => .fin (!a) m e

/-- The magnitude. -/
def Num.abs : Num → Num
  | .nan => .nan
  | .inf _ => .inf false
  | .fin _ m e => .fin false m e

/-- Compare two finite magnitudes m × 2^e and n × 2^f. -/
def magLe (m : Nat) (e : Int) (n : Nat) (f : Int) : Bool :=
  decide (m <<< (e - min e f).toNat ≤ n <<< (f - min e f).toNat)

/-- Whether one value is less than another, as real numbers; NaN compares false (R106). -/
def Num.lt : Num → Num → Bool
  | .nan, _ => false
  | _, .nan => false
  | .inf a, .inf b => a && !b
  | .inf a, .fin _ _ _ => a
  | .fin _ _ _, .inf b => !b
  | .fin a m e, .fin b n f =>
    let g := min e f
    decide (sgn a (m <<< (e - g).toNat) < sgn b (n <<< (f - g).toNat))

/-- Whether two values are equal as real numbers (R106). -/
def Num.eq : Num → Num → Bool
  | .nan, _ => false
  | _, .nan => false
  | a, b => !a.lt b && !b.lt a

/-- Floor of log2 of a nonzero magnitude. -/
def flog2 (m : Nat) (e : Int) : Int := (Nat.log2 m : Int) + e

/-- Least n with m × 2^e ≤ 2^n, for m ≠ 0 (R30). -/
def clog2Mag (m : Nat) (e : Int) : Int := (clog2 m : Int) + e

/-! ## The grid and dither -/

/-- Left rotation of 32 bits. -/
def rotl32 (v : BitVec 32) (n : Nat) : BitVec 32 := (v <<< n) ||| (v >>> (32 - n))

/-- One round of the dither function (R34). -/
def ditherRound (x : BitVec 32 × BitVec 32 × BitVec 32 × BitVec 32) (kd : BitVec 32) :
    BitVec 32 × BitVec 32 × BitVec 32 × BitVec 32 :=
  let x0 := x.1 + x.2.1 + kd
  let x2 := x.2.2.1 + x.2.2.2
  let y1 := rotl32 x.2.1 7 ^^^ x2
  let y3 := rotl32 x.2.2.2 13 ^^^ x0
  (x0, y3, x2, y1)

/-- The dither word (R34): seed, 24-bit tensor id, 40-bit element index, 32-bit term index. -/
def dither (seed : BitVec 32) (tid : BitVec 24) (elem : BitVec 40) (term : BitVec 32) : BitVec 32 :=
  let x1 : BitVec 32 := tid.zeroExtend 32 ||| ((elem >>> 32).truncate 32 <<< 24)
  let x2 : BitVec 32 := elem.truncate 32
  let r := [(0x9E3779B9 : BitVec 32), 0x3C6EF372, 0xDAA66D2B, 0x78DDE6E4].foldl ditherRound (seed, x1, x2, term)
  r.1 ^^^ r.2.2.1

/-- The coordinates of a product (R35). -/
structure Coord where
  seed : BitVec 32
  tid : BitVec 24
  elem : BitVec 40
  term : BitVec 32
  deriving DecidableEq, Repr

/-- The dither word of a product. -/
def Coord.word (c : Coord) : Nat := (dither c.seed c.tid c.elem c.term).toNat

/-- A magnitude m × 2^-d rounded to the nearest integer, ties to even (R21). -/
def rneShift (m d : Nat) : Nat :=
  let q := m / 2 ^ d
  let r := m % 2 ^ d
  if 2 ^ d < 2 * r ∨ (2 * r = 2 ^ d ∧ q % 2 = 1) then q + 1 else q

/-- A signed i × 2^-d rounded under a dither word (R36). -/
def ditherShift (i : Int) (d w : Nat) : Int :=
  let q := i / (2 ^ d : Int)
  let r := (i % (2 ^ d : Int)).toNat * 2 ^ 32 / 2 ^ d
  if 2 ^ 32 ≤ r + w then q + 1 else q

/-- Place a finite value on the grid of anchor `a` (R20, R21, R36): the integer k, and whether it was rounded. -/
def onGrid (neg : Bool) (m : Nat) (e a : Int) (r : Rnd) (c : Coord) : Int × Bool :=
  if a ≤ e then (sgn neg (m <<< (e - a).toNat), false)
  else
    let d := (a - e).toNat
    if m % 2 ^ d = 0 then (sgn neg (m / 2 ^ d), false)
    else match r with
      | .rne => (sgn neg (rneShift m d), true)
      | .dither => (ditherShift (sgn neg m) d c.word, true)

/-! ## Accumulator elements -/

/-- The state of an element to which products of two states were added (R19): it depends on their set alone. -/
def ElState.join : ElState → ElState → ElState
  | .fin, y => y
  | x, .fin => x
  | .pinf, .pinf => .pinf
  | .ninf, .ninf => .ninf
  | _, _ => .nan

/-- Code of an element state (R72). -/
def ElState.code : ElState → Nat
  | .fin => 0
  | .pinf => 1
  | .ninf => 2
  | .nan => 3

/-- Element state of a code (R72). -/
def ElState.ofCode : Nat → ElState
  | 0 => .fin
  | 1 => .pinf
  | 2 => .ninf
  | _ => .nan

/-- Add a grid value or a special product to an element (R19, R20): 128-bit integers add without rounding. -/
def Elem.add (x y : Elem) : Elem := ⟨x.k + y.k, x.st.join y.st⟩

/-- A finite grid value as an addend. -/
def Elem.ofInt (k : Int) : Elem := ⟨BitVec.ofInt 128 k, .fin⟩

/-- The exact value of an element at anchor `a` (R17). -/
def Elem.num (x : Elem) (a : Int) : Num :=
  match x.st with
  | .nan => .nan
  | .pinf => .inf false
  | .ninf => .inf true
  | .fin => .fin (decide (x.k.toInt < 0)) x.k.toInt.natAbs a

/-- The product bound (R38): |p| ≥ 2^(127 - L) units overflows. -/
def overflows (k : Int) (terms : Nat) : Bool := decide (2 ^ (127 - clog2 terms) ≤ k.natAbs)

/-- The AUTO anchor (R30) of two maxima given as ceil_log2 values. -/
def autoAnchor (mA mB : Int) (k : Nat) : Int := mA + mB + max (-56) ((clog2 k : Int) - 87)

/-- The starting anchor of an attempt (R32): the clamp acts before the raise. -/
def startAnchor (a0 : Int) (raise : Nat) : Int := max a0 (-2048) + 32 * raise

end Sys2Proof.Machine
end

