-- ==== Sys2Proof/Machine/Formats.lean ====
section
/-!
DEFINITION. The tensor number formats (R56-R79): decoding, rounding into a format, scale exponents, and what a conversion
counts.
-/

namespace Sys2Proof.Machine

/-- Bits of one element of a format (R56). -/
def fmtBits (f : Nat) : Nat := [4, 8, 8, 8, 16, 16, 32, 16, 128, 64, 48, 8].getD f 0

/-- Formats that carry E8 scales (R56). -/
def fmtScaled (f : Nat) : Bool := f ≤ 3

/-- A128 storage forms. -/
def fmtA128 (f : Nat) : Bool := f == 8 || f == 9 || f == 10

/-- Value of a code of S4, S8E4 or S8E5 (R58): exponent bits, mantissa bits, bias. -/
def smallFloat (eb mb bias code : Nat) : Num :=
  let s := code.testBit (eb + mb)
  let e := code / 2 ^ mb % 2 ^ eb
  let m := code % 2 ^ mb
  if s ∧ e = 0 ∧ m = 0 then .nan
  else if e = 0 then .fin s m (1 - (bias : Int) - mb)
  else .fin s (2 ^ mb + m) ((e : Int) - bias - mb)

/-- Value of an IEEE 754 code (R62): exponent bits and mantissa bits. -/
def ieeeNum (eb mb code : Nat) : Num :=
  let bias : Int := 2 ^ (eb - 1) - 1
  let s := code.testBit (eb + mb)
  let e := code / 2 ^ mb % 2 ^ eb
  let m := code % 2 ^ mb
  if e = 2 ^ eb - 1 then (if m = 0 then .inf s else .nan)
  else if e = 0 then .fin s m (1 - bias - mb)
  else .fin s (2 ^ mb + m) ((e : Int) - bias - mb)

/-- Value of a code of a format that needs no auxiliary byte: S4, S8E4, S8E5, INT8, BF16, FP16, FP32 (R58-R62). -/
def codeNum (f code : Nat) : Num :=
  match f with
  | 0 => smallFloat 2 1 1 code
  | 1 => smallFloat 4 3 7 code
  | 2 => smallFloat 5 2 15 code
  | 3 => .fin (decide (signed 8 code < 0)) (signed 8 code).natAbs 0
  | 4 => ieeeNum 8 7 code
  | 5 => ieeeNum 5 10 code
  | 6 => ieeeNum 8 23 code
  | _ => .nan

/-- Value of a BM16 mantissa under exponent byte `e` (R69). -/
def bm16Num (code e : Nat) : Num :=
  if e = 255 then .nan
  else .fin (decide (signed 16 code < 0)) (signed 16 code).natAbs ((e : Int) - 127 - 15)

/-- The binary32 value of a code. -/
def f32 (code : Nat) : Num := ieeeNum 8 23 code

/-! ## Rounding -/

/-- A magnitude known from below: m × 2^e, with something above it when `sticky`. -/
structure Mag where
  m : Nat
  e : Int
  sticky : Bool
  deriving DecidableEq, Repr

/-- The magnitude over 2^q, rounded to the nearest integer, ties to even. -/
def Mag.round (g : Mag) (q : Int) : Nat :=
  if q ≤ g.e then g.m <<< (g.e - q).toNat
  else
    let d := (q - g.e).toNat
    let n := g.m / 2 ^ d
    let r := g.m % 2 ^ d
    if 2 ^ d < 2 * r ∨ (2 * r = 2 ^ d ∧ (g.sticky ∨ n % 2 = 1)) then n + 1 else n

/-- Code of a magnitude in a binary format without its sign, rounded once to nearest even, with no upper limit (R77). -/
def magCode (eb mb : Nat) (g : Mag) : Nat :=
  if g.m = 0 then 0
  else
    let qmin : Int := 1 - (2 ^ (eb - 1) - 1) - mb
    let q := max qmin (flog2 g.m g.e - mb)
    ((q - qmin).toNat) * 2 ^ mb + g.round q

/-- What a conversion counts (R76, R77): saturations, overflows to infinity, values that became zero. -/
structure Tally where
  conv : Nat
  sat : Nat
  ovf : Nat
  unf : Nat
  vanish : Nat
  deriving DecidableEq, Repr

def Tally.none : Tally := ⟨0, 0, 0, 0, 0⟩

def Tally.add (a b : Tally) : Tally :=
  ⟨a.conv + b.conv, a.sat + b.sat, a.ovf + b.ovf, a.unf + b.unf, a.vanish + b.vanish⟩

/-- Round a magnitude with a sign into an IEEE format (R77). -/
def ieeeRound (eb mb : Nat) (neg : Bool) (g : Mag) : Nat × Tally :=
  let c := magCode eb mb g
  let inf := (2 ^ eb - 1) * 2 ^ mb
  let s := b2n neg * 2 ^ (eb + mb)
  if inf ≤ c then (s + inf, ⟨1, 0, 1, 0, 0⟩)
  else (s + c, ⟨1, 0, 0, b2n (c == 0 && (g.m != 0 || g.sticky)), 0⟩)

/-- Convert an exact value into an IEEE format (R63, R77, R78). -/
def ieeeOf (eb mb : Nat) : Num → Nat × Tally
  | .nan => ((2 ^ eb - 1) * 2 ^ mb + 2 ^ (mb - 1), ⟨1, 0, 0, 0, 0⟩)
  | .inf n => (b2n n * 2 ^ (eb + mb) + (2 ^ eb - 1) * 2 ^ mb, ⟨1, 0, 0, 0, 0⟩)
  | .fin n m e => ieeeRound eb mb n ⟨m, e, false⟩

/-- The binary32 code of an exact value, rounded once. -/
def f32Of (x : Num) : Nat := (ieeeOf 8 23 x).1

/-- rn of the manual: an exact value rounded once to binary32 (R215). -/
def rn (x : Num) : Num := f32 (f32Of x)

/-- Largest finite magnitude of a scaled format (R84). -/
def fmaxOf (f : Nat) : Nat := [6, 480, 114688, 127].getD f 127

/-- Convert an exact value into S4, S8E4 or S8E5 under scale exponent `s` (R76, R78): exponent bits, mantissa bits. -/
def smallOf (f eb mb bias : Nat) (x : Num) (s : Int) : Nat × Tally :=
  let nan := 2 ^ (eb + mb)
  match x with
  | .nan => (nan, ⟨1, 0, 0, 0, 0⟩)
  | .inf _ => (nan, ⟨1, 0, 0, 0, 0⟩)
  | .fin n m e =>
    if magLe m (e - s) (fmaxOf f) 0 = false then (b2n n * nan + (nan - 1), ⟨1, 1, 0, 0, 0⟩)
    else if m = 0 then (0, ⟨1, 0, 0, 0, 0⟩)
    else
      let g : Mag := ⟨m, e - s, false⟩
      let qmin : Int := 1 - (bias : Int) - mb
      let q := max qmin (flog2 m (e - s) - mb)
      let c := ((q - qmin).toNat) * 2 ^ mb + g.round q
      if c = 0 then (0, ⟨1, 0, 0, 1, 0⟩) else (b2n n * nan + c, ⟨1, 0, 0, 0, 0⟩)

/-- Convert an exact value into INT8 under scale exponent `s` (R76, R78). -/
def int8Of (x : Num) (s : Int) : Nat × Tally :=
  match x with
  | .nan => (0x80, ⟨1, 0, 0, 0, 0⟩)
  | .inf _ => (0x80, ⟨1, 0, 0, 0, 0⟩)
  | .fin n m e =>
    let lim := if n then 128 else 127
    if magLe m (e - s) lim 0 = false then (if n then 0x80 else 127, ⟨1, 1, 0, 0, 0⟩)
    else
      let k := (Mag.mk m (e - s) false).round 0
      (unsigned 8 (sgn n k), ⟨1, 0, 0, b2n (k == 0 && m != 0), 0⟩)

/-- Convert an exact value into a format other than BM16 and the A128 forms, under scale exponent `s` (R76-R78). -/
def cvtOf (f : Nat) (x : Num) (s : Int) : Nat × Tally :=
  match f with
  | 0 => smallOf 0 2 1 1 x s
  | 1 => smallOf 1 4 3 7 x s
  | 2 => smallOf 2 5 2 15 x s
  | 3 => int8Of x s
  | 4 => ieeeOf 8 7 x
  | 5 => ieeeOf 5 10 x
  | _ => ieeeOf 8 23 x

/-- Whether converting this value writes an element that is NaN, or that reports as one (R78, R86). -/
def cvtNan (f : Nat) (x : Num) : Bool :=
  match x with
  | .nan => true
  | .inf _ => f ≤ 3 || f == 7
  | .fin _ _ _ => false

/-! ## BM16 blocks -/

/-- Larger of two finite magnitudes. -/
def magMax (a b : Nat × Int) : Nat × Int := if magLe a.1 a.2 b.1 b.2 then b else a

/-- Form one BM16 block of exact values (R70): the exponent byte, the mantissa codes, what it counts, and whether the
exponent saturated. `w` is the dither word of each element under a Crank. -/
def bm16Block (v : List Num) (r : Rnd) (c : List Coord) : Nat × List Nat × Tally × Bool :=
  let bad (x : Num) : Bool := match x with
    | .fin _ _ _ => false
    | _ => true
  if v.any bad then (255, v.map fun _ => 0, ⟨v.length, 0, 0, 0, 0⟩, false)
  else
    let x := v.foldl (fun a y => match y with
      | .fin _ m e => if m = 0 then a else if a.1 = 0 then (m, e) else magMax a (m, e)
      | _ => a) ((0, 0) : Nat × Int)
    let e0 : Int := if x.1 = 0 then -128 else flog2 x.1 x.2 + 1
    let e : Int := max (-127) (min 127 e0)
    let one (q : Num × Coord) : Nat × Tally :=
      match q.1 with
      | .fin n m f =>
        let k := (onGrid n m f (e - 15) r q.2).1
        let k' := max (-32768) (min 32767 k)
        (unsigned 16 k', ⟨1, b2n (k != k'), 0, 0, b2n (k' == 0 && m != 0)⟩)
      | _ => (0, ⟨1, 0, 0, 0, 0⟩)
    let l := (v.zip c).map one
    ((e + 127).toNat, l.map Prod.fst, l.foldl (fun t q => t.add q.2) Tally.none, decide (127 < e0))

/-! ## Scales -/

/-- Least s with m × 2^e ≤ fmax × 2^s, clamped to -127 … 127 (R84); -127 for 0. -/
def fit (m : Nat) (e : Int) (fmax : Nat) : Int :=
  if m = 0 then -127
  else
    let s0 := flog2 m e - Nat.log2 fmax - 1
    let s := ((List.range 4).map fun i => s0 + i).find? (fun s => magLe m e fmax s) |>.getD (s0 + 4)
    max (-127) (min 127 s)

/-- Clamp a scale exponent (R84). -/
def clampScale (s : Int) : Int := max (-127) (min 127 s)

/-- A magnitude rounded toward +∞ to binary32 (R82): its code; infinity beyond the range. -/
def f32Up (m : Nat) (e : Int) : Nat :=
  if m = 0 then 0
  else
    let q := max (-149) (flog2 m e - 23)
    let n := if q ≤ e then m <<< (e - q).toNat else (m + 2 ^ (q - e).toNat - 1) / 2 ^ (q - e).toNat
    min ((q + 149).toNat * 2 ^ 23 + n) 0x7F800000

/-- A history entry as a magnitude (R81): its absolute value, 2^128 for an infinity, none for a NaN. -/
def histEntry (code : Nat) : Option (Nat × Int) :=
  match f32 code with
  | .nan => none
  | .inf _ => some (1, 128)
  | .fin _ m e => some (m, e)

/-- Largest entry of a list of history entries (R81): 0 when all are NaN or 0. -/
def histMax (codes : List Nat) : Nat × Int :=
  (codes.filterMap histEntry).foldl (fun a b => if b.1 = 0 then a else if a.1 = 0 then b else magMax a b) (0, 0)

end Sys2Proof.Machine
end

