-- ==== Sys2Proof/Machine/Mem.lean ====
section
/-!
DEFINITION. Memory as data: its canonical form, reading, and the changes a command makes to it; and the module's
physical address space (R9, R10, R120, R232, R252).
-/

namespace Sys2Proof.Machine

/-- Cells in strictly rising order of address. -/
def cellsSorted : List Host.Cell → Bool
  | [] => true
  | [_] => true
  | x :: y :: t => decide (x.1 < y.1) && cellsSorted (y :: t)

/-- Insert a cell in address order, in place of a cell of the same address. -/
def cellsPut (a : Nat) (b : Byte) : List Host.Cell → List Host.Cell
  | [] => [(a, b)]
  | x :: t => if a < x.1 then (a, b) :: x :: t else if a = x.1 then (a, b) :: t else x :: cellsPut a b t

/-- The canonical form of memory: addresses strictly rising and no cell equal to what an unlisted address reads as. -/
def Memory.wf (m : Memory) : Bool := cellsSorted m.cells && m.cells.all fun c => decide (c.2 ≠ 0)

/-- Take the range [lo, hi) out of one lost range. -/
def LostRange.cut (lo hi : Nat) (r : LostRange) : List LostRange :=
  (if r.lo < min r.hi lo then [{ r with hi := min r.hi lo }] else []) ++
  (if max r.lo hi < r.hi then [{ r with lo := max r.lo hi }] else [])

/-- Take the range [lo, hi) out of the lost ranges. -/
def cutLost (lo hi : Nat) (l : List LostRange) : List LostRange := (l.map (LostRange.cut lo hi)).flatten

/-- What an address that no cell lists reads as: 0 (log entry 3), or a free value where its contents were lost. -/
def unlisted (l : List LostRange) (a : Nat) : Byte :=
  match l with
  | [] => 0
  | r :: t => if r.lo ≤ a ∧ a < r.hi then Config.lostByte r.serial a else unlisted t a

/-- Read one byte. -/
def Memory.get (m : Memory) (a : Nat) : Byte :=
  match m.cells.find? (fun c => decide (c.1 = a)) with
  | some c => c.2
  | none => unlisted m.lost a

/-- Make one change. Writing 0 unlists the byte, so that equal memories are equal data. -/
def Memory.apply (m : Memory) : MemOp → Memory
  | .put a b =>
    { cells := if b = 0 then m.cells.filter (fun c => decide (c.1 ≠ a)) else cellsPut a b m.cells
      lost := cutLost a (a + 1) m.lost }
  | .zero lo hi =>
    { cells := m.cells.filter (fun c => decide (¬ (lo ≤ c.1 ∧ c.1 < hi))), lost := cutLost lo hi m.lost }
  | .lose lo hi n =>
    { cells := m.cells.filter (fun c => decide (¬ (lo ≤ c.1 ∧ c.1 < hi)))
      lost := { lo := lo, hi := hi, serial := n } :: cutLost lo hi m.lost }

/-- Make the changes of a command, the newest of which stands first. -/
def Memory.applyAll (m : Memory) (ops : List MemOp) : Memory := ops.foldr (fun o m => m.apply o) m

/-- The byte that the changes of a command leave at an address, if one of them reaches it. -/
def storedByte (a : Nat) : List MemOp → Option Byte
  | [] => none
  | .put a' b :: t => if a = a' then some b else storedByte a t
  | .zero lo hi :: t => if lo ≤ a ∧ a < hi then some 0 else storedByte a t
  | .lose lo hi n :: t => if lo ≤ a ∧ a < hi then some (Config.lostByte n a) else storedByte a t

/-- The byte at an address as the command in progress sees it. -/
def State.byte (s : State) (a : Nat) : Byte :=
  match storedByte a s.stores with
  | some b => b
  | none => s.mem.get a

/-- The bytes [a, a + n). -/
def State.bytes (s : State) (a n : Nat) : List Byte := (List.range n).map fun i => s.byte (a + i)

/-- Put one byte. -/
def State.putByte (s : State) (a : Nat) (b : Byte) : State := { s with stores := .put a b :: s.stores }

/-- Put bytes from `a` up. -/
def State.putBytes (s : State) (a : Nat) : List Byte → State
  | [] => s
  | b :: t => State.putBytes (s.putByte a b) (a + 1) t

/-- A command's end: its stores reach memory, and the queue is what it was. -/
def State.settle (s t : State) : State :=
  { t with mem := s.mem.applyAll t.stores, stores := [], pending := s.pending }

/-- Run a command's effect: it starts with nothing stored, and what it stores reaches memory when it ends. -/
def runs (s : State) (f : State → State) : Host.Outcome State Fault Refusal :=
  .next (s.settle (f { s with stores := [] }))

/-! ## Registers -/

/-- The value a register holds (R5; reserved bits read 0, R8). -/
def State.reg (s : State) (r : Reg) : Word := s.regs.get r r.reset &&& r.mask

/-- Set a register's value. -/
def State.setReg (s : State) (r : Reg) (v : Word) : State := { s with regs := s.regs.set r (v &&& r.mask) }

/-- A field of a register. -/
def State.fld (s : State) (r : Reg) (f : Nat × Nat) : Nat := getBits (s.reg r) f

/-- Whether a one-bit field is 1. -/
def State.flag (s : State) (r : Reg) (f : Nat × Nat) : Bool := s.fld r f == 1

/-- Set a field of a register. -/
def State.setFld (s : State) (r : Reg) (f : Nat × Nat) (v : Nat) : State := s.setReg r (putBits (s.reg r) f v)

/-- Add to a counter field, which saturates at its all-ones value (R53). -/
def State.count (s : State) (r : Reg) (f : Nat × Nat) (n : Nat) : State :=
  if n = 0 then s else s.setFld r f (min (s.fld r f + n) (2 ^ f.2 - 1))

/-! ## The physical address space -/

/-- Where an address lies (R9). -/
inductive Place where
  | dram (d : Fin 2) (off : Nat)
  | scratch (k : Fin 16) (off : Nat)
  | cassette (c : Fin 256) (off : Nat)
  | control (off : Nat)
  deriving DecidableEq, Repr

/-- DRAM capacity of a die in bytes (R232). -/
def State.dramSize (s : State) (d : Fin 2) : Nat := 48 * s.fld (.memCfg d) F.memCfg_NSTK * 2 ^ 30

/-- Tandem mode is in effect (R116). -/
def State.tandem (s : State) : Bool := s.flag .hubModstat F.hubModstat_MODE

/-- Where a module physical address lies for an access of some privilege; none is an address fault (R10, R120). -/
def State.place (s : State) (p : Priv) (a : Nat) : Option Place :=
  if a < 0x020000000000 then
    let d : Fin 2 := Fin.ofNat _ (a / 2 ^ 40)
    if a % 2 ^ 40 < s.dramSize d ∧ ¬ (s.tandem = true ∧ d = 1 ∧ p ≠ .hub) then some (.dram d (a % 2 ^ 40)) else none
  else if 0xE00000000000 ≤ a ∧ a < 0xE00000000000 + 16 * 0x03000000 then
    let k : Fin 16 := Fin.ofNat _ ((a - 0xE00000000000) / 0x03000000)
    let o := (a - 0xE00000000000) % 0x03000000
    if o < s.fld (.cluCccfg k) F.cluCccfg_SCRW * 2 ^ 24 then some (.scratch k o) else none
  else if 0xF00000000000 ≤ a ∧ a < 0xF00000000000 + 256 * 0x400000 then
    let c : Fin 256 := Fin.ofNat _ ((a - 0xF00000000000) / 0x400000)
    let o := (a - 0xF00000000000) % 0x400000
    if o < 0x200000 then some (.cassette c o) else none
  else if 0xFF0000000000 ≤ a ∧ a < 0xFF0040000000 then some (.control (a - 0xFF0000000000))
  else none

/-- The cluster of a core (R1). -/
def clusterOf (c : Fin 256) : Fin 16 := ⟨c.val / 16, by omega⟩

/-- The die of a cluster (R1). -/
def dieOfCluster (k : Fin 16) : Fin 2 := ⟨k.val / 8, by omega⟩

/-- The die of a core. -/
def dieOf (c : Fin 256) : Fin 2 := dieOfCluster (clusterOf c)

/-- The core `j` of cluster `k` (R1). -/
def coreOf (k : Fin 16) (j : Fin 16) : Fin 256 := ⟨16 * k.val + j.val, by omega⟩

/-- First address of a core's Cassette (R9). -/
def cassetteBase (c : Fin 256) : Nat := 0xF00000000000 + 0x400000 * c.val

end Sys2Proof.Machine
end

