-- ==== Sys2Proof/Machine/Events.lean ====
section
/-!
DEFINITION. Events (R16) with the severity and the interrupt source of each event table of the spec, the Hub's event
queue (R435), and the edge of an interrupt source (R404, R405).
-/

namespace Sys2Proof.Machine

/-- Severities of an event, by the number R434 gives them. -/
inductive Severity where
  | info | notice | error | fatal
  deriving DecidableEq, Repr

/-- SEV of R434. -/
def Severity.code : Severity → Nat
  | .info => 0
  | .notice => 1
  | .error => 2
  | .fatal => 3

/-- The interrupt source of an event: none, a shared source, or an offset among a Spoke's eight sources (R15). -/
inductive EvSource where
  | none
  | shared (n : Nat)
  | spoke (n : Nat)
  deriving DecidableEq, Repr

/-- One row of the event tables: class, code, severity, source. -/
structure EventRow where
  cls : Nat
  code : Nat
  sev : Severity
  src : EvSource

/-- Events of class 0x01. -/
def eventsClass1 : List EventRow :=
  [⟨1, 0x0002, .notice, .shared 0⟩,
   ⟨1, 0x0003, .error, .shared 1⟩,
   ⟨1, 0x0010, .notice, .shared 2⟩,
   ⟨1, 0x0011, .notice, .shared 2⟩,
   ⟨1, 0x0012, .error, .shared 3⟩,
   ⟨1, 0x0020, .notice, .shared 4⟩,
   ⟨1, 0x0021, .fatal, .shared 5⟩,
   ⟨1, 0x0022, .notice, .shared 13⟩,
   ⟨1, 0x0030, .notice, .shared 6⟩,
   ⟨1, 0x0031, .error, .shared 7⟩,
   ⟨1, 0x0032, .fatal, .shared 8⟩,
   ⟨1, 0x0040, .error, .shared 9⟩,
   ⟨1, 0x0041, .info, .none⟩,
   ⟨1, 0x0042, .error, .shared 10⟩,
   ⟨1, 0x0050, .info, .none⟩,
   ⟨1, 0x0051, .notice, .shared 11⟩,
   ⟨1, 0x0060, .notice, .shared 12⟩]

/-- Events of class 0x02. -/
def eventsClass2 : List EventRow :=
  [⟨2, 0x0010, .error, .shared 32⟩,
   ⟨2, 0x0011, .error, .shared 33⟩,
   ⟨2, 0x0012, .error, .shared 32⟩,
   ⟨2, 0x0020, .notice, .shared 34⟩,
   ⟨2, 0x0021, .error, .shared 35⟩,
   ⟨2, 0x0030, .error, .shared 36⟩,
   ⟨2, 0x0040, .info, .none⟩,
   ⟨2, 0x0041, .error, .shared 37⟩,
   ⟨2, 0x0042, .fatal, .shared 38⟩,
   ⟨2, 0x0050, .notice, .shared 39⟩,
   ⟨2, 0x0051, .error, .shared 40⟩,
   ⟨2, 0x0052, .error, .shared 41⟩,
   ⟨2, 0x0060, .info, .none⟩]

/-- Events of class 0x03. -/
def eventsClass3 : List EventRow :=
  [⟨3, 0x0010, .info, .spoke 1⟩,
   ⟨3, 0x0011, .notice, .spoke 2⟩,
   ⟨3, 0x0020, .notice, .spoke 3⟩,
   ⟨3, 0x0041, .error, .spoke 0⟩,
   ⟨3, 0x0042, .error, .spoke 0⟩,
   ⟨3, 0x0050, .error, .spoke 4⟩,
   ⟨3, 0x0051, .error, .spoke 5⟩,
   ⟨3, 0x0052, .error, .spoke 4⟩,
   ⟨3, 0x0060, .notice, .spoke 4⟩,
   ⟨3, 0x0070, .error, .spoke 6⟩]

/-- Events of class 0x04. -/
def eventsClass4 : List EventRow :=
  [⟨4, 0x0010, .notice, .shared 128⟩,
   ⟨4, 0x0011, .error, .shared 128⟩,
   ⟨4, 0x0020, .info, .none⟩,
   ⟨4, 0x0022, .fatal, .shared 130⟩,
   ⟨4, 0x0030, .notice, .shared 131⟩,
   ⟨4, 0x0031, .error, .shared 131⟩,
   ⟨4, 0x0040, .error, .shared 129⟩,
   ⟨4, 0x0041, .error, .shared 129⟩,
   ⟨4, 0x0050, .info, .none⟩,
   ⟨4, 0x0051, .notice, .shared 131⟩,
   ⟨4, 0x0052, .error, .shared 131⟩,
   ⟨4, 0x0053, .info, .none⟩,
   ⟨4, 0x0054, .error, .shared 131⟩,
   ⟨4, 0x0060, .notice, .shared 129⟩,
   ⟨4, 0x0061, .info, .none⟩,
   ⟨4, 0x8001, .error, .shared 132⟩,
   ⟨4, 0x8002, .error, .shared 133⟩,
   ⟨4, 0x8010, .error, .shared 134⟩,
   ⟨4, 0x8011, .error, .shared 135⟩,
   ⟨4, 0x8012, .error, .shared 136⟩,
   ⟨4, 0x8020, .notice, .shared 137⟩,
   ⟨4, 0x8021, .error, .shared 138⟩,
   ⟨4, 0x8022, .notice, .shared 139⟩,
   ⟨4, 0x8023, .notice, .shared 139⟩,
   ⟨4, 0x8031, .notice, .shared 140⟩,
   ⟨4, 0x8041, .error, .shared 141⟩,
   ⟨4, 0x8050, .error, .shared 142⟩]

/-- Events of class 0x05. -/
def eventsClass5 : List EventRow :=
  [⟨5, 0x0101, .notice, .shared 176⟩,
   ⟨5, 0x0102, .error, .shared 177⟩,
   ⟨5, 0x0001, .error, .shared 160⟩,
   ⟨5, 0x0010, .info, .none⟩,
   ⟨5, 0x0011, .notice, .none⟩,
   ⟨5, 0x0012, .notice, .none⟩,
   ⟨5, 0x0020, .error, .shared 161⟩,
   ⟨5, 0x0030, .notice, .shared 162⟩]

/-- Events of class 0x06. -/
def eventsClass6 : List EventRow :=
  [⟨6, 0x0001, .info, .none⟩,
   ⟨6, 0x0002, .error, .shared 224⟩,
   ⟨6, 0x0003, .fatal, .shared 225⟩,
   ⟨6, 0x0004, .error, .shared 226⟩,
   ⟨6, 0x0010, .notice, .shared 227⟩,
   ⟨6, 0x0011, .info, .shared 227⟩,
   ⟨6, 0x0014, .notice, .shared 228⟩,
   ⟨6, 0x0020, .notice, .shared 229⟩,
   ⟨6, 0x0021, .error, .shared 230⟩,
   ⟨6, 0x0022, .notice, .shared 229⟩,
   ⟨6, 0x0030, .error, .shared 231⟩,
   ⟨6, 0x0041, .error, .shared 232⟩,
   ⟨6, 0x0050, .notice, .shared 233⟩,
   ⟨6, 0x0052, .error, .shared 234⟩,
   ⟨6, 0x0060, .fatal, .shared 235⟩]

/-- Events of class 0x07. -/
def eventsClass7 : List EventRow :=
  [⟨7, 0x0001, .notice, .shared 192⟩,
   ⟨7, 0x0002, .notice, .shared 192⟩,
   ⟨7, 0x0010, .error, .shared 193⟩,
   ⟨7, 0x0030, .notice, .shared 196⟩,
   ⟨7, 0x0031, .notice, .shared 197⟩,
   ⟨7, 0x0040, .notice, .shared 198⟩,
   ⟨7, 0x0041, .error, .shared 199⟩,
   ⟨7, 0x0050, .error, .shared 200⟩,
   ⟨7, 0x0060, .notice, .shared 201⟩]

/-- Events of class 0x08. -/
def eventsClass8 : List EventRow :=
  [⟨8, 0x0010, .error, .none⟩,
   ⟨8, 0x0011, .error, .none⟩,
   ⟨8, 0x0012, .error, .none⟩,
   ⟨8, 0x0013, .notice, .none⟩,
   ⟨8, 0x0021, .error, .none⟩,
   ⟨8, 0x0030, .error, .none⟩,
   ⟨8, 0x0040, .notice, .none⟩,
   ⟨8, 0x0041, .notice, .none⟩,
   ⟨8, 0x0042, .fatal, .none⟩,
   ⟨8, 0x0050, .info, .none⟩,
   ⟨8, 0x0051, .error, .none⟩,
   ⟨8, 0x0060, .info, .none⟩]

/-- The event tables of the spec. -/
def eventTable : List EventRow :=
  List.flatten [eventsClass1, eventsClass2, eventsClass3, eventsClass4, eventsClass5, eventsClass6, eventsClass7, eventsClass8]

/-- Severity of an event; an event of no table is a notice. -/
def eventSeverity (cls code : Nat) : Severity :=
  match eventTable.find? fun r => r.cls == cls && r.code == code with
  | some r => r.sev
  | none => .notice

/-- Interrupt source of an event. -/
def eventSource (cls code : Nat) : EvSource :=
  match eventTable.find? fun r => r.cls == cls && r.code == code with
  | some r => r.src
  | none => .none

/-- Change what the step service counts for its report (R403). -/
def State.tally (s : State) (f : StepCnt → StepCnt) : State := { s with svc := { s.svc with cnt := f s.svc.cnt } }

/-- A dropped record: EVR_DROP counts it modulo 2^24 (R435, R439). -/
def State.dropEvent (s : State) : State := s.setFld .evrDrop F.evrDrop_COUNT (s.fld .evrDrop F.evrDrop_COUNT + 1)

/-- Put an event into the Hub's queue of 4,096 records (R435): when it is full a new info or notice record is dropped, and
an error or fatal record displaces the newest queued info or notice record. -/
def State.queueEvent (s : State) (e : Event) : State :=
  if s.events.length < 4096 then { s with events := s.events ++ [e] }
  else
    let low (x : Event) : Bool := decide ((eventSeverity x.cls x.code).code ≤ 1)
    let s := s.dropEvent
    if low e then s
    else match s.events.reverse.findIdx? low with
      | some i => { s with events := s.events.eraseIdx (s.events.length - 1 - i) ++ [e] }
      | none => s

/-- Send or hold one MSI-X message (R405): a masked vector sets its PBA bit. -/
def State.msix (s : State) (vector : Nat) : State :=
  let e := s.host.msix.get vector MsixEntry.reset
  if s.host.msixEnable = false ∨ s.host.d3hot = true then { s with host := { s.host with pba := s.host.pba.set vector true } }
  else if s.host.msixMask = true ∨ e.masked = true then { s with host := { s.host with pba := s.host.pba.set vector true } }
  else { s with out := s.out ++ [.msi vector e.addr e.data] }

/-- One edge on source `src` of die `d`'s interrupt controller (R404, R405). -/
def State.edge (s : State) (d : Fin 2) (src : Fin 512) : State :=
  let p : Reg := .icuPend d ⟨src.val / 64, by omega⟩
  let n : Reg := .icuCnt d ⟨src.val / 8, by omega⟩
  let was := bit (s.reg p) (src.val % 64)
  let s := s.setFld p (src.val % 64, 1) 1
  let s := s.count n (8 * (src.val % 8), 8) 1
  if h : src.val < 256 then
    let r : Reg := .icuRoute d ⟨src.val, h⟩
    if was = false ∧ s.flag r F.icuRoute_EN = true ∧ s.flag r F.icuRoute_KIND = true then s.msix (s.fld r F.icuRoute_VECTOR)
    else s
  else s

/-- Raise an event on die `d`: its record joins the queue and its shared interrupt source makes an edge. -/
def State.raiseEv (s : State) (d : Fin 2) (cls code : Nat) (data : List (Nat × Nat)) : State :=
  let s := s.tally fun c => { c with events := c.events.set cls (c.events.get cls 0 + 1) }
  let s := s.queueEvent { cls := cls, code := code, die := d, data := data }
  match eventSource cls code with
  | .shared n => s.edge d (Fin.ofNat _ n)
  | _ => s

/-- Raise an event of a Spoke on its own die: its source is one of the Spoke's eight (R15). -/
def State.raiseSpoke (s : State) (p : Fin 8) (code : Nat) (data : List (Nat × Nat)) : State :=
  let d : Fin 2 := ⟨p.val / 4, by omega⟩
  let s := s.tally fun c => { c with events := c.events.set 3 (c.events.get 3 0 + 1) }
  let s := s.queueEvent { cls := 3, code := code, die := d, data := data }
  match eventSource 3 code with
  | .spoke o => s.edge d (Fin.ofNat _ (64 + 8 * p.val + o))
  | .shared n => s.edge d (Fin.ofNat _ n)
  | .none => s

/-- The step service enters HOLDING by itself or by a command (R401), with a cause of HUB_SVCSTAT.CAUSE. -/
def State.svcHold (s : State) (cause : Nat) : State :=
  if s.fld .hubSvcstat F.hubSvcstat_STATE ≠ 2 then s
  else
    let s := (s.setFld .hubSvcstat F.hubSvcstat_STATE 3).setFld .hubSvcstat F.hubSvcstat_CAUSE cause
    let s := s.count .hubSvccnt F.hubSvccnt_HOLDS 1
    s.raiseEv 0 7 0x30 [(4, s.fld .hubSvcstat F.hubSvcstat_STEP), (1, cause)]

end Sys2Proof.Machine
end

