-- ==== Sys2Proof/Machine/Pmu.lean ====
section
/-!
DEFINITION. Free-running counters: the PMU's programmable counters (R444) and the background-activity account (R455). None of
them changes a result.
-/

namespace Sys2Proof.Machine

/-- Add to a free-running counter field, which wraps (R442, R444). -/
def State.wrap (s : State) (r : Reg) (f : Nat × Nat) (n : Nat) : State := s.setFld r f (s.fld r f + n)

/-- Count `n` of a counter event on a cluster in the PMU counters that select it (R444). `i` is the instruction it comes
from, for an attributable event. -/
def State.pmu (s : State) (evt : Nat) (k : Fin 16) (i : Option Ins) (n : Nat) : State :=
  forAll (List.finRange 16) s fun s c =>
    let r : Reg := .pmuSel c
    let mask := s.fld r F.pmuSel_CLMASK
    let opf := s.flag r F.pmuSel_OPF
    let lyf := s.flag r F.pmuSel_LYF
    let filter := match i with
      | some i => (!opf || s.fld r F.pmuSel_OPTAG == i.tag.toNat) && (!lyf || s.fld r F.pmuSel_LAYER == i.layer.toNat)
      | none => !opf && !lyf
    if s.flag r F.pmuSel_EN && s.fld r F.pmuSel_EVT == evt && mask.testBit k.val && filter then
      s.wrap (.pmuCtr c) F.pmuCtr_COUNT n
    else s

/-- Count `n` of a die-level event: it counts when any cluster of the die is selected (R444). -/
def State.pmuDie (s : State) (evt : Nat) (d : Fin 2) (n : Nat) : State :=
  forAll (List.finRange 16) s fun s c =>
    let r : Reg := .pmuSel c
    let mask := s.fld r F.pmuSel_CLMASK / 2 ^ (8 * d.val) % 256
    if s.flag r F.pmuSel_EN && s.fld r F.pmuSel_EVT == evt && mask != 0 && !s.flag r F.pmuSel_OPF && !s.flag r F.pmuSel_LYF then
      s.wrap (.pmuCtr c) F.pmuCtr_COUNT n
    else s

/-- The die whose DRAM holds an address. -/
def dramDie (a : Nat) : Fin 2 := Fin.ofNat _ (a / 2 ^ 40)

/-- `n` DRAM bytes are read (event 0x0A) or written (event 0x0B) at an address (R444, R455). -/
def State.dramBytes (s : State) (evt a n : Nat) : State :=
  if a < 0x020000000000 then
    let s := (s.pmuDie evt (dramDie a) n).wrap .pmuBgtotDram F.pmuBgtotDram_BYTES n
    { s with obs := { s.obs with bytes := s.obs.bytes.set (dramDie a) (s.obs.bytes.get (dramDie a) 0 + n) } }
  else s

/-- DRAM bytes, fabric bytes, core time and estimated energy that the module's own work takes, by background category (R455). -/
def State.background (s : State) (c : Fin 6) (dram spk core : Nat) : State :=
  (((s.wrap (.pmuBgDram c) F.pmuBgDram_BYTES dram).wrap (.pmuBgSpk c) F.pmuBgSpk_BYTES spk).wrap (.pmuBgCore c)
    F.pmuBgCore_NS core).wrap (.pmuBgEnergy c) F.pmuBgEnergy_MJ (Config.energyEstimate c.val dram spk core)

/-- Core-nanoseconds of fast-clock cycles at full rate (R128). -/
def coreNs (clocks : Nat) : Nat := clocks * 4 / 7

end Sys2Proof.Machine
end

