-- ==== Sys2Proof/Machine/Rim.lean ====
section
/-!
DEFINITION. The Rim code (R237-R239): RS(36,32) over GF(2^8), and what a reader makes of the bits in which a stored word
differs from its codeword; and the checksums of the module: CRC-32C (R330), CRC-16 and CRC-64 where a chapter names them.
-/

namespace Sys2Proof.Machine

/-- Multiplication by α = 0x02 in GF(2^8) with the polynomial 0x11D (R237). -/
def gfX (a : Nat) : Nat := if a * 2 < 256 then a * 2 else (a * 2) ^^^ 0x11D

/-- Multiplication in GF(2^8). -/
def gfMul (a b : Nat) : Nat :=
  ((List.range 8).foldl (fun (acc : Nat × Nat) i => (if b.testBit i then acc.1 ^^^ acc.2 else acc.1, gfX acc.2)) (0, a)).1

/-- α to the power `n`. -/
def gfPow (n : Nat) : Nat := (List.range (n % 255)).foldl (fun a _ => gfX a) 1

/-- The check bytes c0-c3 of 32 data bytes: the remainder of Σ d_i x^(i+4) by g(x) (R237, R238). -/
def rimCheck (d : List Nat) : List Nat :=
  let step (c : Nat × Nat × Nat × Nat) (x : Nat) : Nat × Nat × Nat × Nat :=
    let f := c.2.2.2 ^^^ x
    (gfMul f 0x40, c.1 ^^^ gfMul f 0x78, c.2.1 ^^^ gfMul f 0x36, c.2.2.1 ^^^ gfMul f 0x0F)
  let c := d.reverse.foldl step (0, 0, 0, 0)
  [c.1, c.2.1, c.2.2.1, c.2.2.2]

/-- Symbol `i` of a 288-bit codeword: the coefficient of x^i (R238). -/
def rimSymbol (w : BitVec 288) (i : Nat) : Nat := if i < 4 then getBits w (256 + 8 * i, 8) else getBits w (8 * (i - 4), 8)

/-- Place of symbol `i` in a 288-bit codeword. -/
def rimPlace (i : Nat) : Nat := if i < 4 then 256 + 8 * i else 8 * (i - 4)

/-- Syndrome S_j of a word (R239). The code is linear: the syndromes of a word are those of its errors. -/
def rimSyndrome (w : BitVec 288) (j : Nat) : Nat :=
  (List.range 36).foldl (fun a i => a ^^^ gfMul (rimSymbol w i) (gfPow (i * j))) 0

/-- What a reader makes of a word (R239). -/
inductive RimOutcome where
  | clean
  | corrected (rest : BitVec 288)   -- with the errors that correction leaves or makes
  | uncorrectable
  deriving DecidableEq, Repr

/-- Decode the errors of a word (R239). -/
def rimDecode (e : BitVec 288) : RimOutcome :=
  let s0 := rimSyndrome e 0
  let s1 := rimSyndrome e 1
  let s2 := rimSyndrome e 2
  let s3 := rimSyndrome e 3
  if s0 = 0 ∧ s1 = 0 ∧ s2 = 0 ∧ s3 = 0 then .clean
  else if s0 ≠ 0 ∧ s1 ≠ 0 ∧ gfMul s1 s1 = gfMul s0 s2 ∧ gfMul s2 s2 = gfMul s1 s3 then
    match (List.range 36).find? (fun p => gfMul s0 (gfPow p) = s1) with
    | some p => .corrected (e ^^^ (BitVec.ofNat 288 s0 <<< rimPlace p))
    | none => .uncorrectable
  else .uncorrectable

/-- One bit of a reflected CRC. -/
def crcBit (poly a : Nat) : Nat := if a % 2 = 1 then (a / 2) ^^^ poly else a / 2

/-- One byte of a reflected CRC. -/
def crcByte (poly a : Nat) (b : Byte) : Nat := (List.range 8).foldl (fun x _ => crcBit poly x) (a ^^^ b.toNat)

/-- CRC-32C of bytes in address order (R330). -/
def crc32c (bs : List Byte) : Nat := (bs.foldl (crcByte 0x82F63B78) 0xFFFFFFFF) ^^^ 0xFFFFFFFF

/-- CRC-64 of bytes in address order (R300). -/
def crc64 (bs : List Byte) : Nat := (bs.foldl (crcByte 0xC96C5795D7870F42) (2 ^ 64 - 1)) ^^^ (2 ^ 64 - 1)

end Sys2Proof.Machine
end

