-- ==== Sys2Proof/Machine/Bus.lean ====
section
/-!
DEFINITION. Reads and writes of the module's stores, as every reader and writer makes them: the placement of DRAM words
(R233), the Rim code (R239-R241), whole and partial writes (R235, R240), what a DRAM write removes from the cluster
caches (R251), the mirror of Tandem mode (R120) and the check entries a write makes invalid (R332).
-/

namespace Sys2Proof.Machine

/-- Where a die-local DRAM address lies (R233): usable stack, pseudo-channel, bank, row. -/
def dramPlace (n a : Nat) : Nat × Nat × Nat × Nat :=
  let u := a / 256
  let g := u % (32 * n)
  let v := u / (32 * n)
  ((g % n + v) % n, (g / n) ^^^ (v % 32), v / 8 % 48, v / 384)

/-- The physical stack of usable stack `i` (R257): the i-th set bit of STKOK. -/
def physStack (ok i : Nat) : Fin 12 :=
  ((List.finRange 12).filter fun m => ok.testBit m.val).getD i 0

/-- The physical stack that holds a die-local address. -/
def State.stackOf (s : State) (d : Fin 2) (a : Nat) : Fin 12 :=
  physStack (s.fld (.memCfg d) F.memCfg_STKOK) (dramPlace (s.fld (.memCfg d) F.memCfg_NSTK) a).1

/-- The contents of the records that name a DRAM word: address, stack, pseudo-channel, bank, row. -/
def State.dramItems (s : State) (d : Fin 2) (a : Nat) : List (Nat × Nat) :=
  let q := dramPlace (s.fld (.memCfg d) F.memCfg_NSTK) a
  [(5, a), (1, (s.stackOf d a).val), (1, q.2.1), (1, q.2.2.1), (2, q.2.2.2)]

/-- Who reads or writes a word, as the memory events record it. The numbering is the model's own (log entry 9). -/
inductive User where
  | core | pump | sprocket | crank | quad | spoke | host | hub | scrub
  deriving DecidableEq, Repr

def User.code : User → Nat
  | .core => 0
  | .pump => 1
  | .sprocket => 2
  | .crank => 3
  | .quad => 4
  | .spoke => 5
  | .host => 6
  | .hub => 7
  | .scrub => 8

/-- Is this user a core, whose writes report a fault of their own (R240)? -/
def User.isCore : User → Bool
  | .core | .pump | .sprocket | .crank | .quad => true
  | _ => false

/-- The stored bits of word `w` with `e` taken out of its data: what a reader that corrects it sees. -/
def State.fixData (s : State) (w : Nat) (e : BitVec 288) : State :=
  if getBits e (0, 256) = 0 then s
  else s.putBytes (32 * w) (List.zipWith (· ^^^ ·) (s.bytes (32 * w) 32) ((toBytes 32 (getBits e (0, 256)))))

/-- The row of a die-local address. -/
def State.rowOf (s : State) (d : Fin 2) (a why : Nat) : RowJob :=
  let q := dramPlace (s.fld (.memCfg d) F.memCfg_NSTK) a
  { d := d, m := s.stackOf d a, pc := q.2.1, bank := q.2.2.1, row := q.2.2.2, why := why }

/-- Whether two jobs name the same row. -/
def RowJob.same (a b : RowJob) : Bool := a.d == b.d && a.m == b.m && a.pc == b.pc && a.bank == b.bank && a.row == b.row

/-- The Hub is to repair a row (R247), unless it waits already. A row that stands in a spare is repaired by another spare. -/
def State.wantRow (s : State) (r : RowJob) : State :=
  if s.keep.rows.any fun q => q.same r then s
  else { s with keep := { s.keep with rows := s.keep.rows ++ [r] } }

/-- A DRAM word was corrected: a row with three such words within 24 hours is to be repaired (R247). -/
def State.noteCorrected (s : State) (d : Fin 2) (a : Nat) : State :=
  let day := 24 * 3600 * 100000000
  let w := (d.val * 2 ^ 40 + a) / 32
  let l := (w, s.time) :: s.keep.corrected.filter fun q => q.1 != w && decide (s.time ≤ q.2 + day)
  let s := { s with keep := { s.keep with corrected := l } }
  let r := s.rowOf d a 1
  let inRow (q : Nat × Nat) : Bool := q.1 * 32 / 2 ^ 40 == d.val && (s.rowOf d (q.1 * 32 % 2 ^ 40) 1).same r
  if 3 ≤ (l.filter inRow).length then s.wantRow r else s

/-- A reader finds word `w` uncorrectable (R240): it is counted, logged and reported. -/
def State.uncorrectable (s : State) (u : User) (w : Nat) : State :=
  match s.place .hub (32 * w) with
  | some (.dram d a) =>
    let s := s.count (.stkUncorr d (s.stackOf d a)) F.stkUncorr_COUNT 1
    let v := putBits (putBits (putBits (s.reg (.memUelog d)) F.memUelog_ADDR a) F.memUelog_SRC (if u = .scrub then 1 else 0))
      F.memUelog_VALID 1
    let s := s.setReg (.memUelog d) v
    let s := s.wantRow (s.rowOf d a 0)
    if u = .scrub then s.raiseEv d 2 0x11 (s.dramItems d a)
    else s.raiseEv d 2 0x10 (s.dramItems d a ++ [(1, u.code)])
  | some (.scratch k a) =>
    ((s.count (.cluCcecc k) F.cluCcecc_SUE 1).wrap (.cluUerr k) F.cluUerr_DETECT 1).raiseEv (dieOfCluster k) 2 0x51 [(1, k.val), (5, a), (1, u.code)]
  | some (.cassette c a) =>
    ((s.count (.coreMecc c) F.coreMecc_UNCORR 1).wrap (.cluUerr (clusterOf c)) F.cluUerr_DETECT 1).raiseEv (dieOf c) 2 0x52 [(2, c.val), (3, a), (1, u.code)]
  | _ => s

/-- A reader takes the codeword that it finds for word `w`, which differs by `rest` from the one that was written (R239: errors in four
or more symbols may go unseen or be corrected wrongly): that is the word's data from now on, with the errors that remain beside it. -/
def State.takeWord (s : State) (w : Nat) (rest : BitVec 288) : State :=
  let v := s.rim.get w 0 ^^^ rest
  { s.fixData w rest with rim := if v = 0 then s.rim.del w else s.rim.set w v }

/-- A reader corrects word `w` (R241): it is counted, and a DRAM word is written back. -/
def State.corrected (s : State) (w : Nat) : State :=
  match s.place .hub (32 * w) with
  | some (.dram d a) =>
    let s := (s.count (.stkCorr d (s.stackOf d a)) F.stkCorr_COUNT 1).noteCorrected d a
    { s with rim := s.rim.del w }
  | some (.scratch k _) => (s.count (.cluCcecc k) F.cluCcecc_CORR 1).wrap (.cluUerr k) F.cluUerr_CORR 1
  | some (.cassette c _) => (s.count (.coreMecc c) F.coreMecc_CORR 1).wrap (.cluUerr (clusterOf c)) F.cluUerr_CORR 1
  | _ => s

/-- Read one word: the state after, and whether the word is good. -/
def State.readWord (s : State) (u : User) (w : Nat) : State × Bool :=
  if s.rim.has w = false then (s, true)
  else match rimDecode (s.rim.get w 0) with
    | .clean => (s.takeWord w (s.rim.get w 0), true)
    | .corrected rest => ((s.takeWord w rest).corrected w, true)
    | .uncorrectable => (s.uncorrectable u w, false)

/-- The words with errors among [a, a + n). -/
def State.flawed (s : State) (a n : Nat) : List Nat :=
  (s.rim.map Prod.fst).filter fun w => decide (a < 32 * w + 32 ∧ 32 * w < a + n ∧ 0 < n)

/-- Read the words with errors among [a, a + n) as `u` does: the state after, and the first uncorrectable word's address, if there
is one. -/
def State.readFlawed (s : State) (u : User) (a n : Nat) : State × Option Nat :=
  (sortBy (fun (u v : Nat) => decide (u ≤ v)) (s.flawed a n)).foldl
    (fun r w => match r.1.readWord u w with
      | (s', true) => (s', r.2)
      | (s', false) => (s', r.2.or (some (max a (32 * w))))) (s, none)

/-- Read [a, a + n) as `u` does: the state after, and the first uncorrectable word's address, if there is one. -/
def State.readRange (s : State) (u : User) (a n : Nat) : State × Option Nat := (s.dramBytes 0x0A a n).readFlawed u a n

/-- Read several ranges in order. -/
def State.readRanges (s : State) (u : User) (l : List (Nat × Nat)) : State × Option Nat :=
  l.foldl (fun r q => let x := r.1.readRange u q.1 q.2; (x.1, r.2.or x.2)) (s, none)

/-- The address of a checked block's entry, if the block lies in the checked range (R328). -/
def State.checkEntry (s : State) (a : Nat) : Option Nat :=
  let lo := s.fld .intCklo F.intCklo_ADDR * 4096
  let hi := s.fld .intCkhi F.intCkhi_ADDR * 4096
  if s.flag .intCkctl F.intCkctl_EN = true ∧ lo ≤ a ∧ a < hi then
    some (s.fld .intCkctl F.intCkctl_BASE * 4096 + 16 * ((a - lo) / 4096))
  else none

/-- Whether a write at an address is mirrored in the other die's DRAM (R120): in Tandem mode, in Yalar-0's DRAM, while the die
bridge carries it (R115). -/
def State.mirrors (s : State) (a : Nat) : Bool := s.tandem && decide (a < 0x010000000000) && !s.flag .hubBrgcnt F.hubBrgcnt_DOWN

/-- A write makes the entries of the blocks it touches invalid before its data can be seen (R332). -/
def State.uncheck (s : State) (a n : Nat) : State :=
  forAll (List.range ((a + n - 1) / 4096 + 1 - a / 4096)) s fun s i =>
    match s.checkEntry ((a / 4096 + i) * 4096) with
    | some e =>
      let b := putBits (s.byte (e + 8)) (4, 1) 0
      let s := s.putByte (e + 8) b
      if s.mirrors e then s.putByte (2 ^ 40 + e + 8) b else s
    | none => s

/-- A write of [a, a + n) overtakes the fills of a pump.cache (R251). -/
def Bg.overtake (g : Bg) (a n : Nat) : Bg :=
  match g.kind with
  | .cache ts l =>
    let lines := (List.range ((a + n - 1) / 128 + 1 - a / 128)).map fun i => 128 * (a / 128 + i)
    { g with kind := .cache ts (l ++ lines.filter fun q => decide ((l.filter fun p => p == q).length < 2)) }
  | _ => g

/-- A DRAM write removes its lines from the cluster caches of the die (R251). -/
def State.uncache (s : State) (a n : Nat) : State :=
  { s with core := { s.core with
      cache := s.core.cache.filter fun l => decide (¬ (a / 128 ≤ l.line / 128 ∧ l.line / 128 ≤ (a + n - 1) / 128))
      bg := s.core.bg.map fun g => g.overtake a n } }

/-- The partial words at the two ends of [a, a + n). -/
def partialWords (a n : Nat) : List Nat :=
  let first := if a % 32 = 0 ∧ 32 ≤ n then [] else [a / 32]
  let last := if (a + n) % 32 = 0 ∨ (a + n) / 32 = a / 32 then [] else [(a + n) / 32]
  first ++ last

/-- A partial write that meets an uncorrectable word is dropped and counted (R240), and a DRAM row in which it lies is to be repaired
(R247). -/
def State.partialDropped (s : State) (u : User) (w : Nat) : State :=
  match s.place .hub (32 * w) with
  | some (.dram d a) =>
    let s := s.count (.stkUncorr d (s.stackOf d a)) F.stkUncorr_COUNT 1
    let v := putBits (putBits (putBits (s.reg (.memUelog d)) F.memUelog_ADDR a) F.memUelog_SRC 2) F.memUelog_VALID 1
    ((s.setReg (.memUelog d) v).wantRow (s.rowOf d a 0)).raiseEv d 2 0x12 [(5, a), (1, u.code)]
  | some (.scratch k a) =>
    (s.count (.cluCcecc k) F.cluCcecc_SUE 1).raiseEv (dieOfCluster k) 2 0x51 [(1, k.val), (5, a), (1, u.code)]
  | some (.cassette c a) =>
    (s.count (.coreMecc c) F.coreMecc_UNCORR 1).raiseEv (dieOf c) 2 0x52 [(2, c.val), (3, a), (1, u.code)]
  | _ => s

/-- Put the bytes of one word, unless its part is a read-modify-write of an uncorrectable word. -/
def State.writeWord (s : State) (u : User) (a : Nat) (bs : List Byte) (whole : Bool) : State × Bool :=
  let w := a / 32
  if s.rim.has w = false then (s.putBytes a bs, true)
  else if whole then ({ s.putBytes a bs with rim := s.rim.del w }, true)
  else match rimDecode (s.rim.get w 0) with
    | .clean => ((s.takeWord w (s.rim.get w 0)).putBytes a bs, true)
    | .corrected rest => ({ ((s.takeWord w rest).corrected w).putBytes a bs with rim := s.rim.del w }, true)
    | .uncorrectable => (s.partialDropped u w, false)

/-- Cut bytes that start at `a` at word boundaries. -/
def wordPieces (a : Nat) (bs : List Byte) : List (Nat × List Byte) :=
  match bs with
  | [] => []
  | _ =>
    let h := 32 - a % 32
    (a, bs.take h) ::
      (List.range ((bs.length - h + 31) / 32)).map fun i => (a + h + 32 * i, (bs.drop (h + 32 * i)).take 32)

/-- Fold one result into the digests of both dies (R118, R340): its key and the 32 bytes of the word. -/
def State.fold (s : State) (key : Nat) (word : List Byte) : State :=
  if s.tandem then
    let d := BitVec.ofNat 64 (crc64 (toBytes 8 key ++ word))
    { s with int := { s.int with digest := s.int.digest + d, digest1 := s.int.digest1 + d } }
  else s

/-- What follows the write of a word (R120, R340): one into Yalar-0's DRAM by a core, Pump or Crank is folded into the digests, and any
is mirrored. -/
def State.wordWritten (s : State) (u : User) (a : Nat) (bs : List Byte) : State :=
  if s.tandem = false ∨ 0x010000000000 ≤ a then s
  else
    let s := if u.isCore then s.fold (a / 32 * 32) (s.bytes (a / 32 * 32) 32) else s
    if s.mirrors a then ((s.uncache (a + 2 ^ 40) bs.length).writeWord u (a + 2 ^ 40) bs (bs.length == 32)).1 else s

/-- Write bytes to the stores of the module, as `u` does: the state after, and the address of a partial word that was
dropped, if one was (R235, R240). -/
def State.writeMem (s : State) (u : User) (a : Nat) (bs : List Byte) : State × Option Nat :=
  let n := bs.length
  if n = 0 then (s, none)
  else
    let s := if a < 0x020000000000 then ((s.uncheck a n).uncache a n).dramBytes 0x0B a n else s
    let one (r : State × Option Nat) (p : Nat × List Byte) : State × Option Nat :=
      match r.1.writeWord u p.1 p.2 (p.2.length == 32) with
      | (s', true) => (s'.wordWritten u p.1 p.2, r.2)
      | (s', false) => (s', r.2.or (some p.1))
    (wordPieces a bs).foldl one (s, none)

end Sys2Proof.Machine
end

