-- ==== Sys2Proof/Machine/Observe.lean ====
section
/-!
DEFINITION. What the module observes of its own work (R442-R456): cluster activity counters, the PMU's programmable
counters, trace records and their rings, and watchpoint dumps. None of it changes a result.
-/

namespace Sys2Proof.Machine

/-- The kinds of trace record that pass through the filter (R447). -/
def traceFiltered (kind : Nat) : Bool := kind ∈ [1, 2, 3, 4, 5, 6, 7, 9, 10, 11]

/-- Whether the Pannier of a die takes records and dumps (R446, R457): EN with a SIZE, and not Yalar-1 in Tandem mode. -/
def State.pannier (s : State) (d : Fin 2) : Bool :=
  s.flag (.pmuPan d) F.pmuPan_EN && s.fld (.pmuPan d) F.pmuPan_SIZE != 0 && !(s.tandem && d == 1)

/-- Offer a trace record: discarded without counting where tracing is off (R450) or its kind or filter excludes it (R447),
dropped and counted where its source's queue is full (R449). -/
def State.traceRec (s : State) (r : TraceRec) (cluster : Option (Fin 16)) : State :=
  let f : Reg := .pmuTrFilt r.die
  let pass := !traceFiltered r.kind ||
    ((!s.flag f F.pmuTrFilt_OPF || s.fld f F.pmuTrFilt_OPTAG == r.tag.toNat) &&
     (!s.flag f F.pmuTrFilt_LYF || s.fld f F.pmuTrFilt_LAYER == r.layer.toNat) &&
     (match cluster with
      | some k => (s.fld f F.pmuTrFilt_CLMASK).testBit (k.val % 8)
      | none => true))
  if !(s.pannier r.die) || !s.flag (.pmuTrCtl r.die) F.pmuTrCtl_EN || !bit (s.reg (.pmuTrKind r.die)) r.kind || !pass then s
  else if 64 ≤ (s.obs.trace.filter fun q => q.source == r.source).length then
    let s := s.count (.pmuTrStat r.die) F.pmuTrStat_LOST 1
    { s with obs := { s.obs with lost := s.obs.lost.set r.source (s.obs.lost.get r.source 0 + 1) } }
  else { s with obs := { s.obs with trace := s.obs.trace ++ [r] } }

/-- A trace record of an instruction. -/
def State.trace (s : State) (kind : Nat) (i : Ins) (data : Nat) : State :=
  s.traceRec { die := dieOf i.x.core, source := i.x.core.val, time := s.time, kind := kind, ctx := i.x.n.val,
               unit := i.x.core.val, tag := i.tag, layer := i.layer, mbatch := i.mbatch, raise := i.raise,
               step := i.step, data := data } (some (clusterOf i.x.core))

/-- A trace record of a die's Hub. -/
def State.traceHub (s : State) (d : Fin 2) (kind unit data : Nat) : State :=
  s.traceRec { die := d, source := 256 + d.val, time := s.time, kind := kind, ctx := 0, unit := unit, tag := 0, layer := 0,
               mbatch := 0, raise := 0, step := 0, data := data } none

/-- A PSTATE record (R447): a cluster's new state and the cause: 1 idle, 2 wake cause, 3 deadline, 4 power, 5 thermal. -/
def State.tracePower (s : State) (k : Fin 16) (new cause : Nat) : State := s.traceHub (dieOfCluster k) 8 k.val (new + 8 * cause)

/-- A HAND record (R447) of a core: the first sibling that took its tiles, and the reason. -/
def State.traceHand (s : State) (c : Fin 256) (sibling reason : Nat) : State :=
  s.traceRec { die := dieOf c, source := c.val, time := s.time, kind := 10, ctx := 0, unit := c.val, tag := 0, layer := 0, mbatch := 0,
               raise := 0, step := 0, data := sibling % 256 + 256 * reason } (some (clusterOf c))

/-- A COLL record (R447): 1 JOIN sent, 2 GO held, 3 committed, 4 aborted; of the instruction that joined, if one has. -/
def State.traceColl (s : State) (c : Coll) (what : Nat) : State :=
  let data := c.ph + c.seq % 65536 * 2 ^ 14 + what * 2 ^ 30
  match c.parts with
  | p :: _ => s.trace 7 p.ins data
  | [] => s.traceRec { die := 0, source := 256, time := s.time, kind := 7, ctx := 0, unit := 0, tag := c.op.tag, layer := 0,
                       mbatch := c.op.mbatch, raise := 0, step := c.op.step, data := data } none

/-- The 32 bytes of a trace record (R447). -/
def TraceRec.bytes (r : TraceRec) : List Byte :=
  toBytes 8 r.time ++ toBytes 1 (r.kind % 64 + 64 * (r.ctx % 4)) ++ toBytes 1 r.unit ++ toBytes 2 r.tag.toNat ++
  toBytes 2 r.layer.toNat ++ toBytes 1 r.mbatch.toNat ++ toBytes 1 (r.raise % 4) ++ toBytes 4 r.step.toNat ++
  toBytes 12 r.data

/-- Write bytes as telemetry: no check entry and no digest follows them (R446). -/
def State.writeTelemetry (s : State) (a : Nat) (bs : List Byte) : State :=
  let s := if bs = [] then s else ((s.uncache a bs.length).dramBytes 0x0B a bs.length).background 4 bs.length 0 0
  (wordPieces a bs).foldl (fun s p => (s.writeWord .hub p.1 p.2 (p.2.length == 32)).1) s

/-- Place one record in a die's ring (R448): with STOP 1 a record that would overfill the ring is dropped. -/
def State.ringPut (s : State) (d : Fin 2) (bs : List Byte) : State × Bool :=
  let ring := s.fld (.pmuTrCtl d) F.pmuTrCtl_TRGIB * 2 ^ 30
  let w := s.fld (.pmuTrWp d) F.pmuTrWp_BYTES
  let used := (w + 32 + 2 ^ 64 - s.fld (.pmuTrRp d) F.pmuTrRp_BYTES) % 2 ^ 64
  if ring = 0 then (s, false)
  else if s.flag (.pmuTrCtl d) F.pmuTrCtl_STOP = true ∧ ring < used then
    ((s.setFld (.pmuTrStat d) F.pmuTrStat_FULL 1).count (.pmuTrStat d) F.pmuTrStat_LOST 1, false)
  else
    let base := s.fld (.pmuPan d) F.pmuPan_BASE * 2 ^ 30
    ((s.writeTelemetry (base + w % ring) bs).wrap (.pmuTrWp d) F.pmuTrWp_BYTES 32, true)

/-- Whether a watchpoint with these values of its CTL and ID registers matches an instruction for one kind of window (R451). -/
def watchMatch (c d : Word) (i : Ins) (what : Nat) : Bool :=
  getBits c F.pmuWpCtli_EN == 1 && getBits c F.pmuWpCtli_WHAT == what && getBits d F.pmuWpIdi_OPTAG == i.tag.toNat &&
  getBits d F.pmuWpIdi_LAYER == i.layer.toNat && getBits d F.pmuWpIdi_STEP == i.step.toNat &&
  (getBits c F.pmuWpCtli_ANYMB == 1 || getBits c F.pmuWpCtli_MBATCH == i.mbatch.toNat) &&
  (getBits c F.pmuWpCtli_OPMATCH == 0 || getBits c F.pmuWpCtli_OPMATCH == i.op)

/-- The watchpoints that are armed now. -/
def State.liveWatch (s : State) : List (Fin 16 × Word × Word) :=
  ((List.finRange 16).filter fun n => s.flag (.pmuWpCtli n) F.pmuWpCtli_EN).map fun n => (n, s.reg (.pmuWpCtli n), s.reg (.pmuWpIdi n))

/-- A tile starts on a core: the watchpoints as they stand are in force there from now on (R454). -/
def State.latchWatch (s : State) (c : Fin 256) : State := { s with obs := { s.obs with watch := s.obs.watch.set c s.liveWatch } }

/-- The watchpoints that match an instruction whose tile starts now, for one kind of window (R451, R454). -/
def State.watchers (s : State) (i : Ins) (what : Nat) : List (Fin 16) :=
  (s.liveWatch.filter fun w => watchMatch w.2.1 w.2.2 i what).map Prod.fst

/-- The watchpoints that match an instruction's window after its tiles, by the registers in force at its core's last tile start (R454). -/
def State.lateWatchers (s : State) (i : Ins) (what : Nat) : List (Fin 16) :=
  ((s.obs.watch.get i.x.core s.liveWatch).filter fun w => watchMatch w.2.1 w.2.2 i what).map Prod.fst

/-- The dump area of a die's Pannier: from the end of its ring to its own end (R446). -/
def State.dumpArea (s : State) (d : Fin 2) : Nat × Nat :=
  let b := s.fld (.pmuPan d) F.pmuPan_BASE * 2 ^ 30
  (b + s.fld (.pmuTrCtl d) F.pmuTrCtl_TRGIB * 2 ^ 30, b + s.fld (.pmuPan d) F.pmuPan_SIZE * 2 ^ 30)

/-- Append one dump to a watchpoint's area, or set TRUNC where it does not fit (R453). -/
def State.dumpOne (s : State) (n : Fin 16) (what : Nat) (i : Ins) (lmod : Nat) (d : Desc) (data : List Byte) : State :=
  let start := s.fld (.pmuWpDsti n) F.pmuWpDsti_ADDR * 64
  let at0 := s.obs.dumpAt.get n start
  let body := data ++ List.replicate ((64 - data.length % 64) % 64) 0
  let head := toBytes 4 0x504D5544 ++ toBytes 1 n.val ++ toBytes 1 what ++ toBytes 2 lmod ++ toBytes 1 i.x.core.val ++
    toBytes 1 (i.x.n.val + 4 * i.raise) ++ toBytes 1 i.mbatch.toNat ++ toBytes 1 i.op ++ toBytes 4 i.step.toNat ++
    toBytes 2 i.tag.toNat ++ toBytes 2 i.layer.toNat ++ toBytes 4 data.length ++ toBytes 8 d.d3.toNat ++
    toBytes 8 d.d4.toNat ++ toBytes 8 d.d5.toNat ++ toBytes 8 d.d6.toNat ++ toBytes 8 s.time
  let len := 64 + body.length
  let lim := s.fld (.pmuWpLimi n) F.pmuWpLimi_LIMKIB * 1024
  let maxd := s.fld (.pmuWpLimi n) F.pmuWpLimi_MAXD
  let inside (e : Fin 2) : Bool := s.pannier e && decide ((s.dumpArea e).1 ≤ at0 ∧ at0 + len ≤ (s.dumpArea e).2)
  let dumps := s.fld (.pmuWpStati n) F.pmuWpStati_DUMPS
  if at0 + len > start + lim ∨ (maxd ≠ 0 ∧ maxd ≤ dumps) ∨ (inside 0 || inside 1) = false then
    s.setFld (.pmuWpStati n) F.pmuWpStati_TRUNC 1
  else
    let s := s.writeTelemetry at0 (head ++ body)
    let s := { s with obs := { s.obs with dumpAt := s.obs.dumpAt.set n (at0 + len) } }
    let s := s.count (.pmuWpStati n) F.pmuWpStati_DUMPS 1
    let s := s.setFld (.pmuWpStati n) F.pmuWpStati_KIB (min ((at0 + len - start + 1023) / 1024) (2 ^ 32 - 1))
    s.trace 11 i (n.val + 16 * (at0 % 2 ^ 48))

/-- Dump a window for each of the watchpoints that match an instruction (R452). In Tandem mode Yalar-1 dumps nothing (R446). -/
def State.dump (s : State) (w : List (Fin 16)) (what : Nat) (i : Ins) (lmod : Nat) (d : Desc) (data : List Byte) : State :=
  if s.tandem && dieOf i.x.core == 1 then s
  else forAll w s fun s n => s.dumpOne n what i lmod d data

end Sys2Proof.Machine
end

