-- ==== Sys2Proof/Machine/Ops.lean ====
section
/-!
DEFINITION. The named operations over contexts, registers, cleats and addresses that the instructions share: issuing an
instruction (R134, R154), taking a fault (R155-R158), taking the first-NaN trap (R87), checking an address (R3, R10-R12,
R154), adding to a cleat (R198, R202), sending a request into the fabric (R274).
-/

namespace Sys2Proof.Machine

/-! ## Contexts -/

/-- A context's state (R126). -/
def State.ctx (s : State) (x : CtxId) : Ctx := s.core.ctxs.get x Ctx.reset

/-- Set a context's state. -/
def State.setCtx (s : State) (x : CtxId) (c : Ctx) : State :=
  { s with core := { s.core with ctxs := s.core.ctxs.set x c } }

/-- Scalar register `r`; s0 reads 0 (R127). -/
def State.sreg (s : State) (x : CtxId) (r : R5) : Word := if r = 0 then 0 else (s.ctx x).sreg.get r 0

/-- Write a scalar register; a write to s0 is discarded (R127). -/
def State.setSreg (s : State) (x : CtxId) (r : R5) (v : Word) : State :=
  if r = 0 then s else s.setCtx x { s.ctx x with sreg := (s.ctx x).sreg.set r v }

/-- Predicate `p`; p0 reads 1 (R127). -/
def State.pred (s : State) (x : CtxId) (p : Fin 8) : Bool := if p = 0 then true else (s.ctx x).pred.get p false

/-- Write a predicate; a write to p0 is discarded (R127). -/
def State.setPred (s : State) (x : CtxId) (p : Fin 8) (v : Bool) : State :=
  if p = 0 then s else s.setCtx x { s.ctx x with pred := (s.ctx x).pred.set p v }

/-- Tile descriptor `t`. -/
def State.tile (s : State) (x : CtxId) (t : T4) : Desc := (s.ctx x).tile.get t Desc.zero

/-- Write a tile descriptor. -/
def State.setTile (s : State) (x : CtxId) (t : T4) (d : Desc) : State :=
  s.setCtx x { s.ctx x with tile := (s.ctx x).tile.set t d }

/-- A context's state number in CLUk_COREj_SQSTAT (R124). -/
def State.ctxState (s : State) (x : CtxId) : Nat := s.fld (.coreSqstat x.core) (4 * x.n.val, 4)

/-- Whether a context's tiles are moved to siblings (R122). -/
def State.isMoved (s : State) (x : CtxId) : Bool := s.moved.any fun m => m.x == x

/-- Whether a context's moved tiles still wait for a sibling (R122). -/
def State.waitsSibling (s : State) (x : CtxId) : Bool := s.moved.any fun m => m.x == x && m.dest.isNone

/-- Set a context's state number. A context whose tiles run on a sibling shows 5 while it runs (R122). -/
def State.setCtxState (s : State) (x : CtxId) (v : Nat) : State :=
  s.setFld (.coreSqstat x.core) (4 * x.n.val, 4) (if v = 1 ∧ s.isMoved x = true then 5 else v)

/-- The program counter of a context. -/
def State.pc (s : State) (x : CtxId) : Nat := s.fld (.ctxPc x.core x.n) F.ctxPc_PC

/-- Set the program counter of a context. -/
def State.setPc (s : State) (x : CtxId) (v : Nat) : State := s.setFld (.ctxPc x.core x.n) F.ctxPc_PC v

/-- Set what a context waits for. -/
def State.setWait (s : State) (x : CtxId) (w : Option Wait) : State := s.setCtx x { s.ctx x with wait := w }

/-- The privilege of a context (R153). -/
def State.privOf (s : State) (x : CtxId) : Priv :=
  if s.fld (.ctxCfg x.core x.n) F.ctxCfg_PRIV = 1 then .driver else .job

/-- The power state of a cluster: 0 P0, 1 P1, 2 P2, 3 waking, 4 off by fence (CLUk_DRLSTAT). -/
def State.pstate (s : State) (k : Fin 16) : Nat := s.fld (.cluDrlstat k) F.cluDrlstat_PSTATE

/-- A core accepts work when its CSTAT.USABLE is 1 (R121) and its cluster runs (R14). -/
def State.coreRuns (s : State) (c : Fin 256) : Bool :=
  s.flag (.coreCstat c) F.coreCstat_USABLE && s.pstate (clusterOf c) == 0

/-- Whether the core that runs a context's tiles accepts work: its own, or the sibling's that took them (R122). -/
def State.ctxRuns (s : State) (x : CtxId) : Bool :=
  match s.moved.find? fun m => m.x == x with
  | some m => match m.dest with
    | some y => s.coreRuns y.core
    | none => false
  | none => s.coreRuns x.core

/-- The step number of a context (R128). -/
def State.stepOf (s : State) (x : CtxId) : Word := s.reg (.ctxStep x.core x.n)

/-- Whether an address lies in an enabled window of a core's PWINi with EXEC set (R154). -/
def State.execWindow (s : State) (c : Fin 256) (a : Nat) : Bool :=
  (List.finRange 8).any fun i =>
    let r : Reg := .pwin c i
    let b := s.fld r F.pwin_BASE * 2 ^ 26
    s.flag r F.pwin_EN && s.flag r F.pwin_EXEC && decide (b ≤ a ∧ a < b + s.fld r F.pwin_SIZE * 2 ^ 26)

/-- Whether a word of code may be fetched at an address: in an EXEC window, in memory that exists (R134, R154). -/
def State.mayFetch (s : State) (x : CtxId) (a : Nat) : Bool := s.execWindow x.core a && (s.place (s.privOf x) a).isSome

/-- Whether an address may hold an instruction: a multiple of 8 where code may be fetched (R134, R154). -/
def State.fetchOk (s : State) (x : CtxId) (a : Nat) : Bool := a % 8 == 0 && s.mayFetch x a

/-- The instruction that a context issues now. -/
def State.ins (s : State) (x : CtxId) (op words : Nat) (tag : OpTag) : Ins :=
  { x := x, op := op, words := words, tag := tag, iaddr := s.pc x, layer := (s.ctx x).layer, mbatch := (s.ctx x).mbatch,
    step := (s.stepOf x).truncate 32,
    raise := match (s.ctx x).bracket with
      | some b => b.raise
      | none => 0 }

/-- The PC moves past the instruction's words and its context runs on. -/
def State.advance (s : State) (i : Ins) : State :=
  ((s.setPc i.x (i.iaddr + 8 * i.words)).setCtxState i.x 1).setWait i.x none

/-- The instruction does not issue yet: its context waits for a unit and issues it again (state 3). -/
def State.stall (s : State) (i : Ins) : State := (s.setCtxState i.x 3).setWait i.x (some .unit)

/-! ## Faults and the first-NaN trap -/

/-- A fault: its code and DETAIL (R155), the value of CTXn_FLT2 and the descriptor it names. -/
structure Flt where
  code : Nat
  detail : Nat
  value : Nat
  treg : Nat
  deriving DecidableEq, Repr

/-- Illegal instruction (R136). -/
def Flt.illegal : Flt := ⟨1, 0, 0, 0⟩
/-- Privilege fault (R153). -/
def Flt.privilege : Flt := ⟨2, 0, 0, 0⟩
/-- Operand fault with the number of a descriptor check, or 0 (R133). -/
def Flt.operand (detail : Nat) (t : T4) : Flt := ⟨3, detail, 0, t.val⟩
/-- Placement fault (R151, R152). -/
def Flt.placement (detail : Nat) : Flt := ⟨4, detail, 0, 0⟩
/-- No fault: an access that would cross a stopped die bridge never completes (R115). Every fault comes before it. -/
def Flt.cut : Flt := ⟨15, 0, 0, 0⟩
/-- Alignment fault at an address. -/
def Flt.align (a : Nat) : Flt := ⟨5, 0, a, 0⟩
/-- Address fault at an address. -/
def Flt.addr (a : Nat) : Flt := ⟨6, 0, a, 0⟩
/-- Data fault at an address. -/
def Flt.data (a : Nat) : Flt := ⟨7, 0, a, 0⟩
/-- Software fault (R139). -/
def Flt.software (v : Nat) : Flt := ⟨8, 0, v, 0⟩

/-- Name the descriptor of a fault. -/
def Flt.of (f : Flt) (t : T4) : Flt := { f with treg := t.val }

/-- Write CTXn_FLT0-FLT3 (R156); a record that was valid is overwritten and LOST is set (R158). -/
def State.faultRecord (s : State) (x : CtxId) (f : Flt) (op : Nat) (tag : OpTag) (layer : BitVec 16) (mbatch : BitVec 8)
    (iaddr : Nat) (async : Bool) : State :=
  let lost := s.flag (.ctxFlt0 x.core x.n) F.ctxFlt0_VALID || s.flag (.ctxFlt0 x.core x.n) F.ctxFlt0_LOST
  let v : Word := BitVec.ofNat 64 (f.code % 16 + f.detail % 16 * 2 ^ 4 + op % 256 * 2 ^ 8 + tag.toNat * 2 ^ 16 +
    layer.toNat * 2 ^ 32 + mbatch.toNat * 2 ^ 48 + b2n async * 2 ^ 61 + b2n lost * 2 ^ 62 + 2 ^ 63)
  let s := s.setReg (.ctxFlt0 x.core x.n) v
  let s := s.setReg (.ctxFlt1 x.core x.n) (BitVec.ofNat 64 iaddr)
  let s := s.setReg (.ctxFlt2 x.core x.n) (BitVec.ofNat 64 f.value)
  s.setReg (.ctxFlt3 x.core x.n) (BitVec.ofNat 64 ((s.stepOf x).toNat % 2 ^ 32 + f.treg % 16 * 2 ^ 32))

/-- The contents of event 0x04:0x0040: core, context, CTXn_FLT0-FLT3 (R169). -/
def State.faultItems (s : State) (x : CtxId) : List (Nat × Nat) :=
  [(2, x.core.val), (1, x.n.val), (8, (s.reg (.ctxFlt0 x.core x.n)).toNat), (8, (s.reg (.ctxFlt1 x.core x.n)).toNat),
   (8, (s.reg (.ctxFlt2 x.core x.n)).toNat), (8, (s.reg (.ctxFlt3 x.core x.n)).toNat)]

/-- A context halts at a fault (R156): its record is written, its state is 4, and its cluster counts the fault. -/
def State.halted (s : State) (x : CtxId) (f : Flt) (op : Nat) (tag : OpTag) (layer : BitVec 16) (mbatch : BitVec 8)
    (iaddr : Nat) (async : Bool) : State :=
  let s := s.faultRecord x f op tag layer mbatch iaddr async
  let s := (s.setCtxState x 4).setCtx x { s.ctx x with wait := none, why := 1 }
  s.wrap (.cluUerr (clusterOf x.core)) F.cluUerr_FAULTS 1

/-- A context faults (R156): it halts with its record written, source 129 asserted and event 0x04:0x0040 raised. -/
def State.haltFault (s : State) (x : CtxId) (f : Flt) (op : Nat) (tag : OpTag) (layer : BitVec 16) (mbatch : BitVec 8)
    (iaddr : Nat) (async : Bool) : State :=
  let s := s.halted x f op tag layer mbatch iaddr async
  let s := s.trace 9 { x := x, op := op, words := 1, tag := tag, iaddr := iaddr, layer := layer, mbatch := mbatch,
                       step := (s.stepOf x).truncate 32, raise := 0 } (f.code + 16 * f.detail)
  s.raiseEv (dieOf x.core) 4 0x40 (s.faultItems x)

/-- A precise fault of an instruction: it writes nothing and the PC stays at it (R156). An instruction that a stopped die bridge
cuts off from an operand does not fault: it waits. -/
def State.fault (s : State) (i : Ins) (f : Flt) : State :=
  if f.code = 15 then s.stall i else (s.setPc i.x i.iaddr).haltFault i.x f i.op i.tag i.layer i.mbatch i.iaddr false

/-- The first-NaN trap (R87, R91): the record is written, ARM is cleared, TRAPPED set, and the context halts at the
instruction with nothing written. -/
def State.nanTrap (s : State) (i : Ins) (a : NanAt) : State :=
  let c := i.x.core
  let n := i.x.n
  let lost := s.flag (.fnrec2 c n) F.fnrec2_VALID
  let s := s.setReg (.fnrec0 c n) (BitVec.ofNat 64 (i.tag.toNat + i.layer.toNat * 2 ^ 16 + i.step.toNat * 2 ^ 32))
  let s := s.setReg (.fnrec1 c n) (BitVec.ofNat 64 (i.iaddr % 2 ^ 48 + i.mbatch.toNat * 2 ^ 48 + n.val * 2 ^ 56))
  let s := s.setReg (.fnrec2 c n) (BitVec.ofNat 64 (a.elem % 2 ^ 40 + a.opnd % 4 * 2 ^ 40 + b2n a.produced * 2 ^ 42 + 2 ^ 63))
  let s := s.setReg (.fnrec3 c n) (BitVec.ofNat 64 (a.tid % 2 ^ 24 + a.fmt % 16 * 2 ^ 24))
  let s := s.setFld (.fnan c n) F.fnan_ARM 0
  let s := s.setFld (.fnan c n) F.fnan_TRAPPED 1
  let s := if lost then s.setFld (.fnan c n) F.fnan_LOST 1 else s
  let s := ((s.setPc i.x i.iaddr).setCtxState i.x 4).setCtx i.x { s.ctx i.x with wait := none, why := 2 }
  let s := (s.wrap (.cluUerr (clusterOf c)) F.cluUerr_TRAPS 1).tally fun q => { q with traps := q.traps + 1 }
  let s := s.trace 9 i (2 ^ 8)
  s.raiseEv (dieOf c) 5 1 [(8, (s.reg (.fnrec0 c n)).toNat), (8, (s.reg (.fnrec1 c n)).toNat),
    (8, (s.reg (.fnrec2 c n)).toNat), (8, (s.reg (.fnrec3 c n)).toNat), (2, c.val)]

/-! ## Issuing an instruction -/

/-- A context issues nothing further where it is: its RESET waits for instructions that have started (R159), or its core is handed over
and its tile in progress has not ended (R122). -/
def State.held (s : State) (x : CtxId) : Bool := !s.isMoved x && ((s.ctx x).owed == 6 || s.core.handAsked.has x.core)

/-- A context can issue: the core that runs its tiles runs, and it is running or waits only to issue the same instruction
again (R102). -/
def State.canIssue (s : State) (x : CtxId) : Bool :=
  s.ctxRuns x && !s.held x &&
  (s.ctxState x == 1 || s.ctxState x == 5 || (s.ctxState x == 3 && (s.ctx x).wait == some .unit))

/-- The primary Hub's die (R425). -/
def State.primDie (s : State) : Fin 2 := Fin.ofNat _ (s.fld .hubFwstat F.hubFwstat_PRIMDIE)

/-- The phase of bring-up (CLK_BRSTAT): 3 is full service. -/
def State.phase (s : State) : Nat := s.fld .clkBrstat F.clkBrstat_PHASE

/-- The opcodes that Kickstand service refuses (R375): acc.st, acc.cvt, bp.gw, crank.upd, mma.rs and xd.comb. -/
def kickOp (op : Nat) : Bool := op == 0x89 || op == 0x8A || op == 0xB0 || op == 0xB8 || decide (0xC0 ≤ op ∧ op ≤ 0xC7) || op == 0xD1

/-- A refusal of Kickstand service (R375): 0 a START, 1 an OPEN, 2 an instruction. Its event comes at most once per second. -/
def State.kickRefuse (s : State) (kind core : Nat) : State :=
  let k := s.pow.kick
  let k := (k.1 + b2n (kind == 0), k.2.1 + b2n (kind == 1), k.2.2 + b2n (kind == 2))
  let first := s.pow.kickCore.getD core
  let s := s.setFld .clkBrstat F.clkBrstat_KSREJ 1
  let due := match s.pow.kickAt with
    | none => true
    | some t => decide (t + 100000000 ≤ s.time)
  if due then
    ({ s with pow := { s.pow with kick := (0, 0, 0), kickCore := none, kickAt := some s.time } }).raiseEv 0 1 0x60
      [(4, k.1), (4, k.2.1), (4, k.2.2), (2, first)]
  else { s with pow := { s.pow with kick := k, kickCore := some first } }

/-- Fetch the words of an instruction: an alignment fault at an address that is not a multiple of 8 (R3), an address fault at the
first word that may not be fetched (R154), and a data fault at a word that the Rim code cannot correct (R155). -/
def State.fetch (s : State) (x : CtxId) (a words : Nat) : State × Option Flt :=
  if a % 8 ≠ 0 then (s, some (.align a))
  else match (List.range words).find? fun k => !s.mayFetch x (a + 8 * k) with
    | some k => (s, some (.addr (a + 8 * k)))
    | none => match s.readFlawed .core a (8 * words) with
      | (s, some p) => (s, some (.data p))
      | (s, none) => (s, none)

/-- Issue one instruction of a context (R134, R136, R154): not while the context cannot issue; a fault where its words cannot be
fetched; an illegal-instruction fault for a reserved bit or an illegal field, whatever the guard; nothing but the PC's advance
when the guard is 0; an operand fault of what Kickstand service refuses (R375); otherwise its effect. -/
def State.issue (s : State) (a : At) (op words : Nat) (tag : OpTag) (bad : Bool) (body : Ins → State → State) : State :=
  let x : CtxId := ⟨a.core, a.n⟩
  if s.canIssue x = false then s
  else
    let i := s.ins x op words tag
    match s.fetch x i.iaddr words with
    | (s, some e) => s.fault i e
    | (s, none) =>
      if a.rsv || bad then s.fault i .illegal
      else if (s.pred x a.gp ^^ a.gn) = false then s.advance i
      else if kickOp op = true ∧ s.phase ≠ 3 then (s.kickRefuse 2 x.core.val).fault i (.operand 0 0)
      else body i s

/-- Run one instruction of a context as a command. -/
def execIns (a : At) (op words : Nat) (tag : OpTag) (bad : Bool) (body : Ins → State → State) (s : State) :
    Host.Outcome State Fault Refusal :=
  runs s fun s => s.issue a op words tag bad body

/-! ## Cleats -/

/-- A cleat's value as a register read shows it: with its held adds while the cluster's clock stands (R362). -/
def State.cleat (s : State) (c : Fin 256) (n : Cleat) : Word :=
  s.core.heldAdds.foldl (fun v h => if h.1 = c ∧ h.2.1 = n then v + h.2.2 else v) (s.reg (.clt c n))

/-- Add to a cleat (R198, R202). While the cluster is in Freewheel or waking, the add is held (R362); in P2 it goes into
the shadow (R366). -/
def State.addCleat (s : State) (c : Fin 256) (n : Cleat) (v : Word) : State :=
  let p := s.pstate (clusterOf c)
  if p = 1 ∨ p = 3 then { s with core := { s.core with heldAdds := s.core.heldAdds ++ [(c, n, v)] } }
  else s.setReg (.clt c n) (s.reg (.clt c n) + v)

/-- Whether an instruction of a context may name cleats `n` to `n + len - 1` of its core (R198). -/
def State.cleatOk (s : State) (x : CtxId) (n len : Nat) : Bool :=
  decide (n + len ≤ 256) &&
  (s.privOf x != .job ||
   (decide (s.fld (.clr x.core x.n) F.clr_BASE ≤ n) &&
    decide (n + len ≤ s.fld (.clr x.core x.n) F.clr_BASE + s.fld (.clr x.core x.n) F.clr_COUNT)))

/-- The condition of cl.wait (R199). -/
def waitHolds (v base imm : Word) : Bool := imm.sle (v - base)

/-! ## Global addresses -/

/-- Where a global address leads (R11). -/
inductive Target where
  | here (a : Nat)
  | remote (lmn a : Nat)
  | multicast (handle a : Nat)
  deriving DecidableEq, Repr

/-- The logical module number of this module (R279). -/
def State.lmn (s : State) : Nat :=
  64 * s.fld .spkmCoord F.spkmCoord_W + 16 * s.fld .spkmCoord F.spkmCoord_Z + 4 * s.fld .spkmCoord F.spkmCoord_Y +
  s.fld .spkmCoord F.spkmCoord_X

/-- Whether a logical module number lies in the job's block (R281). -/
def State.inBlock (s : State) (m : Nat) : Bool :=
  (s.fld .spkmBlk F.spkmBlk_XMASK).testBit (m % 4) && (s.fld .spkmBlk F.spkmBlk_YMASK).testBit (m / 4 % 4) &&
  (s.fld .spkmBlk F.spkmBlk_ZMASK).testBit (m / 16 % 4) &&
  decide (s.fld .spkmBlk F.spkmBlk_WBASE ≤ m / 64 ∧
    m / 64 < s.fld .spkmBlk F.spkmBlk_WBASE + s.fld .spkmBlk F.spkmBlk_WCOUNT)

/-- Whether a peloton handle is open at this module (R297). -/
def State.openHandle (s : State) (h : Nat) : Bool := s.plt.pelotons.any fun p => p.handle == h

/-- Where a global address leads; none is an address fault at the issuing core (R12). -/
def State.target (s : State) (g : Word) : Option Target :=
  let kind := g.toNat / 2 ^ 62
  let m := g.toNat / 2 ^ 48 % 2 ^ 14
  let a := g.toNat % 2 ^ 48
  if kind = 0 then (if m = 0 then some (.here a) else none)
  else if kind = 1 then (if m < 8256 ∧ s.inBlock m = true then some (.remote m a) else none)
  else if kind = 2 then (if s.openHandle m = true then some (.multicast m a) else none)
  else none

/-- Points of [a, a + n) that show whether all of it may be accessed: every region and window has bounds at multiples of
2 MiB. -/
def probes (a n : Nat) : List Nat :=
  if n = 0 then []
  else a :: (List.range ((a + n - 1) / 2 ^ 21 - a / 2 ^ 21)).map (fun i => (a / 2 ^ 21 + i + 1) * 2 ^ 21) ++ [a + n - 1]

/-- Whether a local address lies in a Pannier (R446). -/
def State.inPannier (s : State) (a : Nat) : Bool :=
  (List.finRange 2).any fun d =>
    let b := s.fld (.pmuPan d) F.pmuPan_BASE * 2 ^ 30
    s.pannier d && decide (b ≤ a ∧ a < b + s.fld (.pmuPan d) F.pmuPan_SIZE * 2 ^ 30)

/-- Whether the windows of a core allow its privilege-2 contexts to access an address (R154). -/
def State.windowOk (s : State) (c : Fin 256) (a : Nat) (write : Bool) : Bool :=
  (List.finRange 8).any fun i =>
    let r : Reg := .pwin c i
    let b := s.fld r F.pwin_BASE * 2 ^ 26
    s.flag r F.pwin_EN && decide (b ≤ a ∧ a < b + s.fld r F.pwin_SIZE * 2 ^ 26) &&
    (!write || (s.flag r F.pwin_WR && !s.flag r F.pwin_EXEC))

/-- Whether a context may access a local address of some module (R154, R446): its own Cassette, the control window, or a
window that allows it; a privilege-1 context is not limited. -/
def State.allowed (s : State) (x : CtxId) (a : Nat) (write : Bool) : Bool :=
  s.privOf x != .job ||
  (!s.inPannier a &&
   (decide (cassetteBase x.core ≤ a ∧ a < cassetteBase x.core + 2 ^ 21) || decide (0xFF0000000000 ≤ a ∧ a < 0xFF0040000000) ||
    s.windowOk x.core a write))

/-- Whether a local address exists for an access of a privilege; the stores of a cluster in P2 do not (R366). -/
def State.populated (s : State) (p : Priv) (a : Nat) : Bool :=
  match s.place p a with
  | some (.cassette c _) => s.pstate (clusterOf c) != 2 && s.pstate (clusterOf c) != 4
  | some (.scratch k _) => s.pstate k != 2 && s.pstate k != 4
  | some _ => true
  | none => false

/-- Whether a register is one of a die's cluster, MEM or SPKn registers. -/
def Reg.onDie (r : Reg) (d : Fin 2) : Bool :=
  let o := r.offset
  (decide (0x10000000 ≤ o ∧ o < 0x20000000) && (o - 0x10000000) / 0x08000000 == d.val) ||
  (decide (0x05000000 ≤ o ∧ o < 0x07000000) && (o - 0x05000000) / 0x01000000 == d.val) ||
  (decide (0x08000000 ≤ o ∧ o < 0x08800000) && (o - 0x08000000) / 0x00400000 == d.val)

/-- Whether reaching a local address from a die needs the die bridge: DRAM, scratch, Cassette or a register of the other die. -/
def crosses (d : Fin 2) (a : Nat) : Bool :=
  if a < 0x020000000000 then dramDie a != d
  else if 0xE00000000000 ≤ a ∧ a < 0xE00000000000 + 16 * 0x03000000 then
    dieOfCluster (Fin.ofNat _ ((a - 0xE00000000000) / 0x03000000)) != d
  else if 0xF00000000000 ≤ a ∧ a < 0xF00000000000 + 256 * 0x400000 then dieOf (Fin.ofNat _ ((a - 0xF00000000000) / 0x400000)) != d
  else if 0xFF0000000000 ≤ a ∧ a < 0xFF0040000000 then
    match Reg.ofOffset ((a - 0xFF0000000000) / 8 * 8) with
    | some r => r.onDie (1 - d)
    | none => false
  else false

/-- Whether the die bridge has stopped and an access of a die to this module's memory needs it: no traffic crosses it (R115). -/
def State.bridgeCut (s : State) (d : Fin 2) (t : Target) : Bool :=
  s.flag .hubBrgcnt F.hubBrgcnt_DOWN && match t with
    | .here a => crosses d a
    | .remote m a => m == s.lmn && crosses d a
    | .multicast _ a => crosses d a

/-- Whether all of [a, a + n) may be accessed by a context at a local or remote target: the first address that may not. -/
def State.spanFault (s : State) (x : CtxId) (t : Target) (n : Nat) (write : Bool) : Option Nat :=
  match t with
  | .here a => (probes a n).find? fun q => !(s.allowed x q write && s.populated (s.privOf x) q)
  | .remote _ a => (probes a n).find? fun q => !s.allowed x q write
  | .multicast _ a => (probes a n).find? fun q => !s.allowed x q write

/-- Check a scalar access of `n` bytes at a global address: alignment (R3), then the address (R4, R10, R12, R154), then whether it can
cross the die bridge (R115). -/
def State.checkAccess (s : State) (x : CtxId) (g : Word) (n : Nat) (write : Bool) : Except Flt Target :=
  if g.toNat % n ≠ 0 then .error (.align g.toNat)
  else match s.target g with
    | none => .error (.addr g.toNat)
    | some t =>
      match s.spanFault x t n write with
      | some _ => .error (.addr g.toNat)
      | none =>
        if g.toNat % 2 ^ 48 / 2 ^ 30 = 0xFF0000000000 / 2 ^ 30 ∧ n < 4 then .error (.addr g.toNat)
        else if s.bridgeCut (dieOf x.core) t then .error .cut
        else .ok t

/-! ## Requests into the fabric -/

/-- A packet as its sender fills it in (R266). -/
def State.packet (s : State) (typ vc dst addr : Nat) (payload : List Byte) : Packet :=
  { vc := vc, dlc := false, phase := false, typ := typ, len := payload.length, gtag := 0, mc := false, sh := false,
    direct := false, lock := false, dir := false, relayed := false, rsv := false, dst := dst, src := s.lmn, addr := addr,
    fctx := 0, optag := 0, tag := 0, hops := 0, tspec := 0, payload := payload, entry := none }

/-- The Hub's fabric context (R290). -/
def hubFctx : Nat := 12288

/-- Fold the data payload of a packet that a die's cores send into the Tandem digest, word by word (R340). -/
def State.foldSend (s : State) (p : Packet) : State :=
  if s.tandem = true ∧ p.typ ∈ [0x01, 0x02, 0x0B, 0x0C] ∧ p.fctx < 12288 then
    forAll (List.range ((p.payload.length + 31) / 32)) s fun s i =>
      let w := (p.payload.drop (32 * i)).take 32
      s.fold (2 ^ 63 + p.dst * 2 ^ 48 + p.addr + 32 * i) (w ++ List.replicate (32 - w.length) 0)
  else s

/-- Put a packet at the module's injection queue. -/
def State.send (s : State) (p : Packet) : State :=
  let s := s.foldSend p
  { s with fab := { s.fab with inject := s.fab.inject ++ [p] } }

/-- Timed-out tags that are not used again yet (R275). -/
def State.cooling (s : State) : List (Nat × Nat) := s.fab.cooling.filter fun c => decide (s.time < c.2)

/-- The next response tag that is neither outstanding nor cooling (R274, R275). -/
def State.freeTag (s : State) : Nat :=
  let busy (t : Nat) : Bool := (s.fab.reqs.any fun r => r.tag == t) || s.cooling.any fun c => c.1 == t
  ((List.range (s.fab.reqs.length + s.cooling.length + 1)).map fun i => (s.fab.nextTag + i) % 65536).find?
    (fun t => !busy t) |>.getD 0

/-- Response tags that are free (R274: an issuing unit that finds none waits). -/
def State.freeTags (s : State) : Nat := 65536 - (s.fab.reqs.length + s.cooling.length)

/-- Whether a response tag is free. -/
def State.tagFree (s : State) : Bool := s.freeTags != 0

/-! ## Fields of a descriptor (R131) -/

def Desc.lrows (d : Desc) : Nat := getBits d.d3 (0, 32)
def Desc.lcols (d : Desc) : Nat := getBits d.d3 (32, 32)
def Desc.rowoff (d : Desc) : Nat := getBits d.d4 (0, 32)
def Desc.coloff (d : Desc) : Nat := getBits d.d4 (32, 32)
def Desc.rows (d : Desc) : Nat := getBits d.d5 (0, 16)
def Desc.cols (d : Desc) : Nat := getBits d.d5 (16, 16)
def Desc.pitch (d : Desc) : Nat := getBits d.d5 (32, 24)
def Desc.floor (d : Desc) : Nat := getBits d.d5 (56, 8)
def Desc.tid (d : Desc) : Nat := getBits d.d6 (0, 24)
def Desc.fmt (d : Desc) : Nat := getBits d.d6 (24, 4)
def Desc.smode (d : Desc) : Nat := getBits d.d6 (28, 2)
def Desc.tr (d : Desc) : Bool := bit d.d6 30
def Desc.spitch (d : Desc) : Nat := getBits d.d6 (32, 24)
def Desc.rlog (d : Desc) : Nat := getBits d.d7 (0, 6)

/-! ## Collective packets and fabric contexts -/

/-- The peloton handle of a collective packet (R303). -/
def Packet.ph (k : Packet) : Nat := k.addr % 2 ^ 14

/-- The sequence number of a collective packet. -/
def Packet.seq (k : Packet) : Nat := k.addr / 2 ^ 14 % 2 ^ 16

/-- The layout epoch of a collective packet. -/
def Packet.epoch (k : Packet) : Nat := k.addr / 2 ^ 30 % 256

/-- Whether a packet carries collective `c`'s key. -/
def Packet.ofColl (k : Packet) (c : Coll) : Bool := k.ph == c.ph && k.seq == c.seq && k.epoch == c.epoch

/-- The block number of an output block (R298). -/
def blockOf (t : Desc) : Nat := t.rowoff / 32 * ((t.lcols + 31) / 32) + t.coloff / 32

/-- Whether a packet is a sum record of a collective with chunks of block `b` (R47). -/
def Packet.sumsOf (k : Packet) (c : Coll) (b : Nat) : Bool :=
  let first := ofBytes (k.payload.take 4)
  k.typ == 0x0A && k.ofColl c && decide (first < 32 * b + 32 ∧ 32 * b < first + (k.payload.getD 4 0).toNat % 64)

/-- Records of a block have not left the module (R305): they wait for GO or for the router, or stand in a slot of it. -/
def State.sumsLeft (s : State) (c : Coll) (p : Part) : Bool :=
  let b := blockOf p.tc
  let mine (k : Packet) : Bool := k.src == s.lmn && k.sumsOf c b
  decide (p.ins.op < 0xC8) && (c.waiting.any mine || s.fab.inject.any mine || (s.fab.ejected.any fun q => q.1.isNone && mine q.2) ||
    (s.fab.spill.any fun q => mine q.pkt) ||
    s.plt.slots.any fun r => r.ph == c.ph && r.seq == c.seq && r.epoch == c.epoch && r.chunks.any fun q => q.1 / 32 == b)

/-- A part of a collective is not complete here: an mma.rs also waits for its records to leave (R305). -/
def State.partOpen (s : State) (c : Coll) (p : Part) : Bool := !p.done || s.sumsLeft c p

/-- No fabric context. -/
def noFctx : Nat := 16384

/-- The fabric contexts that transfers, fused instructions and requests hold (R290). -/
def State.fctxHeld (s : State) : List Nat :=
  ((s.fab.reqs.map Req.fctx ++ s.core.bg.map Bg.fctx ++
    (s.plt.colls.flatMap fun c => (c.parts.filter fun p => s.partOpen c p).map Part.fctx)).filter fun f => f != noFctx).eraseDups

/-- A free fabric context of a core for a background transfer or a fused instruction (R290). -/
def State.freeFctx (s : State) (c : Fin 256) : Option Nat :=
  ((List.range 47).map fun i => 48 * c.val + i).find? fun f => !s.fctxHeld.contains f

/-- Show the fabric contexts in use in SPK_FCSTAT. -/
def State.showFctx (s : State) : State :=
  let n := s.fctxHeld.length
  let s := s.setFld .spkmFcstat F.spkmFcstat_INUSE n
  s.setFld .spkmFcstat F.spkmFcstat_PEAK (max n (s.fld .spkmFcstat F.spkmFcstat_PEAK))

/-- Whether [a, a + n) overlaps a region whose snapshot copies are not complete (R324). -/
def State.snapHolds (s : State) (a n : Nat) : Bool :=
  match s.plt.snap with
  | none => false
  | some p => s.fab.reqs.any fun r => match r.kind with
    | .snapshot i => match p.regions[i]? with
      | some q => decide (a < q.1 + q.2 ∧ q.1 < a + n)
      | none => false
    | _ => false

/-- Send a packet of a generation that is answered, with a tag and a fabric context, and record what its response does (R161, R274,
R290). -/
def State.request (s : State) (p : Packet) (kind : ReqKind) (i : Ins) (gen fctx acks : Nat) : State :=
  let t := s.freeTag
  let s := s.send { p with tag := t, fctx := fctx, optag := i.tag, gtag := gen % 2 }
  let r : Req := { tag := t, fctx := fctx, kind := kind, x := i.x, typ := p.typ, dst := p.dst, addr := p.addr, iaddr := i.iaddr,
                   op := i.op, optag := i.tag, layer := i.layer, mbatch := i.mbatch, acks := acks, at_ := s.time }
  { s with fab := { s.fab with reqs := s.fab.reqs ++ [r], nextTag := (t + 1) % 65536, cooling := s.cooling } }.showFctx

/-- The fabric context of a core's scalar remote accesses (R290). -/
def scalarFctx (c : Fin 256) : Nat := 48 * c.val + 47

/-! ## Tiles in flight -/

/-- Whether an instruction is in flight on a slot (R97). -/
def State.slotBusy (s : State) (c : Fin 256) (i : A3) : Bool :=
  (List.finRange 4).any fun n => ((s.ctx ⟨c, n⟩).run.bind TileRun.busy) == some i

/-- Show in ATSTATi whether an instruction is in flight on a slot. -/
def State.showBusy (s : State) (c : Fin 256) (i : A3) : State :=
  s.setFld (.coreAtstat c i) F.coreAtstat_BUSY (b2n (s.slotBusy c i))

/-- No tile of a context runs on: its instruction is no longer in flight on its slot. -/
def State.dropRun (s : State) (x : CtxId) : State :=
  match (s.ctx x).run with
  | none => s
  | some t =>
    let s := s.setCtx x { s.ctx x with run := none }
    match t.busy with
    | some i => s.showBusy x.core i
    | none => s

/-- Instructions of an opcode that other contexts have in flight on the cores of a list. -/
def State.inFlight (s : State) (l : List (Fin 256)) (op : Nat) (x : CtxId) : Nat :=
  (l.flatMap fun c => (List.finRange 4).filter fun n => (⟨c, n⟩ : CtxId) != x && ((s.ctx ⟨c, n⟩).run.map fun t => t.ins.op) == some op).length

/-! ## Registers that latch at a tile's start -/

/-- A tile starts: its context latches its registers and the live generation (R54, R93, R161, R231). -/
def State.startTile (s : State) (x : CtxId) : State :=
  let c := s.ctx x
  s.setCtx x { c with latch :=
    { seed := s.reg (.xseed x.core x.n), xctl := s.reg (.xctl x.core x.n), xraise := s.reg (.xraise x.core x.n),
      fsctl := s.reg (.fsctl x.core x.n), fhist := s.reg (.fhist x.core x.n), hlth := s.reg (.hlth x.core x.n),
      gen := s.fld .hubGenlive F.hubGenlive_GEN } }

end Sys2Proof.Machine
end

