-- ==== Sys2Proof/Machine/Operands.lean ====
section
/-!
DEFINITION. Tile descriptors as operands: their fields (R129), checks (R133), the bytes of a window and its auxiliary plane
(R68, R130), the exact value of an element and why it is NaN (R58-R72, R131), and the window's advance (R142, R144).
-/

namespace Sys2Proof.Machine

/-! ## Fields -/

/-- A reserved bit of the descriptor is nonzero (check 10). -/
def Desc.reserved (d : Desc) : Bool := bit d.d6 31 || getBits d.d6 (56, 8) != 0 || getBits d.d7 (6, 58) != 0

/-- Word `w` of a descriptor. -/
def Desc.word (d : Desc) (w : Fin 8) : Word :=
  match w with
  | 0 => d.d0
  | 1 => d.d1
  | 2 => d.d2
  | 3 => d.d3
  | 4 => d.d4
  | 5 => d.d5
  | 6 => d.d6
  | 7 => d.d7

/-- A descriptor with word `w` replaced. -/
def Desc.setWord (d : Desc) (w : Fin 8) (v : Word) : Desc :=
  match w with
  | 0 => { d with d0 := v }
  | 1 => { d with d1 := v }
  | 2 => { d with d2 := v }
  | 3 => { d with d3 := v }
  | 4 => { d with d4 := v }
  | 5 => { d with d5 := v }
  | 6 => { d with d6 := v }
  | 7 => { d with d7 := v }

/-- The 64 bytes of a descriptor. -/
def Desc.bytes (d : Desc) : List Byte := ((List.finRange 8).map fun w => toBytes 8 (d.word w).toNat).flatten

/-- The descriptor that 64 bytes hold. -/
def Desc.ofBytes (l : List Byte) : Desc :=
  let w (i : Nat) : Word := BitVec.ofNat 64 (Machine.ofBytes ((l.drop (8 * i)).take 8))
  ⟨w 0, w 1, w 2, w 3, w 4, w 5, w 6, w 7⟩

/-- The descriptor as the quad sees it: with TR, rows and columns change places (R178). -/
def Desc.view (d : Desc) : Desc :=
  if d.tr then
    { d with
      d3 := BitVec.ofNat 64 (d.lcols + 2 ^ 32 * d.lrows)
      d4 := BitVec.ofNat 64 (d.coloff + 2 ^ 32 * d.rowoff)
      d5 := putBits (putBits d.d5 (0, 16) d.cols) (16, 16) d.rows }
  else d

/-! ## Geometry -/

/-- Bytes of `n` elements of a format (R68, R71). -/
def fmtBytes (f n : Nat) : Nat := (n * fmtBits f + 7) / 8

/-- Byte of element `c` of a row (R68). -/
def fmtOff (f c : Nat) : Nat := c * fmtBits f / 8

/-- The auxiliary layouts (R130). -/
inductive Aux where
  | none | cols | rows | bm | a128
  deriving DecidableEq, Repr

/-- Which auxiliary bytes a descriptor's format and SMODE use. -/
def Desc.aux (d : Desc) : Aux :=
  if d.fmt = 7 then .bm
  else if fmtA128 d.fmt then .a128
  else if fmtScaled d.fmt then (if d.smode = 2 then .cols else if d.smode = 3 then .rows else .none)
  else .none

/-- Whether its format and SMODE use a header. -/
def Desc.hasHdr (d : Desc) : Bool := fmtA128 d.fmt || (fmtScaled d.fmt && d.smode != 0)

/-- Auxiliary bytes of `n` columns of one auxiliary row. -/
def Aux.bytes : Aux → Nat → Nat
  | .none, _ => 0
  | .cols, n => (n + 31) / 32
  | .rows, n => n
  | .bm, n => (n + 31) / 32
  | .a128, n => (n + 3) / 4

/-- Offset of the auxiliary byte of local element (r, c) (R130). -/
def Desc.auxOff (d : Desc) (r c : Nat) : Nat :=
  match d.aux with
  | .none => 0
  | .cols => r * d.spitch + c / 32
  | .rows => r / 32 * d.spitch + c
  | .bm => r * d.spitch + c / 32
  | .a128 => r * d.spitch + c / 4

/-- A part of a window: rows [r0, r1), columns [c0, c1). -/
structure Span where
  r0 : Nat
  r1 : Nat
  c0 : Nat
  c1 : Nat
  deriving DecidableEq, Repr

/-- The whole window. -/
def Desc.whole (d : Desc) : Span := ⟨0, d.rows, 0, d.cols⟩

/-- Cut a part of the window to the logical shape (R131). -/
def Desc.clip (d : Desc) (w : Span) : Span :=
  ⟨w.r0, min w.r1 (d.lrows - d.rowoff), w.c0, min w.c1 (d.lcols - d.coloff)⟩

/-- A part with rows and columns exchanged. -/
def Span.swap (w : Span) : Span := ⟨w.c0, w.c1, w.r0, w.r1⟩

/-- The local elements of a part, in row-major order. -/
def Span.cells (w : Span) : List (Nat × Nat) :=
  ((List.range (w.r1 - w.r0)).map fun r => (List.range (w.c1 - w.c0)).map fun c => (w.r0 + r, w.c0 + c)).flatten

/-- The local address part of a global address. -/
def lowAddr (g : Word) : Nat := g.toNat % 2 ^ 48

/-- The element bytes of row `r` of a part: offset from ADDR and length. -/
def Desc.rowOff (d : Desc) (w : Span) (r : Nat) : Nat × Nat :=
  (r * d.pitch + fmtOff d.fmt w.c0, fmtBytes d.fmt w.c1 - fmtOff d.fmt w.c0)

/-- The element bytes of a part, row by row, as offsets from ADDR. -/
def Desc.elemOffs (d : Desc) (w : Span) : List (Nat × Nat) :=
  if w.c1 ≤ w.c0 then [] else (List.range (w.r1 - w.r0)).map fun r => d.rowOff w (w.r0 + r)

/-- The auxiliary bytes of a part, auxiliary row by auxiliary row, as offsets from AUX. -/
def Desc.auxOffs (d : Desc) (w : Span) : List (Nat × Nat) :=
  if w.c1 ≤ w.c0 ∨ w.r1 ≤ w.r0 then []
  else match d.aux with
    | .none => []
    | .rows => (List.range ((w.r1 + 31) / 32 - w.r0 / 32)).map fun i => ((w.r0 / 32 + i) * d.spitch + w.c0, w.c1 - w.c0)
    | _ => (List.range (w.r1 - w.r0)).map fun i =>
        (d.auxOff (w.r0 + i) w.c0, d.auxOff (w.r0 + i) (w.c1 - 1) + 1 - d.auxOff (w.r0 + i) w.c0)

/-- The local byte ranges of the planes of a part that an instruction uses: elements, auxiliary bytes, header. -/
def Desc.ranges (d : Desc) (w : Span) (hdr : Bool) : List (Nat × Nat) :=
  (d.elemOffs w).map (fun q => (lowAddr d.d0 + q.1, q.2)) ++ (d.auxOffs w).map (fun q => (lowAddr d.d1 + q.1, q.2)) ++
  (if hdr && d.hasHdr then [(lowAddr d.d2, 16)] else [])

/-! ## Checks (R133) -/

/-- The byte past the end of the aligned ring that holds an address. -/
def ringEnd (a : Word) (rlog : Nat) : Nat := (a.toNat / 2 ^ rlog + 1) * 2 ^ rlog

/-- The numbers of the checks that a descriptor fails, but for check 9: `planes` when the instruction reads or writes
them, `into` when it converts values into the window. -/
def Desc.failed (d : Desc) (planes into : Bool) : List Nat :=
  let c1 := decide (12 ≤ d.fmt)
  let c2 := if fmtScaled d.fmt then d.smode == 0 else d.smode != 0
  let c3 := d.lrows == 0 || d.lcols == 0 || decide (2 ^ 40 ≤ d.lrows * d.lcols)
  let c4 := decide (d.lrows ≤ d.rowoff ∨ d.lcols ≤ d.coloff)
  let c5 := d.rows == 0 || d.cols == 0
  let c6 := d.pitch % 64 != 0 || decide (d.pitch < fmtBytes d.fmt d.cols)
  let c7 := decide (d.spitch < d.aux.bytes d.cols)
  let c8 := match d.aux with
    | .none => false
    | .cols => d.coloff % 32 != 0
    | .rows => d.rowoff % 32 != 0
    | .bm => d.coloff % 32 != 0 || d.lcols % 32 != 0 || (into && d.cols % 32 != 0 && decide (d.coloff + d.cols < d.lcols))
    | .a128 => d.coloff % 4 != 0
  let c10 := d.reserved
  let c11 := d.rlog != 0 && (decide (d.rlog < 6 ∨ 24 < d.rlog) || (!c5 &&
    (decide (ringEnd d.d0 d.rlog < d.d0.toNat + (d.rows - 1) * d.pitch + fmtBytes d.fmt d.cols) ||
     (d.aux != .none && decide (ringEnd d.d1 d.rlog ≤ d.d1.toNat + d.auxOff (d.rows - 1) (d.cols - 1))))))
  let c12 := planes && ((d.hasHdr && d.d2 == 0) || (d.aux != .none && d.d1 == 0))
  if c1 then [1]
  else ([(2, c2), (3, c3), (4, c4), (5, c5), (6, c6), (7, c7), (8, c8), (10, c10), (11, c11), (12, c12)].filter
    (fun q => q.2)).map Prod.fst

/-- Byte 1 of a header has a MODE or FORM that disagrees with the descriptor (check 9). -/
def Desc.headerByteBad (d : Desc) (b : Nat) : Bool := if fmtA128 d.fmt then b / 64 != d.fmt - 8 else b != d.smode

/-- Check 9: the header's MODE or FORM disagrees with the descriptor. -/
def State.headerBad (s : State) (d : Desc) : Bool := d.headerByteBad (s.byte (lowAddr d.d2 + 1)).toNat

/-- The checks of one use of a descriptor, as faults: the lowest check it fails (DEDUCED, log entry 14), or the alignment of
ADDR. `readHdr` when the instruction reads the header. -/
def State.descFaults (s : State) (d : Desc) (t : T4) (planes into readHdr : Bool) : List Flt :=
  let l := d.failed planes into
  let l := if readHdr && d.hasHdr && !l.contains 2 && !l.contains 12 && d.d2.toNat < 2 ^ 48 && s.headerBad d
    then 9 :: l else l
  (match l.min? with
   | some n => [Flt.operand n t]
   | none => []) ++
  (if d.d0.toNat % 64 ≠ 0 then [(Flt.align d.d0.toNat).of t] else [])

/-- The first of several faults (R157): the lowest code first, then the order given. -/
def firstFault (l : List Flt) : Option Flt :=
  l.foldl (fun a f => match a with
    | none => some f
    | some g => if f.code < g.code then some f else a) none

/-- The local linear index of the first element that the byte at an offset of a plane describes: plane 0 elements, 1 auxiliary bytes,
2 header. -/
def Desc.elemAt (d : Desc) (p o : Nat) : Nat :=
  if p = 0 then o / d.pitch * d.cols + o % d.pitch * 8 / fmtBits d.fmt
  else if p = 1 then match d.aux with
    | .none => 0
    | .rows => o / d.spitch * 32 * d.cols + o % d.spitch
    | .a128 => o / d.spitch * d.cols + o % d.spitch * 4
    | _ => o / d.spitch * d.cols + o % d.spitch * 32
  else 0

/-- The fault of one operand (R157): the lowest code, then the lowest local linear index. -/
def lowestFirst (l : List (Nat × Flt)) : List Flt :=
  (l.foldl (fun (a : Option (Nat × Flt)) q => match a with
    | none => some q
    | some b => if q.2.code < b.2.code ∨ (q.2.code = b.2.code ∧ q.1 < b.1) then some q else a) none).toList.map Prod.snd

/-- The planes of a part of a window: plane, offset and bytes. -/
def Desc.parts (d : Desc) (w : Span) (hdr : Bool) : List (Nat × Nat × Nat) :=
  (d.elemOffs w).map (fun q => (0, q.1, q.2)) ++ (d.auxOffs w).map (fun q => (1, q.1, q.2)) ++
  (if hdr && d.hasHdr then [(2, 0, 16)] else [])

/-- The address of a plane of a descriptor. -/
def Desc.plane (d : Desc) (p : Nat) : Word := if p = 0 then d.d0 else if p = 1 then d.d1 else d.d2

/-- The data fault of an instruction that has read parts of windows (R157), in operand order, and found the word at `q`
uncorrectable. -/
def State.dataFault (s : State) (l : List (Desc × T4 × Span)) (q : Nat) : Flt :=
  let bad (e : Desc × T4 × Span) : List (Nat × Flt) := (e.1.parts e.2.2 true).flatMap fun p =>
    let a := lowAddr (e.1.plane p.1) + p.2.1
    ((s.flawed a p.2.2).filter fun u => rimDecode (s.rim.get u 0) == .uncorrectable).map fun u =>
      (e.1.elemAt p.1 (max a (32 * u) - lowAddr (e.1.plane p.1)), (Flt.data (max a (32 * u))).of e.2.1)
  (l.findSome? fun e => (lowestFirst ((l.filter fun z => z.2.1 == e.2.1).flatMap bad)).head?).getD (.data q)

/-- The first address of [a, a + n) outside a core's Cassette. -/
def outside (c : Fin 256) (g : Word) (q : Nat × Nat) : Option Nat :=
  let b := cassetteBase c
  if q.2 = 0 then none
  else if 2 ^ 48 ≤ g.toNat then some (g.toNat + q.1)
  else if g.toNat + q.1 < b then some (g.toNat + q.1)
  else if b + 2 ^ 21 < g.toNat + q.1 + q.2 then some (max (g.toNat + q.1) (b + 2 ^ 21))
  else none

/-- The address faults of a part of a window whose planes lie outside the issuing core's Cassette, by local linear index. -/
def Desc.cassetteOut (d : Desc) (c : Fin 256) (t : T4) (hdr : Bool) (w : Span) : List (Nat × Flt) :=
  (d.parts w hdr).filterMap fun q => (outside c (d.plane q.1) q.2).map fun a =>
    (d.elemAt q.1 (a - (d.plane q.1).toNat), (Flt.addr a).of t)

/-- The planes that an instruction uses lie in the issuing core's Cassette (R99, R183): the address fault otherwise. -/
def Desc.cassetteFaults (d : Desc) (c : Fin 256) (t : T4) (w : Span) (hdr : Bool) : List Flt := lowestFirst (d.cassetteOut c t hdr w)

/-! ## Values -/

/-- The exact value of an element, and whether it is NaN by its own code or by one of its planes (R86, R89). -/
structure Val where
  num : Num
  own : Bool
  plane : Bool
  deriving DecidableEq, Repr

/-- An element outside the logical shape reads as zero (R131). -/
def Val.zero : Val := ⟨Num.zero, false, false⟩

/-- A value that is NaN by neither. -/
def Val.of (x : Num) : Val := ⟨x, x.isNan, false⟩

/-- Is local element (r, c) inside the logical shape? -/
def Desc.inShape (d : Desc) (r c : Nat) : Bool := decide (d.rowoff + r < d.lrows ∧ d.coloff + c < d.lcols)

/-- The linear index of local element (r, c) in the logical shape (R130). -/
def Desc.linear (d : Desc) (r c : Nat) : Nat := (d.rowoff + r) * d.lcols + (d.coloff + c)

/-- The code of an element at a byte offset from a plane's start; `odd` names the nibble of an S4 element (R68). -/
def State.codeAt (s : State) (f a : Nat) (odd : Bool) : Nat :=
  if f = 0 then (if odd then (s.byte a).toNat / 16 else (s.byte a).toNat % 16)
  else ofBytes (s.bytes a (fmtBits f / 8))

/-- The code of local element (r, c). -/
def State.elemCode (s : State) (d : Desc) (r c : Nat) : Nat :=
  s.codeAt d.fmt (lowAddr d.d0 + r * d.pitch + fmtOff d.fmt c) (c % 2 == 1)

/-- A scale byte's exponent, none when it is invalid (R64). -/
def scaleExp (b : Nat) : Option Int := if b = 255 then none else some ((b : Int) - 127)

/-- The scale or exponent byte of an element of a format, by its code (R64, R69). -/
def scaledVal (f code b : Nat) : Val :=
  if f = 7 then ⟨bm16Num code b, false, b == 255⟩
  else
    let x := codeNum f code
    match scaleExp b with
    | none => ⟨.nan, x.isNan, !x.isNan⟩
    | some e => ⟨x.scale e, x.isNan, false⟩

/-- The scale byte of local element (r, c): the header's for a tensor scale, otherwise its auxiliary byte. -/
def State.scaleByte (s : State) (d : Desc) (r c : Nat) : Nat :=
  match d.aux with
  | .none => (s.byte (lowAddr d.d2)).toNat
  | _ => (s.byte (lowAddr d.d1 + d.auxOff r c)).toNat

/-- The exact value of local element (r, c) of any format but the A128 forms (R474). -/
def State.elemVal (s : State) (d : Desc) (r c : Nat) : Val :=
  if d.inShape r c = false then Val.zero
  else
    let code := s.elemCode d r c
    if fmtScaled d.fmt || d.fmt == 7 then scaledVal d.fmt code (s.scaleByte d r c) else Val.of (codeNum d.fmt code)

/-- A stored A128 element (R71, R72): k sign-extended, and its state. -/
def State.a128Elem (s : State) (d : Desc) (r c : Nat) : Elem :=
  let st := (s.byte (lowAddr d.d1 + d.auxOff r c)).toNat / 4 ^ (c % 4) % 4
  ⟨BitVec.ofInt 128 (signed (fmtBits d.fmt) (s.elemCode d r c)), ElState.ofCode st⟩

/-- The anchor of an accumulator header (R73). -/
def State.hdrAnchor (s : State) (h : Nat) : Int := signed 12 (ofBytes (s.bytes h 2) % 4096)

/-- SINF of an accumulator header. -/
def State.hdrSinf (s : State) (h : Nat) : Bool := ofBytes (s.bytes h 2) / 4096 % 2 == 1

/-- The exact value of an element of a gradient window (R215): an A128 form by its header's anchor, +∞ under SINF. -/
def State.gradVal (s : State) (d : Desc) (r c : Nat) : Val :=
  if d.inShape r c = false then Val.zero
  else if fmtA128 d.fmt then
    let h := lowAddr d.d2
    if s.hdrSinf h then Val.of (.inf false)
    else
      let e := s.a128Elem d r c
      ⟨e.num (s.hdrAnchor h), false, e.st == .nan⟩
  else s.elemVal d r c

/-! ## NaNs met -/

/-- A NaN element that an instruction consumed. -/
structure NanSeen where
  opnd : Nat
  own : Bool
  idx : Nat
  tid : Nat
  fmt : Nat
  deriving DecidableEq, Repr

/-- The NaN that an element is, if it is one. -/
def Desc.nanOf (d : Desc) (opnd r c : Nat) (v : Val) : Option NanSeen :=
  if v.own then some ⟨opnd, true, d.linear r c, d.tid, d.fmt⟩
  else if v.plane then some ⟨opnd, false, d.linear r c, d.tid, d.fmt⟩
  else none

/-- Rank of a consumed NaN (R89): own codes of A, of B, of a third operand, then planes in that order. -/
def NanSeen.rank (n : NanSeen) : Nat := (if n.own then 0 else 4) + (if n.opnd = 0 then 3 else n.opnd)

/-- The consumed NaN that a record names (R89). -/
def firstConsumed (l : List NanSeen) : Option NanAt :=
  (l.foldl (fun (a : Option NanSeen) n => match a with
    | none => some n
    | some b => if n.rank < b.rank ∨ (n.rank = b.rank ∧ n.idx < b.idx) then some n else a) none).map
    fun n => { opnd := if n.own then n.opnd else 3, produced := false, elem := n.idx, tid := n.tid, fmt := n.fmt }

/-- The NaN that a record names: a consumed one first, then the produced one of lowest index of the output (R89). -/
def firstNan (consumed : List NanSeen) (produced : List Nat) (d : Desc) : Option NanAt :=
  match firstConsumed consumed with
  | some a => some a
  | none => (produced.min?).map fun k => { opnd := 0, produced := true, elem := k, tid := d.tid, fmt := d.fmt }

/-- The first-NaN trap is armed in a context (R87). -/
def State.armed (s : State) (x : CtxId) : Bool := s.flag (.fnan x.core x.n) F.fnan_ARM

/-! ## Advancing a window (R142, R144) -/

/-- Move an address by δ, within its ring where the descriptor has one. -/
def ringAdd (a : Word) (delta : Int) (rlog : Nat) : Word :=
  let v := a + BitVec.ofInt 64 delta
  if rlog = 0 ∨ delta = 0 then v
  else BitVec.ofNat 64 (a.toNat / 2 ^ rlog * 2 ^ rlog + v.toNat % 2 ^ rlog)

/-- A descriptor advanced by `n` rows (or columns with `dir`); none is an operand fault. -/
def Desc.advance (d : Desc) (n : Int) (dir : Bool) (ring : Bool) : Option Desc :=
  let off := (if dir then (d.coloff : Int) else d.rowoff) + n
  let bits : Int := fmtBits d.fmt
  let div : Nat := match d.aux with
    | .none => 1
    | .cols => if dir then 32 else 1
    | .bm => if dir then 32 else 1
    | .rows => if dir then 1 else 32
    | .a128 => if dir then 4 else 1
  let da : Int := if dir then n * bits / 8 else n * d.pitch
  let dx : Int := match d.aux with
    | .none => 0
    | .rows => if dir then n else n / 32 * d.spitch
    | _ => if dir then n / div else n * d.spitch
  if off < 0 ∨ 2 ^ 32 ≤ off ∨ n % div ≠ 0 ∨ (dir = true ∧ d.fmt = 0 ∧ n % 2 ≠ 0) then none
  else
    let r := if ring then d.rlog else 0
    some { d with
      d0 := ringAdd d.d0 da r
      d1 := if d.aux = .none then d.d1 else ringAdd d.d1 dx r
      d4 := putBits d.d4 (if dir then (32, 32) else (0, 32)) off.toNat }

/-- The `n` rows of a window from row `r` on, as a window. -/
def Desc.rowGroup (d : Desc) (r n : Nat) : Desc :=
  let e := (d.advance r false false).getD d
  { e with d5 := putBits e.d5 (0, 16) n }

/-! ## Writing a window -/

/-- Put one element's code into a plane; an S4 element leaves the other nibble of its byte (R68). -/
def State.putCode (s : State) (u : User) (f a : Nat) (odd : Bool) (code : Nat) : State × Option Nat :=
  if f = 0 then
    let b := (s.byte a).toNat
    s.writeMem u a [BitVec.ofNat 8 (if odd then b % 16 + 16 * code else b / 16 * 16 + code)]
  else s.writeMem u a (toBytes (fmtBits f / 8) code)

/-- Write bytes and keep the first address at which a partial word was dropped. -/
def State.writeAll (s : State) (u : User) (l : List (Nat × List Byte)) : State × Option Nat :=
  l.foldl (fun r q => let x := r.1.writeMem u q.1 q.2; (x.1, r.2.or x.2)) (s, none)

/-- The bytes of one row of codes of columns [c0, c0 + codes.length): a first or last S4 nibble that the row does not
write keeps its value. -/
def State.rowBytes (s : State) (d : Desc) (r c0 : Nat) (codes : List Nat) : Nat × List Byte :=
  let a := lowAddr d.d0 + r * d.pitch + fmtOff d.fmt c0
  if d.fmt = 0 then
    let n := fmtBytes 0 (c0 + codes.length) - fmtOff 0 c0
    (a, (List.range n).map fun i =>
      let lo := 2 * i - c0 % 2
      let old := (s.byte (a + i)).toNat
      let nib (k : Nat) (has : Bool) (o : Nat) : Nat := if has then codes.getD k o else o
      BitVec.ofNat 8 (nib lo (!(i == 0 && c0 % 2 == 1)) (old % 16) +
        16 * nib (2 * i + 1 - c0 % 2) true (old / 16)))
  else (a, (codes.map fun k => toBytes (fmtBits d.fmt / 8) k).flatten)

end Sys2Proof.Machine
end

