-- ==== Sys2Proof/Machine/Convert.lean ====
section
/-!
DEFINITION. Scales from history (R80-R85, R221, R222), the conversion of a window into a format (R70, R76-R78, R82, R84),
what a committing conversion counts (R94, R225, R226), and table upkeep that may be skipped (R475).
-/

namespace Sys2Proof.Machine

/-- A magnitude m × 2^e. -/
abbrev Mant := Nat × Int

/-! ## Faults found while an instruction runs -/

/-- Record a fault that a store of an instruction found at its target (R138). -/
def State.storeFault (s : State) (i : Ins) (f : Flt) : State :=
  { s with core := { s.core with faults := s.core.faults ++
      [{ x := i.x, store := true, code := f.code, value := BitVec.ofNat 64 f.value, op := i.op, iaddr := i.iaddr, tag := i.tag,
         layer := i.layer, mbatch := i.mbatch, treg := f.treg }] } }

/-- Write bytes for an instruction; a dropped partial word is a data fault found at the store's target (R138, R240). -/
def State.store (s : State) (i : Ins) (u : User) (a : Nat) (bs : List Byte) : State :=
  match s.writeMem u a bs with
  | (s, none) => s
  | (s, some p) => s.storeFault i (.data p)

/-- Write several ranges of bytes. -/
def State.storeAll (s : State) (i : Ins) (u : User) (l : List (Nat × List Byte)) : State :=
  forAll l s fun s q => s.store i u q.1 q.2

/-! ## History (R80, R81) -/

/-- Address of a tensor's history slot, where the history table is in use. -/
def histSlot (l : Latch) (tid : Nat) : Option Nat :=
  if getBits l.fhist F.fhist_EN = 1 then some (getBits l.fhist F.fhist_BASE * 2 ^ 25 + 512 * (tid % 65536)) else none

/-- Raise an event once in a step for a key: a history slot (R81) or a tensor (R85). -/
def State.oncePerStep (s : State) (d : Fin 2) (code key : Nat) (data : List (Nat × Nat)) : State :=
  if s.core.once.contains (code, key) then s
  else ({ s with core := { s.core with once := (code, key) :: s.core.once } }).raiseEv d 5 code data

/-- The bytes [a, a + n) as they stood at the start of the step (R43, R83), or as they stand where no step runs. -/
def State.startBytes (s : State) (a n : Nat) : List Byte :=
  match s.svc.startMem with
  | some m => if s.svc.active then (List.range n).map fun i => m.get (a + i) else s.bytes a n
  | none => s.bytes a n

/-- The history entries that count, newest first, of a slot's 272 bytes (R81). -/
def histEntries (bs : List Byte) (hlen : Nat) : List Nat :=
  let h := ofBytes ((bs.drop 256).take 8)
  let count := h / 2 ^ 16 % 128
  let head := h / 2 ^ 32 % 64
  (List.range (min hlen count)).map fun k => ofBytes ((bs.drop (4 * ((head + 63 - k) % 64))).take 4)

/-- The largest entry of a tensor's history as it stood at the start of the step (R83), none when that is empty (R81); an address or
data fault of the read. -/
def State.history (s : State) (i : Ins) (l : Latch) (tid : Nat) : State × Except Flt (Option Mant) :=
  match histSlot l tid with
  | none => (s, .ok none)
  | some a =>
    if s.populated (s.privOf i.x) a = false then (s, .error (.addr a))
    else match s.readRange .core a 272 with
      | (s, some p) => (s, .error (.data p))
      | (s, none) =>
        let bs := s.startBytes a 272
        let h := ofBytes ((bs.drop 256).take 8)
        if h / 256 % 2 = 0 then (s, .ok none)
        else if h % 256 ≠ tid / 65536 then
          (s.oncePerStep (dieOf i.x.core) 0x11 a [(3, tid), (1, h % 256), (4, i.step.toNat)], .ok none)
        else
          let m := histMax (histEntries bs (getBits l.fsctl F.fsctl_HLEN))
          (s, .ok (if m.1 = 0 then none else some m))

/-! ## The amax pre-pass (R85) -/

/-- The address of a plane byte of logical element (R, C), extended from the window. -/
def extAddr (g : Word) (off : Int) : Int := (lowAddr g : Int) + off

/-- Where the pre-pass reads logical element (R, C): its element byte, whether it is the odd nibble, its auxiliary byte. -/
def Desc.extended (d : Desc) (lr lc : Nat) : Int × Bool × Option Int :=
  let r : Int := lr - (d.rowoff : Int)
  let c : Int := lc - (d.coloff : Int)
  let a := extAddr d.d0 (r * d.pitch + c * fmtBits d.fmt / 8)
  let x := match d.aux with
    | .none => none
    | .rows => some (extAddr d.d1 (r / 32 * d.spitch + c))
    | .a128 => some (extAddr d.d1 (r * d.spitch + c / 4))
    | _ => some (extAddr d.d1 (r * d.spitch + c / 32))
  (a, c % 2 == 1, x)

/-- The larger of two magnitudes, of which either may be 0. -/
def mantMax (a b : Mant) : Mant := if a.1 = 0 then b else if b.1 = 0 then a else magMax a b

/-- The magnitude of a finite value; 0 for another. -/
def Num.mant : Num → Mant
  | .fin _ m e => (m, e)
  | _ => (0, 0)

/-- Read every element of a tensor for its largest finite magnitude. -/
def State.prepass (s : State) (i : Ins) (d : Desc) : State × Except Flt Mant :=
  let n := fmtBits d.fmt / 8
  let ok (a : Int) : Bool := decide (0 ≤ a) && s.allowed i.x a.toNat false && s.populated (s.privOf i.x) a.toNat
  let cells := ((List.range d.lrows).map fun r => (List.range d.lcols).map fun c => (r, c)).flatten
  cells.foldl (fun (q : State × Except Flt Mant) p =>
    match q.2 with
    | .error _ => q
    | .ok m =>
      let e := d.extended p.1 p.2
      if ok e.1 = false then (q.1, .error (.addr e.1.toNat))
      else match e.2.2 with
        | some x =>
          if ok x = false then (q.1, .error (.addr x.toNat))
          else match q.1.readRanges .core [(e.1.toNat, max n 1), (x.toNat, 1)] with
            | (s, some p) => (s, .error (.data p))
            | (s, none) =>
              (s, .ok (mantMax m (scaledVal d.fmt (s.codeAt d.fmt e.1.toNat e.2.1) (s.byte x.toNat).toNat).num.mant))
        | none => match q.1.readRange .core e.1.toNat (max n 1) with
          | (s, some p) => (s, .error (.data p))
          | (s, none) =>
            let code := s.codeAt d.fmt e.1.toNat e.2.1
            let v := if fmtScaled d.fmt then scaledVal d.fmt code (s.byte (lowAddr d.d2)).toNat else Val.of (codeNum d.fmt code)
            (s, .ok (mantMax m v.num.mant))) (s, .ok (0, 0))

/-- The delayed maximum of a tensor, and whether it comes from a pre-pass that this instruction makes. -/
structure DelayedMax where
  mant : Mant
  fresh : Bool
  seeded : Bool
  deriving DecidableEq, Repr

/-- Whether a tensor's history in a context's table is a seed (R222, R224). -/
def State.seedLive (s : State) (l : Latch) (tid : Nat) : Bool :=
  match histSlot l tid with
  | some a => s.svc.seedsWritten.any fun q => q.slot == a && q.tid == tid && q.till.isNone
  | none => false

/-- The delayed maximum H of an input plane (R81, R85): from its history, from the step's pre-pass, or by a pre-pass now. The
pre-pass reads the whole tensor, so every member that makes one finds the same maximum (log entry 74). -/
def State.inputMax (s : State) (i : Ins) (l : Latch) (d : Desc) (t : T4) : State × Except Flt DelayedMax :=
  match s.history i l d.tid with
  | (s, .error f) => (s, .error (f.of t))
  | (s, .ok (some m)) => (s, .ok ⟨m, false, s.seedLive l d.tid⟩)
  | (s, .ok none) =>
    if getBits l.fsctl F.fsctl_PREPASS = 0 then (s, .error (.operand 0 t))
    else match s.core.prepass.find? fun p => p.1 == d.tid with
      | some p => (s, .ok ⟨p.2, false, true⟩)
      | none => match s.prepass i d with
        | (s, .error f) => (s, .error (f.of t))
        | (s, .ok m) => (s, .ok ⟨m, true, true⟩)

/-! ## Table upkeep (R475) -/

/-- Update [a, a + n) as table upkeep: skipped with event 0x05:0x0012 on an address fault or an uncorrectable word. -/
def State.upkeep (s : State) (i : Ins) (tid table a n : Nat) (f : State → List Byte) : State :=
  let skip (s : State) (cause : Nat) : State :=
    s.raiseEv (dieOf i.x.core) 5 0x12 [(3, tid), (1, table), (6, a), (1, cause)]
  if (s.populated (s.privOf i.x) a && s.populated (s.privOf i.x) (a + n - 1)) = false then skip s 6
  else match s.readRange .core a n with
    | (s, some _) => skip s 7
    | (s, none) => (s.writeMem .hub a (f s)).1

/-- Write a seed into a history slot (R222): its one entry. -/
def State.seedSlot (s : State) (a tid code : Nat) : State :=
  let s := (s.writeMem .hub a (toBytes 4 code)).1
  (s.writeMem .hub (a + 256) (toBytes 8 (tid / 65536 + 2 ^ 8 + 2 ^ 16 + 2 ^ 32))).1

/-- The history tables that the plan's contexts use (R80), each once. -/
def State.histTables (s : State) : List Nat :=
  ((s.core.ctxs.filterMap fun (q : CtxId × Ctx) =>
    let v := s.reg (.fhist q.1.core q.1.n)
    if q.2.planned && bit v 0 then some (getBits v F.fhist_BASE * 2 ^ 25) else none)).eraseDups

/-- Whether a history slot has no entry of a tensor and belongs to no other. -/
def unseeded (bs : List Byte) (tid : Nat) : Bool :=
  let h := ofBytes ((bs.drop 256).take 8)
  h / 256 % 2 == 0 || (h % 256 == tid / 65536 && h / 2 ^ 16 % 128 == 0)

/-- Whether the step service seeds a tensor that a planned context converts from a slot (R222): at the start of the step its history
slot has no entry, and no other tensor owns it. -/
def State.seedable (s : State) (x : CtxId) (l : Latch) (tid : Nat) : Bool :=
  match histSlot l tid with
  | none => false
  | some a => (s.ctx x).planned && s.svc.plan.isSome && unseeded (s.startBytes a 272) tid

/-- The step service writes a tensor's seed into every history table of the plan's contexts that has no entry of it (R222). -/
def State.seedTables (s : State) (tid code : Nat) : State :=
  forAll s.histTables s fun s b =>
    let a := b + 512 * (tid % 65536)
    if s.populated .hub a && unseeded (s.bytes a 272) tid then
      let q : SeedNote := { slot := a, tid := tid, since := some (s.svc.next - 1), till := none }
      { s.seedSlot a tid code with svc := { s.svc with seedsWritten := q :: s.svc.seedsWritten.filter fun r => r.slot != a } }
    else s

/-- A pre-pass that its instruction commits: it is counted, noted for the step and reported once (R85, R224). -/
def State.notePrepass (s : State) (i : Ins) (l : Latch) (d : Desc) (h : DelayedMax) : State :=
  let s := if h.seeded ∧ s.core.seeded.contains d.tid = false
    then { s with core := { s.core with seeded := d.tid :: s.core.seeded } } else s
  if h.fresh = false then
    if h.seeded = true ∧ (s.core.prepass.any fun p => p.1 == d.tid) = false ∧ s.seedable i.x l d.tid = true then
      s.seedTables d.tid (f32Up h.mant.1 h.mant.2)
    else s
  else
    let s := { s with core := { s.core with prepass := (d.tid, h.mant) :: s.core.prepass } }
    let s := s.count (.fppcnt i.x.core) F.fppcnt_COUNT 1
    let s := match histSlot l d.tid with
      | some a => s.upkeep i d.tid 0 (a + 268) 4 fun s => toBytes 4 (min (ofBytes (s.bytes (a + 268) 4) + 1) (2 ^ 32 - 1))
      | none => s
    s.oncePerStep (dieOf i.x.core) 0x10 d.tid [(3, d.tid), (2, i.tag.toNat), (4, i.step.toNat), (4, f32Up h.mant.1 h.mant.2)]

/-- Add to a tensor's health slot (R225, R226). -/
def State.health (s : State) (i : Ins) (l : Latch) (tid fmt conv sat van : Nat) : State :=
  if getBits l.hlth F.hlth_EN = 0 then s
  else
    let a := getBits l.hlth F.hlth_BASE * 2 ^ 21 + 32 * (tid % 65536)
    let h := ofBytes (s.bytes a 8)
    let valid := h / 256 % 2 = 1
    let clash := decide (valid ∧ h % 256 ≠ tid / 65536)
    let mix := decide (valid ∧ h / 2 ^ 12 % 16 ≠ fmt)
    let ok := s.populated (s.privOf i.x) a
    let add (s : State) (o n : Nat) : List Byte := toBytes 8 (min (ofBytes (s.bytes (a + o) 8) + n) (2 ^ 64 - 1))
    let before := s.events.length
    let s := s.upkeep i tid 1 a 32 fun s =>
      let h0 := if valid then h % 2 ^ 16 else tid / 65536 + 256 + fmt * 2 ^ 12
      let h1 := (h0 ||| (if clash then 2 ^ 9 else 0)) ||| (if mix then 2 ^ 10 else 0)
      toBytes 8 (h / 2 ^ 16 * 2 ^ 16 + h1) ++ add s 8 conv ++ add s 16 sat ++ add s 24 van
    if clash && ok && s.events.length == before then s.count (.hclash i.x.core) F.hclash_COUNT 1 else s

/-! ## Converting a window -/

/-- What converting a window writes and counts. -/
structure Conv where
  rows : List (Nat × List Nat)         -- local row and the codes of its columns from 0
  aux : List (Nat × List Byte)         -- offset from AUX and bytes
  hdr : Option (List Byte)             -- the scale header
  tally : Tally
  blocks : List Nat                    -- BM16 blocks whose exponent saturated
  nans : List Nat                      -- linear indices of the NaN elements written
  amax : Option Nat                    -- AMAX, for a scaled format
  deriving DecidableEq, Repr

/-- Bytes of a scale header (R65). -/
def scaleHeader (scale : Int) (mode amax : Nat) : List Byte :=
  [BitVec.ofNat 8 (scale + 127).toNat, BitVec.ofNat 8 mode, 0, 0] ++ toBytes 4 amax ++ List.replicate 8 0

/-- The codes of a row, and what they count. -/
def convRow (f : Nat) (l : List (Num × Int)) : List Nat × Tally :=
  let q := l.map fun p => cvtOf f p.1 p.2
  (q.map Prod.fst, q.foldl (fun t p => t.add p.2) Tally.none)

/-- Largest magnitude among finite values. -/
def mantOf (l : List Num) : Mant := l.foldl (fun a x => mantMax a x.mant) (0, 0)

/-- Convert the values of a window into its descriptor's format with delayed maximum `h` (R84). `v` gives the value of a
local element; elements outside the logical shape are not written. -/
def convert (d : Desc) (l : Latch) (h : Mant) (v : Nat → Nat → Num) (rnd : Rnd) (coord : Nat → Nat → Coord) : Conv :=
  let w := d.clip d.whole
  let nr := w.r1
  let nc := w.c1
  let f := d.fmt
  let margin : Int := getBits l.fsctl F.fsctl_MARGIN
  let span : Int := getBits l.fsctl F.fsctl_FLOORSPAN
  let fmax := fmaxOf f
  let row (r : Nat) : List Num := (List.range nc).map (v r)
  let nans := w.cells.filterMap fun p => if cvtNan f (v p.1 p.2) then some (d.linear p.1 p.2) else none
  let amax := f32Up (mantOf (w.cells.map fun p => v p.1 p.2)).1 (mantOf (w.cells.map fun p => v p.1 p.2)).2
  if f = 7 then
    let block (r b : Nat) : Nat × List Nat × Tally × Bool :=
      let cs := (List.range (min 32 (nc - 32 * b))).map fun k => 32 * b + k
      bm16Block (cs.map (v r)) rnd (cs.map (coord r))
    let blocks := ((List.range nr).map fun r => (List.range ((nc + 31) / 32)).map fun b => (r, b, block r b)).flatten
    let bad (q : Nat × Nat × Nat × List Nat × Tally × Bool) : Bool := q.2.2.1 == 255
    { rows := (List.range nr).map fun r =>
        (r, ((blocks.filter fun q => q.1 == r).map fun q => q.2.2.2.1).flatten)
      aux := blocks.map fun q => (d.auxOff q.1 (32 * q.2.1), [BitVec.ofNat 8 q.2.2.1])
      hdr := none
      tally := blocks.foldl (fun t q => (t.add q.2.2.2.2.1).add ⟨0, b2n q.2.2.2.2.2, 0, 0, 0⟩) Tally.none
      blocks := (blocks.filter fun q => q.2.2.2.2.2).map fun q => d.linear q.1 (32 * q.2.1) / 32
      nans := ((blocks.filter bad).map fun q => (List.range q.2.2.2.1.length).map fun k =>
        d.linear q.1 (32 * q.2.1 + k)).flatten
      amax := none }
  else if fmtScaled f then
    let st := clampScale (fit h.1 h.2 fmax + margin)
    let floor := clampScale (fit h.1 h.2 fmax + margin - span)
    let bs (l : List Num) : Int :=
      let m := mantOf l
      clampScale (max floor (fit m.1 m.2 fmax + margin))
    let colBlock (r b : Nat) : Int := bs ((row r).drop (32 * b) |>.take 32)
    let rowBlock (b c : Nat) : Int := bs ((List.range (min 32 (nr - 32 * b))).map fun k => v (32 * b + k) c)
    let scale (r c : Nat) : Int := if d.smode = 1 then st else if d.smode = 2 then colBlock r (c / 32) else rowBlock (r / 32) c
    let rows := (List.range nr).map fun r => (r, convRow f ((List.range nc).map fun c => (v r c, scale r c)))
    { rows := rows.map fun q => (q.1, q.2.1)
      aux := if d.smode = 2 then
          (List.range nr).map fun r => (d.auxOff r 0,
            (List.range ((nc + 31) / 32)).map fun b => BitVec.ofNat 8 (colBlock r b + 127).toNat)
        else if d.smode = 3 then
          (List.range ((nr + 31) / 32)).map fun b => (d.auxOff (32 * b) 0,
            (List.range nc).map fun c => BitVec.ofNat 8 (rowBlock b c + 127).toNat)
        else []
      hdr := some (scaleHeader (if d.smode = 1 then st else floor) d.smode amax)
      tally := rows.foldl (fun t q => t.add q.2.2) Tally.none
      blocks := []
      nans := nans
      amax := some amax }
  else
    let rows := (List.range nr).map fun r => (r, convRow f ((row r).map fun x => (x, 0)))
    { rows := rows.map fun q => (q.1, q.2.1), aux := [], hdr := none,
      tally := rows.foldl (fun t q => t.add q.2.2) Tally.none, blocks := [], nans := nans, amax := none }

/-- Write a converted window: its elements, auxiliary bytes and header. -/
def State.putConv (s : State) (i : Ins) (u : User) (d : Desc) (c : Conv) : State :=
  let s := forAll c.rows s fun s q => if q.2 = [] then s else
    let b := s.rowBytes d q.1 0 q.2
    s.store i u b.1 b.2
  let s := forAll c.aux s fun s q => s.store i u (lowAddr d.d1 + q.1) q.2
  match c.hdr with
  | some h => s.store i u (lowAddr d.d2) h
  | none => s

/-- What a committing conversion into `d` counts and records (R70, R76, R77, R82, R94, R225); `ovf` is what rounding its
inputs to binary32 adds to FOVFCNT (R474). -/
def State.noteConv (s : State) (i : Ins) (l : Latch) (d : Desc) (c : Conv) (ovf : Nat) : State :=
  let s := s.count (.fsatcnt i.x.core) F.fsatcnt_COUNT c.tally.sat
  let s := s.count (.fovfcnt i.x.core) F.fovfcnt_COUNT (c.tally.ovf + ovf)
  let s := s.count (.funfcnt i.x.core) F.funfcnt_COUNT c.tally.unf
  let s := forAll c.blocks s fun s b => s.raiseEv (dieOf i.x.core) 5 0x30 [(3, d.tid), (5, b), (4, i.step.toNat)]
  let s := match c.amax with
    | some a => { s with core := { s.core with amax := s.core.amax.set d.tid (max (s.core.amax.get d.tid 0) a) } }
    | none => s
  s.health i l d.tid d.fmt c.tally.conv (c.tally.sat + c.tally.ovf + ovf) (c.tally.unf + c.tally.vanish)

/-! ## A conversion from an accumulator slot (R222) -/

/-- The operation table entry of an op tag in a context. -/
def State.opEntry (s : State) (x : CtxId) (tag : BitVec 16) : Option OpEntry :=
  (s.ctx x).table.find? fun e => e.tag == tag

/-- The delayed maximum of a tensor converted from a slot (R222): its history; where that is empty the seed that the step service
writes without a plan's, which the operation's fields and its operands' histories give; or else the product bound 2^(a + 127 - L) of
the operation that produced the slot. An op tag without an entry counts as K 1 (log entry 20). -/
def State.slotMax (s : State) (i : Ins) (l : Latch) (d : Desc) (t : T4) (anchor : Int) (tag : BitVec 16) :
    State × Except Flt DelayedMax :=
  match s.history i l d.tid with
  | (s, .error f) => (s, .error (f.of t))
  | (s, .ok (some m)) => (s, .ok ⟨m, false, s.seedLive l d.tid⟩)
  | (s, .ok none) =>
    let k := match s.opEntry i.x tag with
      | some e => e.k
      | none => 1
    let seed : Mant := if s.seedable i.x l d.tid then s.core.bounds.get tag.toNat (0, 0) else (0, 0)
    let q : Mant := if seed.1 = 0 then (1, anchor + 127 - clog2 k) else seed
    let b := f32 (f32Up q.1 q.2)
    (s, .ok ⟨match b with
      | .fin _ m e => (m, e)
      | _ => (1, 128), false, true⟩)

end Sys2Proof.Machine
end

