-- ==== Sys2Proof/Machine/Bracket.lean ====
section
/-!
DEFINITION. Operation brackets and attempts (R39-R44, R172-R177, R310, R312): seals and notices, abandoning an attempt,
replay, the fallback and aborts.
-/

namespace Sys2Proof.Machine

/-! ## Brackets -/

/-- Show a context's bracket in OPSTn (R204). -/
def State.showBracket (s : State) (x : CtxId) : State :=
  match (s.ctx x).bracket with
  | none => s.setReg (.opst x.core x.n) 0
  | some b =>
    let r := s.fld (.opst x.core x.n) F.opst_SEALED
    s.setReg (.opst x.core x.n) (BitVec.ofNat 64 (b.op.tag.toNat + b.raise % 4 * 2 ^ 16 + 2 ^ 18 + r * 2 ^ 19 +
      b2n (b.ended.isSome && !b.aborted) * 2 ^ 20 + b.op.ph * 2 ^ 32))

/-- Set a context's bracket. -/
def State.setBracket (s : State) (x : CtxId) (b : Option Bracket) : State :=
  (s.setCtx x { s.ctx x with bracket := b }).showBracket x

/-- The participants of an operation on this module whose attempt is not aborted. -/
def State.participants (s : State) (op : OpId) : List CtxId :=
  s.core.ctxs.filterMap fun c => match c.2.bracket with
    | some b => if b.op = op ∧ b.aborted = false then some c.1 else none
    | none => none

/-- An open peloton. -/
def State.peloton (s : State) (h : Nat) : Option Peloton := s.plt.pelotons.find? fun p => p.handle == h

/-- The members of a peloton (R294). -/
def PltDesc.members (d : PltDesc) : List Nat := d.shares.eraseDups

/-- The other members of an operation's peloton. -/
def State.others (s : State) (ph : Nat) : List Nat :=
  match s.peloton ph with
  | some p => p.desc.members.filter fun m => m != s.lmn
  | none => []

/-- An attempt of which nothing is known. -/
def Attempt.new (op : OpId) (raise : Nat) : Attempt :=
  { op := op, raise := raise, seals := [], cause := none, fallback := none, mine := none, noted := 0 }

/-- The attempt of an operation. -/
def State.attempt (s : State) (op : OpId) : Attempt :=
  (s.plt.attempts.find? fun a => a.op == op).getD (Attempt.new op 0)

/-- Set the attempt of an operation. -/
def State.setAttempt (s : State) (a : Attempt) : State :=
  { s with plt := { s.plt with attempts := a :: s.plt.attempts.filter fun b => b.op != a.op } }

/-- Participants of an operation here: how many have sealed, and NLOC. -/
def State.ownSeal (s : State) (op : OpId) : Nat × Nat :=
  let l := (s.participants op).filterMap fun x => (s.ctx x).bracket
  ((l.filter fun b => b.sealed).length, ((l.head?).map Bracket.nloc).getD 0)

/-- An attempt is sealed at this module (R175, R310). -/
def State.opSealed (s : State) (op : OpId) : Bool :=
  let o := s.ownSeal op
  if op.ph = 0 then decide (0 < o.1)
  else decide (0 < o.1 ∧ o.1 = o.2) && (s.others op.ph).all fun m =>
    (s.attempt op).seals.any fun q => q.lmn == m && q.sealed == q.nloc && q.nloc != 0

/-- Show in OPSTn.SEALED that an attempt is sealed. -/
def State.refreshSealed (s : State) (op : OpId) : State :=
  if s.opSealed op then forAll (s.participants op) s fun s x => s.setFld (.opst x.core x.n) F.opst_SEALED 1 else s

/-! ## Notices (R303, R310) -/

/-- Kinds of a NOTICE packet. -/
def noticeJoin : Nat := 1
def noticeGo : Nat := 2
def noticeSeal : Nat := 3
def noticeReplay : Nat := 4
def noticeAbort : Nat := 5
def noticeDone : Nat := 6

/-- The collective key that ADDR carries (R303). -/
def collKey (ph seq epoch kind : Nat) (need : Bool) : Nat :=
  ph % 2 ^ 14 + seq % 2 ^ 16 * 2 ^ 14 + epoch % 256 * 2 ^ 30 + kind % 16 * 2 ^ 38 + b2n need * 2 ^ 42

/-- TSPEC of SEAL, REPLAY and ABORT (R303), from header bit 168 up. -/
def attemptSpec (op : OpId) (raise sealed nloc cause : Nat) : Nat :=
  raise % 4 + op.mbatch.toNat * 2 ^ 2 + sealed % 256 * 2 ^ 10 + nloc % 256 * 2 ^ 18 + op.step.toNat * 2 ^ 26 +
  cause % 256 * 2 ^ 58

/-- The GTAG of what an operation causes here (R161): that of the tile which its participants latched last, and of the live
generation where none is left. -/
def State.opGen (s : State) (op : OpId) : Nat :=
  match s.core.ctxs.find? fun c => (c.2.bracket.map Bracket.op) == some op with
  | some c => c.2.latch.gen % 2
  | none => s.fld .hubGenlive F.hubGenlive_GEN % 2

/-- Multicast a SEAL, REPLAY or ABORT notice to the other members of an operation (R175, R39, R177). -/
def State.noticeAll (s : State) (kind : Nat) (op : OpId) (raise sealed nloc cause : Nat) : State :=
  match s.peloton op.ph with
  | none => s
  | some p =>
    if s.others op.ph = [] then s
    else
      let k := s.packet 0x09 1 op.ph (collKey op.ph 0 p.desc.epoch kind false) []
      s.send { k with mc := true, optag := op.tag, tspec := attemptSpec op raise sealed nloc cause,
                      gtag := s.opGen op, fctx := hubFctx }

/-- Note that this module sent a notice of an operation now. -/
def State.noteSent (s : State) (op : OpId) : State :=
  if op.ph = 0 then s else s.setAttempt { s.attempt op with noted := s.time }

/-- Note the REPLAY or ABORT that this module sent (R310). -/
def State.noteMine (s : State) (op : OpId) (kind value : Nat) : State :=
  if op.ph = 0 then s else s.setAttempt { s.attempt op with mine := some (kind, value), noted := s.time }

/-- Send the SEAL of this module's part of an attempt, with its present count (R310). -/
def State.sendSeal (s : State) (op : OpId) : State :=
  let o := s.ownSeal op
  (s.noticeAll noticeSeal op (s.attempt op).raise o.1 o.2 0).noteSent op

/-! ## Abandoning (R40, R176) -/

/-- A slot becomes EMPTY (R97). -/
def State.emptySlot (s : State) (c : Fin 256) (i : A3) : State :=
  let s := s.setReg (.coreAtstat c i) (BitVec.ofNat 64 (2 ^ 13 + b2n (s.slotBusy c i) * 2 ^ 32))
  { s with core := { s.core with slots := s.core.slots.del ⟨c, i⟩ } }

/-- A slot's contents. -/
def State.slot (s : State) (c : Fin 256) (i : A3) : Slot := s.core.slots.get ⟨c, i⟩ Slot.empty

/-- Set a slot's contents. -/
def State.setSlot (s : State) (c : Fin 256) (i : A3) (v : Slot) : State :=
  { s with core := { s.core with slots := s.core.slots.set ⟨c, i⟩ v } }

/-- The slots of a core that an attempt wrote. -/
def State.slotsOf (s : State) (x : CtxId) (b : Bracket) : List A3 :=
  (List.finRange 8).filter fun i => (s.slot x.core i).writer == some (x.n, b.serial, b.raise)

/-- Stop the streams that a bracket started; its background operations complete without adding to a cleat, and a cleat signal of it
that is still held is dropped (R176). -/
def State.stopBracket (s : State) (x : CtxId) (b : Bracket) : State :=
  let one (g : Bg) : Bg :=
    if g.x = x ∧ g.bracket = some b.serial then
      { g with muted := true, kind := match g.kind with
          | .stream t => .stream { t with stopped := true }
          | k => k }
    else g
  { s with core := { s.core with
      bg := (s.core.bg.map one).filter fun g => match g.kind with
        | .stream t => !(g.muted && t.started == t.completed)
        | _ => true
      signals := s.core.signals.filter fun h => !(h.x == x && h.bracket == some b.serial) } }

/-- Restore the cleats of a replay image. -/
def State.restoreCleats (s : State) (x : CtxId) (m : Image) : State :=
  forAll m.cleats s fun s q =>
    let s := { s with core := { s.core with heldAdds := s.core.heldAdds.filter fun h => !(h.1 == x.core && h.2.1 == q.1) } }
    s.setReg (.clt x.core q.1) q.2

/-- The raise count that an operation of a context reached: for the comparison of recompute pairs (R207), and for its raise table
where it has one (R43). -/
def State.noteRaise (s : State) (x : CtxId) (tag : OpTag) (n : Nat) : State :=
  let v := (s.ctx x).latch.xraise
  let s := { s with core := { s.core with reached := s.core.reached.set tag.toNat (max n (s.core.reached.get tag.toNat 0)) } }
  if getBits v F.xraise_EN = 0 then s
  else
    let k := (getBits v F.xraise_BASE, tag.toNat)
    { s with core := { s.core with raised := s.core.raised.set k (max n (s.core.raised.get k 0)) } }

/-- A context abandons its attempt and starts again at raise count `n` (R44, R176). -/
def State.abandon (s : State) (x : CtxId) (n : Nat) : State :=
  match (s.ctx x).bracket with
  | none => s
  | some b =>
    let s := s.stopBracket x b
    let s := forAll (s.slotsOf x b) s fun s i => s.emptySlot x.core i
    let s := s.restoreCleats x b.image
    let c := s.ctx x
    let s := s.setCtx x { c with sreg := b.image.sreg, pred := b.image.pred, tile := b.image.tile, layer := b.image.layer,
                                 mbatch := b.image.mbatch, wait := none }
    let s := (s.dropRun x).setPc x b.image.pc
    let s := if s.ctxState x = 4 ∨ s.ctxState x = 5 then s else s.setCtxState x 1
    let s := s.setBracket x (some { b with raise := n, anchor := none, ended := none, sealed := false, nans := 0,
                                           wrote := [], tiles := 0, spots := 0, failed := false })
    let s := s.noteRaise x b.op.tag n
    let i : Ins := { x := x, op := 0x9C, words := 1, tag := b.op.tag, iaddr := b.image.pc, layer := b.image.layer,
                     mbatch := b.image.mbatch, step := b.op.step, raise := b.raise }
    ((s.setFld (.opst x.core x.n) F.opst_SEALED 0).trace 5 i n).pmu 0x08 (clusterOf x.core) (some i) 1

/-- Discard what the collectives of an operation have collected in an attempt (R40). -/
def State.dropAttempt (s : State) (op : OpId) : State :=
  let one (c : Coll) : Coll :=
    if c.op = op then { c with parts := [], sent := [], chunks := [], waiting := [] } else c
  { s with plt := { s.plt with
      colls := s.plt.colls.map one
      slots := s.plt.slots.filter fun r => !(r.ph == op.ph && r.op == op.tag && (s.plt.colls.any fun c =>
        c.op == op && c.ph == r.ph && c.seq == r.seq)) } }

/-- Every participant here that runs an earlier attempt abandons it and starts again at raise count `n` (R41, R44). -/
def State.replayTo (s : State) (op : OpId) (n : Nat) : State :=
  let l := (s.participants op).filter fun x => match (s.ctx x).bracket with
    | some b => decide (b.raise < n)
    | none => false
  let s := s.dropAttempt op
  let s := if op.ph = 0 then s else s.setAttempt (Attempt.new op n)
  forAll l s fun s x => s.abandon x n

/-- Every participant here abandons the attempt with raise count `n` and starts again at n + 1 (R41). -/
def State.replay (s : State) (op : OpId) (n : Nat) : State := s.replayTo op (n + 1)

/-- Set the V bit of a sum record in a packet's payload (R47). -/
def Packet.markV (k : Packet) : Packet := { k with payload := k.payload.modify 5 fun b => b ||| 4 }

/-- Mark V in every sum record of an attempt that this module has yet to send (R39). -/
def State.markSums (s : State) (op : OpId) (raise : Nat) : State :=
  let mine (k : Packet) : Bool := k.typ == 0x0A && k.src == s.lmn && k.optag == op.tag &&
    (k.payload.getD 5 0).toNat % 4 == raise % 4 &&
    s.plt.colls.any fun c => c.op == op && c.ph == k.ph && c.seq == k.seq
  let mark (k : Packet) : Packet := if mine k then k.markV else k
  { s with fab := { s.fab with
      inject := s.fab.inject.map mark
      ejected := s.fab.ejected.map fun q => if q.1.isNone then (q.1, mark q.2) else q } }

/-! ## The fallback (R42) -/

/-- Make a slot a part of a result of the fallback: SINF, its RAISE and ANCHOR those of the final attempt. -/
def State.sinfSlot (s : State) (c : Fin 256) (i : A3) (anchor : Int) (raise : Nat) : State :=
  let s := s.setFld (.coreAtstat c i) F.coreAtstat_SINF 1
  let s := s.setFld (.coreAtstat c i) F.coreAtstat_ANCHOR (unsigned 12 anchor)
  s.setFld (.coreAtstat c i) F.coreAtstat_RAISE raise

/-- Participants of an operation here to whose brackets the fallback has not been applied. -/
def State.beforeFallback (s : State) (op : OpId) : List CtxId :=
  (s.participants op).filter fun x => match (s.ctx x).bracket with
    | some b => !b.fallback
    | none => false

/-- The fallback applies to the brackets of an operation here; a slot that they wrote holds a part of its result. -/
def State.markFallback (s : State) (op : OpId) (anchor : Int) : State :=
  let l := s.beforeFallback op
  let s := forAll l s fun s x => match (s.ctx x).bracket with
    | none => s
    | some b =>
      let s := forAll (s.slotsOf x b) s fun s i => s.sinfSlot x.core i anchor b.raise
      s.setBracket x (some { b with fallback := true })
  forAll (l.map CtxId.core).eraseDups s fun s c => s.count (.xrplcnt c) F.xrplcnt_FALLBACKS 1

/-- The fallback applies to an operation on this module: every part of its result is +∞, and its brackets go on to
commit. `anchor` is the last anchor tried. Its event is raised once. -/
def State.applyFallback (s : State) (op : OpId) (anchor : Int) (layer : BitVec 16) (d : Fin 2) : State :=
  let told := if op.ph = 0 then s.beforeFallback op == [] else (s.attempt op).fallback.join.isSome
  let s := s.markFallback op anchor
  let s := if op.ph = 0 then s else s.setAttempt { s.attempt op with fallback := some (some anchor) }
  if told then s
  else
    let s := s.tally fun c => { c with fallbacks := c.fallbacks + 1 }
    s.raiseEv d 5 0x102 [(2, op.tag.toNat), (2, layer.toNat), (4, op.step.toNat), (1, op.mbatch.toNat),
      (2, unsigned 16 anchor)]

/-! ## Overflow (R38-R42) -/

/-- An instruction finds that its attempt overflows: at raise count 3 the fallback, otherwise a replay. -/
def State.overflow (s : State) (i : Ins) (b : Bracket) (anchor : Int) (elem : Nat) : State :=
  let fb := b.raise = 3
  let c := i.x.core
  let s := s.setReg (.xlastov c) (BitVec.ofNat 64 (b.op.tag.toNat + unsigned 12 anchor * 2 ^ 16 + b.raise % 4 * 2 ^ 28 +
    b2n fb * 2 ^ 30 + 2 ^ 31 + b.op.step.toNat * 2 ^ 32))
  let s := (s.noticeAll noticeReplay b.op b.raise 0 0 0).markSums b.op b.raise
  if fb then (s.applyFallback b.op anchor i.layer (dieOf c)).noteMine b.op noticeReplay b.raise
  else
    let s := (s.count (.xrplcnt c) F.xrplcnt_RAISES 1).tally fun c => { c with replays := c.replays + 1 }
    let s := s.raiseEv (dieOf c) 5 0x101 [(2, b.op.tag.toNat), (2, i.layer.toNat), (4, b.op.step.toNat), (1, b.op.mbatch.toNat),
      (2, unsigned 16 anchor), (2, unsigned 16 (anchor + 32)), (5, elem)]
    (s.replay b.op b.raise).noteMine b.op noticeReplay b.raise

/-! ## Aborts (R177, R312, R313) -/

/-- A context abandons its attempt without starting again: nothing of it stays, and its op.end never commits. The context
issues nothing more until it is reset (log entry 21). -/
def State.abortCtx (s : State) (x : CtxId) : State :=
  match (s.ctx x).bracket with
  | none => s
  | some b =>
    let s := s.stopBracket x b
    let s := forAll (s.slotsOf x b) s fun s i => s.emptySlot x.core i
    let s := s.restoreCleats x b.image
    let s := s.dropRun x
    let s := if s.ctxState x = 4 ∨ s.ctxState x = 5 then s else (s.setCtxState x 2).setWait x (some .opEnd)
    let s := s.setBracket x (some { b with aborted := true, wrote := [], nans := 0 })
    let i : Ins := { x := x, op := 0x9C, words := 1, tag := b.op.tag, iaddr := b.image.pc, layer := b.image.layer,
                     mbatch := b.image.mbatch, step := b.op.step, raise := b.raise }
    s.trace 5 i (b.raise % 4 + 4)

/-- An attempt is aborted on this module with a cause: participants that do not hold it sealed abandon it (R312). -/
def State.abortOp (s : State) (op : OpId) (cause : Nat) : State :=
  if s.opSealed op || (s.attempt op).cause.isSome then s
  else
    let l := s.participants op
    let a := s.attempt op
    let s := if op.ph = 0 then s else s.setAttempt { a with cause := some cause }
    let s := forAll l s fun s x => s.abortCtx x
    let s := s.dropAttempt op
    let s := forAll (s.plt.colls.filter fun c => c.op == op && !c.closed) s fun s c => s.traceColl c 4
    let s := { s with plt := { s.plt with colls := s.plt.colls.map fun c => if c.op = op then { c with closed := true } else c } }
    let s := if op.ph = 0 then s else s.count .hubPltcnt F.hubPltcnt_ABORTS 1
    if op.ph ≠ 0 ∧ (cause = 1 ∨ cause = 2 ∨ cause = 5) then s.svcHold 3 else s

/-- Abort an attempt here and at every other member (R313). -/
def State.abortAll (s : State) (op : OpId) (cause : Nat) : State :=
  if s.opSealed op then s
  else ((s.noticeAll noticeAbort op (s.attempt op).raise 0 0 cause).abortOp op cause).noteMine op noticeAbort cause

end Sys2Proof.Machine
end

