-- ==== Sys2Proof/Machine/Tiles.lean ====
section
/-!
DEFINITION. Tiles (R105): their start and end, the comparison of slot copies at a tile's end (R336, R337), the selection of
tiles for spot checks (R338, R339), and captures of a tile (R347).
-/

namespace Sys2Proof.Machine

/-! ## Spot cores and captures -/

/-- The usable core of a cluster at or after core number `j`, modulo 16. -/
def State.usableFrom (s : State) (k : Fin 16) (j : Nat) : Option (Fin 256) :=
  ((List.range 16).map fun m => coreOf k (Fin.ofNat _ (j + m))).find? fun c => s.flag (.coreCstat c) F.coreCstat_USABLE

/-- The spot core of a core (R339). -/
def State.spotCore (s : State) (c : Fin 256) : Fin 256 :=
  let k := (clusterOf c).val
  let cl (m : Nat) : Fin 16 := Fin.ofNat _ (k / 8 * 8 + (k % 8 + 4 + m) % 8)
  ((List.range 8).filterMap fun m => s.usableFrom (cl m) (c.val % 16)).headD (coreOf (cl 0) (Fin.ofNat _ (c.val % 16)))

/-! ## The Tandem copy of a tile (R118) -/

/-- The Yalar-1 core that repeats the tiles of a Yalar-0 core: none where Yalar-1 has no usable core. -/
def State.tandemCore (s : State) (c : Fin 256) : Option (Fin 256) :=
  (List.range 8).findSome? fun m => s.usableFrom (Fin.ofNat _ (8 + ((clusterOf c).val % 8 + 3 + m) % 8)) (c.val % 16 + 5)

/-- The engine that computes, in a copy, the quadrant of an engine. -/
def tandemEngine (e : Fin 4) : Fin 4 := Fin.ofNat _ (e.val + 1)

/-- The lane that computes, in a copy, the element of a lane. -/
def tandemLane (l : Fin 256) : Fin 256 := Fin.ofNat _ (l.val ^^^ 0x5A)

/-- Where a copy computes an element of a slot, by 32 * row + column: its engine and its lane. -/
def tandemPlace (idx : Nat) : Fin 4 × Fin 256 :=
  let r := idx / 32 % 32
  let c := idx % 32
  (tandemEngine (Fin.ofNat _ (r / 16 * 2 + c / 16)), tandemLane (Fin.ofNat _ (r % 16 * 16 + c % 16)))

/-- The segments of K terms that a copy runs, of `g` terms to a clock, in the order in which it runs them: last to first. -/
def tandemSegments (g k : Nat) : List (Nat × Nat) :=
  let w := 43750 * max g 1
  ((List.range ((k + w - 1) / w)).map fun i => (w * i, min k (w * (i + 1)))).reverse

/-- Terms of an instruction's reduction per engine clock (R101, R109), 0 where it has none. -/
def TileRun.terms (t : TileRun) : Nat :=
  match t.descs.head? with
  | some d => if t.slot.isNone then 0 else if d.fmt = 0 then 32 else if d.fmt ≤ 3 then 16 else if d.fmt ≤ 5 then 8 else 1
  | none => 0

/-- The cores that count what a context's tile does: its own, and in Tandem mode the one that repeats it. The terms, and so the
escapes and roundings, are the same, whichever engine and lane has them and in whichever order the segments run. -/
def State.tileCores (s : State) (x : CtxId) : List (Fin 256) :=
  x.core :: (((s.ctx x).run.bind TileRun.copy).toList)

/-- The copy of a tile ends with it. -/
def State.copyEnds (s : State) (t : TileRun) : State :=
  match t.copy with
  | some c => s.setReg (.coreTend c) (BitVec.ofNat 64 s.time)
  | none => s

/-- Whether a spot check selects a tile (R338): an accumulating quad instruction whose dither word is small enough. -/
def State.spotSelected (s : State) (t : TileRun) : Bool :=
  let k := s.fld .intSpotctl F.intSpotctl_K
  let d := dither t.seed (t.ins.tag.zeroExtend 24) (BitVec.ofNat 40 (t.ins.x.core.val * 2 ^ 32 + t.number)) 0xFFFFFFFD
  t.slot.isSome && t.ins.op != 0xA3 && k != 0 && decide (d.toNat < 2 ^ (32 - k))

/-- Base address of a capture slot (R347), where the capture region is in use. -/
def State.capSlot (s : State) (n : Nat) : Option Nat :=
  if s.flag .intCap F.intCap_EN = true ∧ n < 32 * s.fld .intCap F.intCap_SIZE then
    some (s.fld .intCap F.intCap_BASE * 2 ^ 26 + n * 2 ^ 21)
  else none

/-- A capture slot for a capture in flight: the lowest free one of slots 0-31. -/
def State.freeCap (s : State) : Option Nat :=
  (List.range 32).find? fun n => !s.int.caps.contains n && (s.capSlot n).isSome

/-- Row bytes and auxiliary row bytes of a captured window: rows packed at multiples of 64 bytes (log entry 31). -/
def capPitch (d : Desc) : Nat := (fmtBytes d.fmt d.cols + 63) / 64 * 64

/-- Auxiliary rows of a window. -/
def Desc.auxRows (d : Desc) : Nat :=
  match d.aux with
  | .none => 0
  | .rows => (d.rows + 31) / 32
  | _ => d.rows

/-- The planes of a captured window. -/
def State.capPlanes (s : State) (d : Desc) : List Byte :=
  let pad (n : Nat) (l : List Byte) : List Byte := l ++ List.replicate (n - l.length) 0
  ((List.range d.rows).map fun r => pad (capPitch d) (s.bytes (lowAddr d.d0 + r * d.pitch) (fmtBytes d.fmt d.cols))).flatten ++
  ((List.range d.auxRows).map fun r => s.bytes (lowAddr d.d1 + r * d.spitch) (d.aux.bytes d.cols)).flatten ++
  (if d.hasHdr then s.bytes (lowAddr d.d2) 16 else [])

/-- The bytes of the operand windows of a tile (R338). -/
def operandBytes (l : List Desc) : Nat :=
  l.foldl (fun n d => n + d.rows * fmtBytes d.fmt d.cols + d.auxRows * d.aux.bytes d.cols + (if d.hasHdr then 16 else 0)) 0

/-- A captured operand descriptor: its planes follow one another from `at_`, relative to byte 4,096. -/
def capDesc (d : Desc) (at_ : Nat) : Desc :=
  let e := d.rows * capPitch d
  let x := d.auxRows * d.aux.bytes d.cols
  { d with
    d0 := BitVec.ofNat 64 at_
    d1 := if d.aux = .none then 0 else BitVec.ofNat 64 (at_ + e)
    d2 := if d.hasHdr then BitVec.ofNat 64 (at_ + e + x) else 0
    d5 := putBits d.d5 (32, 24) (capPitch d)
    d6 := putBits d.d6 (32, 24) (d.aux.bytes d.cols) }

/-- Bytes of a captured window. -/
def capBytes (d : Desc) : Nat := d.rows * capPitch d + d.auxRows * d.aux.bytes d.cols + (if d.hasHdr then 16 else 0)

/-- Write a capture slot (R347) for a unit: the parameters of a tile, its operand descriptors and planes. -/
def State.writeCapture (s : State) (n unit : Nat) (t : TileRun) : State :=
  match s.capSlot n with
  | none => s
  | some a =>
    let ops := t.descs.dropLast
    let out := t.descs.getLastD Desc.zero
    let term := match ops.head? with
      | some d => d.view.coloff
      | none => 0
    let placed := ops.foldl (fun (q : Nat × List Desc) d => (q.1 + (capBytes d + 63) / 64 * 64, q.2 ++ [capDesc d q.1])) (0, [])
    let head := toBytes 8 unit ++ toBytes 2 (t.ins.op + t.emask * 256) ++ toBytes 2 (t.amode % 4 + t.rnd % 4 * 4 + t.ins.raise % 4 * 16) ++
      toBytes 2 (unsigned 12 t.anchor) ++ toBytes 2 0 ++ toBytes 4 t.seed.toNat ++ toBytes 4 out.tid ++
      toBytes 8 (out.rowoff * out.lcols + out.coloff) ++ toBytes 4 term ++ toBytes 4 t.k ++ toBytes 8 out.d3.toNat ++
      toBytes 8 out.d4.toNat ++ toBytes 8 out.d5.toNat ++ (placed.2.flatMap Desc.bytes).take 128
    let pad (m : Nat) (l : List Byte) : List Byte := l ++ List.replicate (m - l.length) 0
    let planes := ops.flatMap fun d => pad ((capBytes d + 63) / 64 * 64) (s.capPlanes d)
    (((s.writeMem .hub a (pad 4096 head)).1.writeMem .hub (a + 4096) planes).1).background 3 (4096 + planes.length) 0 0

/-- Capture a tile into a slot in flight. -/
def State.capture (s : State) (t : TileRun) : State × Option Nat :=
  match s.freeCap with
  | none => (s, none)
  | some n => (({ s with int := { s.int with caps := n :: s.int.caps, capTag := s.int.capTag.set n t.ins.tag.toNat } }).writeCapture n 0 t, some n)

/-! ## Starts and ends -/

/-- Change the bracket that a tile belongs to. -/
def State.noteTile (s : State) (x : CtxId) (f : Bracket → Bracket) : State :=
  match (s.ctx x).bracket with
  | some b => s.setCtx x { s.ctx x with bracket := some (f b) }
  | none => s

/-- The pair comparison at a tile's end (R337): `bad` is the lower engine of the pair whose slot and copy differ. -/
def State.pairCompare (s : State) (x : CtxId) (t : TileRun) (bad : Option (Fin 4)) : State :=
  let c := x.core
  if s.flag (.corePairctl c) F.corePairctl_ACTIVE = false ∨ t.slot = none ∨ t.ins.op = 0xA3 then s
  else
    let s := s.count (.corePaircnt c) F.corePaircnt_TILES 1
    match bad with
    | none => s
    | some e =>
      let s := (s.count (.corePaircnt c) F.corePaircnt_MIS 1).wrap (.cluUerr (clusterOf c)) F.cluUerr_DETECT 1
      let (s, n) := s.capture t
      let s := s.noteTile x fun b => { b with failed := true }
      s.raiseEv (dieOf c) 4 0x8010 [(2, c.val), (1, e.val), (1, e.val ^^^ 1), (2, t.ins.tag.toNat), (4, t.ins.step.toNat),
        (2, n.getD 0xFFFF)]

/-- A selected tile is captured for its spot check (R338); a tile that cannot be is counted. -/
def State.spotCapture (s : State) (x : CtxId) (t : TileRun) : State :=
  if s.spotSelected t = false then s
  else if 2 ^ 20 < operandBytes t.descs.dropLast then s.count .intSpotcnt F.intSpotcnt_SKIP 1
  else match s.capture t, (s.ctx x).bracket with
    | (s, some n), some b =>
      let q : Spot := { x := x, serial := b.serial, raise := b.raise, tile := t, cap := n, core := s.spotCore x.core }
      ({ s with int := { s.int with spots := s.int.spots ++ [q] } }).noteTile x fun b => { b with spots := b.spots + 1 }
    | (s, some n), none => { s with int := { s.int with caps := s.int.caps.filter fun m => m != n } }
    | (s, none), _ => s.count .intSpotcnt F.intSpotcnt_SKIP 1

/-- Whether the clock of the cluster that runs a context's tiles stands, as in a forced Freewheel (R359). -/
def State.clockStands (s : State) (x : CtxId) : Bool :=
  match s.moved.find? fun m => m.x == x with
  | some m => match m.dest with
    | some y => s.pstate (clusterOf y.core) == 1
    | none => s.pstate (clusterOf x.core) == 1
  | none => s.pstate (clusterOf x.core) == 1

/-- The step that the step service runs or ran last. -/
def State.svcStep (s : State) : Nat := s.fld .hubSvcstat F.hubSvcstat_STEP

/-- A hardware error made Yalar-1's results differ from Yalar-0's, by an amount that nothing constrains (R340). -/
def State.astray (s : State) : State :=
  let r := Config.otherDigest s.free
  { s with int := { s.int with digest1 := s.int.digest1 + (if r = 0 then 1 else r) }, free := s.free + 1 }

/-- The comparison of a tile with its Tandem copy (R118, R342): `bad` is the engine whose contribution differs. In the rerun that
captures the culprit's tiles, the tile is captured, and its capture is kept for the vote where the contributions differ. -/
def State.tandemCompare (s : State) (t : TileRun) (bad : Option (Fin 4)) : State :=
  if s.tandem = false ∨ t.copy = none ∨ t.slot = none ∨ s.flag (.corePairctl t.ins.x.core) F.corePairctl_ACTIVE = true then s
  else
    let s := if bad.isSome then s.astray else s
    if s.int.rerun ≠ 2 ∨ s.int.culprit ≠ some t.ins.tag then s
    else match s.capture t with
      | (s, some n) => if bad.isSome then s else { s with int := { s.int with caps := s.int.caps.filter fun m => m != n } }
      | (s, none) => s

/-- The engine clocks after which a tile ends (R105). -/
def State.tileLimit (s : State) : Nat := if s.phase = 3 then 87500 else 43750

/-- A tile starts: the context latches its registers, and the start is traced (R105, R447). -/
def State.traceStart (s : State) (t : TileRun) : State :=
  s.trace 1 t.ins (t.ins.iaddr + t.ins.op * 2 ^ 48 + min t.index 255 * 2 ^ 56 + unsigned 12 t.anchor * 2 ^ 64)

/-- The instruction's next tile starts where it left off (R105). -/
def State.nextTile (s : State) (x : CtxId) (t : TileRun) : State :=
  let s := s.startTile x
  let c := s.ctx x
  let n := (c.bracket.map Bracket.tiles).getD 0
  let t := { t with number := n, left := t.left - 1, index := t.index + 1, clocks := t.clocks - s.tileLimit, seed := c.latch.seed.truncate 32 }
  let s := (s.setCtx x { c with run := some t }).latchWatch x.core
  (if t.slot.isSome && t.ins.op != 0xA3 then s.noteTile x fun b => { b with tiles := n + 1 } else s).traceStart t

/-- The tile that a context runs ends (R105). The instruction's next tile starts, or where it has none the instruction is
complete and the context latches its registers. Escape and cog-wait clocks are traced with the instruction's last tile. -/
def State.endTile (s : State) (x : CtxId) (bad : Option (Fin 4)) : State :=
  match (s.ctx x).run with
  | none => s
  | some t => if s.clockStands x then s else
    let clocks := if t.left = 0 then t.clocks else min t.clocks s.tileLimit
    let whole (n : Nat) : Nat := if t.left = 0 then n % 2 ^ 32 else 0
    let s := s.trace 2 t.ins (clocks % 2 ^ 32 + whole t.escapes * 2 ^ 32 + whole t.cogs * 2 ^ 64)
    let s := s.setReg (.coreTend x.core) (BitVec.ofNat 64 s.time)
    let s := (((s.pairCompare x t bad).tandemCompare t bad).spotCapture x t).copyEnds t
    if t.left = 0 then (s.dropRun x).startTile x else s.nextTile x t

/-- Every tile of the instruction that a context runs ends. -/
def State.endTiles (s : State) (x : CtxId) : State :=
  forAll (List.range (((s.ctx x).run.map fun t => t.left + 1).getD 0)) s fun s _ => s.endTile x none

/-- What a tile runs with, beside its operands: its engine clocks with its longest engine's escapes among them, every engine's escapes,
the clocks that it loses to cog conflicts, and in `busy` a slot that it reads. -/
structure TileInfo where
  anchor : Int
  clocks : Nat
  escapes : Nat
  cogs : Nat
  emask : Nat
  amode : Nat
  rnd : Nat
  k : Nat
  busy : Option A3

/-- A tile that forms no product. -/
def TileInfo.plain (anchor : Int) (clocks : Nat) : TileInfo := ⟨anchor, clocks, 0, 0, 0, 0, 0, 0, none⟩

/-- A tile that reads a slot. -/
def TileInfo.reads (anchor : Int) (i : A3) : TileInfo := { TileInfo.plain anchor 0 with busy := some i }

/-- How many tiles an instruction of so many engine clocks takes after its first (R105). -/
def State.tilesAfter (s : State) (clocks : Nat) : Nat := (clocks + s.tileLimit - 1) / s.tileLimit - 1

/-- An instruction's first tile starts (R105): the tiles of the one before it have ended, the context latches its registers, and
the start is traced (R447). In Tandem mode a Yalar-1 core repeats it (R118). -/
def State.tileStarts (s : State) (i : Ins) (descs : List Desc) (ad : Option A3) (f : TileInfo) : State :=
  let s := (s.endTiles i.x).startTile i.x
  let c := s.ctx i.x
  let slot := ad.map fun a => (a, s.slot i.x.core a, s.reg (.coreAtstat i.x.core a))
  let t : TileRun :=
    { ins := i, number := (c.bracket.map Bracket.tiles).getD 0, descs := descs, slot := slot, busy := ad.or f.busy,
      left := s.tilesAfter f.clocks, copy := if s.tandem && dieOf i.x.core == 0 then s.tandemCore i.x.core else none,
      index := 0, clocks := f.clocks, escapes := f.escapes, cogs := f.cogs, emask := f.emask, amode := f.amode, rnd := f.rnd, anchor := f.anchor,
      k := f.k, seed := c.latch.seed.truncate 32 }
  let s := (s.setCtx i.x { c with run := some t }).latchWatch i.x.core
  (match t.busy with
    | some a => s.showBusy i.x.core a
    | none => s).traceStart t

end Sys2Proof.Machine
end

