-- ==== Sys2Proof/Machine/Accumulate.lean ====
section
/-!
DEFINITION. What the accumulating instructions share: the checks of bracket, slot and operation table (R152, R172, R181), the
attempt's anchor (R29-R32, R174), exact sums (R20, R38), and the outcome of forming them: an overflow, a first-NaN trap or a
commit into the slot (R87-R90, R98, R181).
-/

namespace Sys2Proof.Machine

/-- The operand pairs (R22, R101): formats of A and B, terms per group, base granularity, latency. -/
structure PairInfo where
  fa : Nat
  fb : Nat
  g : Nat
  gran : Option Int
  latency : Nat

/-- The table "Product grids" with the latencies of R101. -/
def pairInfo : Pair → PairInfo
  | .s4 => ⟨0, 0, 32, some (-2), 12⟩
  | .s8e4 => ⟨1, 1, 16, some (-18), 12⟩
  | .s8e4e5 => ⟨1, 2, 16, some (-25), 12⟩
  | .s8e5e4 => ⟨2, 1, 16, some (-25), 12⟩
  | .i8 => ⟨3, 3, 16, some 0, 12⟩
  | .bf16 => ⟨4, 4, 8, none, 14⟩
  | .fp16 => ⟨5, 5, 8, none, 14⟩
  | .fp32 => ⟨6, 6, 1, none, 16⟩

/-- Place of a pair in opcode order (R171). -/
def pairCode : Pair → Nat
  | .s4 => 0
  | .s8e4 => 1
  | .s8e4e5 => 2
  | .s8e5e4 => 3
  | .i8 => 4
  | .bf16 => 5
  | .fp16 => 6
  | .fp32 => 7

/-- The context that owns a slot (R97): the one SQACC names, or the one before while a change has not taken effect. -/
def State.slotOwner (s : State) (c : Fin 256) (i : A3) : Fin 4 :=
  s.core.owners.get ⟨c, i⟩ (Fin.ofNat _ (s.fld (.coreSqacc c) (2 * i.val, 2)))

/-- A context owns a slot. -/
def State.owns (s : State) (x : CtxId) (i : A3) : Bool := s.slotOwner x.core i == x.n

/-- A slot is EMPTY. -/
def State.slotEmpty (s : State) (c : Fin 256) (i : A3) : Bool := s.flag (.coreAtstat c i) F.coreAtstat_EMPTY

/-- The sticky infinity flag of a slot. -/
def State.slotSinf (s : State) (c : Fin 256) (i : A3) : Bool := s.flag (.coreAtstat c i) F.coreAtstat_SINF

/-- The anchor of a slot. -/
def State.slotAnchor (s : State) (c : Fin 256) (i : A3) : Int := signed 12 (s.fld (.coreAtstat c i) F.coreAtstat_ANCHOR)

/-- The op tag of a slot. -/
def State.slotTag (s : State) (c : Fin 256) (i : A3) : BitVec 16 :=
  BitVec.ofNat 16 (s.fld (.coreAtstat c i) F.coreAtstat_OPTAG)

/-- An element of a slot as a reader sees it: under SINF every element is +∞ (R42). -/
def State.slotElem (s : State) (c : Fin 256) (i : A3) (idx : Nat) : Elem :=
  if s.slotSinf c i then ⟨0, .pinf⟩
  else
    let e := (s.slot c i).elems.get idx Elem.zero
    if e.st = .fin then e else ⟨0, e.st⟩

/-- An instruction names a4-a7 while its core keeps copies there (R336). -/
def State.pairedAway (s : State) (c : Fin 256) (i : A3) : Bool :=
  decide (4 ≤ i.val) && s.flag (.corePairctl c) F.corePairctl_ACTIVE

/-- The operand faults of an accumulating instruction that come from its bracket and its slot (R97, R147, R172, R181). -/
def State.accFaults (s : State) (i : Ins) (ad : A3) (z : Bool) : List Flt :=
  let bad := match (s.ctx i.x).bracket with
    | none => true
    | some b => i.tag == 0 || b.op.tag != i.tag ||
        (s.owns i.x ad && !z && !s.slotEmpty i.x.core ad &&
          (s.slot i.x.core ad).writer != some (i.x.n, b.serial, b.raise))
  if bad || !s.owns i.x ad || s.pairedAway i.x.core ad then [Flt.operand 0 0] else []

/-- The placement fault of R152. -/
def State.entryFaults (s : State) (i : Ins) (amode rnd : Nat) (tc : Desc) (k : Nat) : List Flt :=
  match s.opEntry i.x i.tag with
  | none => [Flt.placement 5]
  | some e => if e.amode = amode ∧ e.rnd = rnd ∧ e.tid = tc.tid ∧ e.lrows = tc.lrows ∧ e.lcols = tc.lcols ∧ e.k = k then []
      else [Flt.placement 5]

/-- The explicit anchor of an operation (R29, R150). -/
def State.explicitAnchor (s : State) (i : Ins) : Int := ((s.opEntry i.x i.tag).map OpEntry.anchor).getD 0

/-- The rounding mode in effect (R33). -/
def roundMode (rnd : Nat) (l : Latch) (k : Nat) : Rnd :=
  let m := if rnd = 3 then getBits l.xctl F.xctl_RND else rnd
  if m = 1 then .rne
  else if m = 2 then .dither
  else if k ≤ 2 ^ getBits l.xctl F.xctl_DTLOG then .rne else .dither

/-- The anchor of an attempt from the anchor of an instruction's mode (R32, R174): none when the start is forbidden or the
fallback already applies; an operand fault when it differs from the attempt's. -/
def attemptAnchor (b : Bracket) (a0 : Int) : Except Flt (Option Int) :=
  if b.fallback then .ok none
  else
    let a := startAnchor a0 b.raise
    match b.anchor with
    | some a' => if a' = a then .ok (some a) else .error (.operand 0 0)
    | none => if 2047 < a then .ok none else .ok (some a)

/-- The last anchor tried of a final attempt (R42). -/
def lastAnchor (b : Bracket) (a0 : Int) : Int := match b.anchor with
  | some a => a
  | none => min (startAnchor a0 b.raise) 2047

/-! ## Sums -/

/-- What the terms of one element come to. -/
structure Sum where
  k : Int
  st : ElState
  rounded : Nat
  ovf : Bool
  deriving DecidableEq, Repr

/-- No terms. -/
def Sum.zero : Sum := ⟨0, .fin, 0, false⟩

/-- Add one term (R19, R20, R38). -/
def Sum.add (a : Int) (r : Rnd) (k : Nat) (co : Nat → Coord) (s : Sum) (p : Num × Nat) : Sum :=
  match p.1 with
  | .nan => { s with st := .nan }
  | .inf n => { s with st := s.st.join (if n then .ninf else .pinf) }
  | .fin n m e =>
    if m = 0 then s
    else
      let g := onGrid n m e a r (co p.2)
      ⟨s.k + g.1, s.st, s.rounded + b2n g.2, s.ovf || overflows g.1 k⟩

/-- The grid value of a term, for the escape check of R26; 0 where it is not finite. -/
def gridValue (a : Int) (r : Rnd) (co : Nat → Coord) (p : Num × Nat) : Int :=
  match p.1 with
  | .fin n m e => if m = 0 then 0 else (onGrid n m e a r (co p.2)).1
  | _ => 0

/-- The terms of one slot element: its place in the slot, its linear index in the output tensor, and each product with its
term index. -/
structure Cell where
  idx : Nat
  elem : Nat
  terms : List (Num × Nat)
  deriving DecidableEq, Repr

/-- An accumulating instruction that is ready to form its terms. -/
structure AccOp where
  i : Ins
  b : Bracket
  l : Latch
  ad : A3
  fresh : Bool
  anchor : Int
  k : Nat
  rnd : Rnd
  tc : Desc
  emask : Nat
  deriving DecidableEq, Repr

/-- The dither coordinates of an element's terms (R35). -/
def AccOp.coord (q : AccOp) (elem term : Nat) : Coord :=
  ⟨q.l.seed.truncate 32, BitVec.ofNat 24 q.tc.tid, BitVec.ofNat 40 elem, BitVec.ofNat 32 term⟩

/-- The sum of a cell's terms. -/
def AccOp.sum (q : AccOp) (c : Cell) : Sum := c.terms.foldl (Sum.add q.anchor q.rnd q.k (q.coord c.elem)) Sum.zero

/-- Give a slot to an attempt (R98, R181, R184). -/
def State.claimSlot (s : State) (q : AccOp) (sinf : Bool) (elems : Map Nat Elem) : State :=
  let c := q.i.x.core
  let s := s.setSlot c q.ad { elems := elems, writer := some (q.i.x.n, q.b.serial, q.b.raise), step := q.i.step }
  s.setReg (.coreAtstat c q.ad) (BitVec.ofNat 64 (unsigned 12 q.anchor + b2n sinf * 2 ^ 12 + q.b.raise % 4 * 2 ^ 14 +
    q.i.tag.toNat * 2 ^ 16 + b2n (s.slotBusy c q.ad) * 2 ^ 32))

/-- Note in the bracket what an instruction of the attempt wrote and the NaNs it met. -/
def State.noteBracket (s : State) (q : AccOp) (nans : Nat) : State :=
  match (s.ctx q.i.x).bracket with
  | none => s
  | some b => s.setBracket q.i.x (some { b with
      anchor := if b.fallback then b.anchor else some q.anchor
      nans := b.nans + nans
      wrote := b.wrote ++ [⟨q.ad, q.i, q.tc⟩]
      tiles := if q.i.op = 0xA3 then b.tiles else b.tiles + 1 })

/-- An accumulating instruction of an operation to which the fallback applies: it forms no product, and its slot is part
of a result of +∞ (R42). -/
def State.accFallback (s : State) (q : AccOp) : State :=
  let s := s.applyFallback q.b.op q.anchor q.i.layer (dieOf q.i.x.core)
  (s.claimSlot q true []).noteBracket q 0

/-- The elements of a slot before an instruction adds to it (R95, R181): one that prepares the slot anew clears those of the engines
that it does not mask. -/
def State.preparedElems (s : State) (q : AccOp) : Map Nat Elem :=
  let l := (s.slot q.i.x.core q.ad).elems
  if q.fresh then l.filter fun (e : Nat × Elem) => !q.emask.testBit (2 * (e.1 / 32 / 16) + e.1 % 32 / 16) else l

/-- Form the terms of an accumulating instruction: on an overflow the attempt ends (R38-R42); a NaN traps an armed context
(R87); otherwise the sums enter the slot and `done` follows. `sinf` sets the slot's flag (R75). An instruction whose product
overflows or that traps adds nothing to XESCCNT and XRNDCNT, of which the spec says nothing (DESIGN CHOICE, log entry 73). -/
def State.accumulate (s : State) (q : AccOp) (cells : List Cell) (consumed : List NanSeen) (sinf : Bool)
    (done : State → State) : State :=
  let c := q.i.x.core
  let old (k : Nat) : Elem := (s.preparedElems q).get k Elem.zero
  let res := cells.map fun e => (e, q.sum e)
  match res.find? fun p => p.2.ovf with
  | some p => s.overflow q.i q.b q.anchor p.1.elem
  | none =>
    let next := res.map fun p => (p.1, (old p.1.idx).add ⟨BitVec.ofInt 128 p.2.k, p.2.st⟩)
    let produced := (next.filter fun p => p.2.st == .nan).map fun p => p.1.elem
    match (if s.armed q.i.x then firstNan consumed produced q.tc else none) with
    | some a => s.nanTrap q.i a
    | none =>
      let elems := next.foldl (fun (m : Map Nat Elem) p => m.set p.1.idx p.2) (s.preparedElems q)
      let flag := sinf || (!q.fresh && s.slotSinf c q.ad)
      let rounded := res.foldl (fun n p => n + p.2.rounded) 0
      let s := forAll (s.tileCores q.i.x) s fun s c => s.count (.xrndcnt c) F.xrndcnt_COUNT rounded
      done ((s.claimSlot q flag elems).noteBracket q (consumed.length + produced.length))

/-! ## Dumps of operands and slots (R452, R453) -/

/-- The bytes of a window as a dump holds them; `get` gives bytes of a plane from an offset on. -/
def Desc.dumpBytes (d : Desc) (get : Nat → Nat → Nat → List Byte) : List Byte :=
  let rb := (fmtBytes d.fmt d.cols + 31) / 32 * 32
  let xb := (d.aux.bytes d.cols + 31) / 32 * 32
  let pad (n : Nat) (l : List Byte) : List Byte := l ++ List.replicate (n - l.length) 0
  let auxRows := match d.aux with
    | .none => 0
    | .rows => (d.rows + 31) / 32
    | _ => d.rows
  ((List.range d.rows).map fun r => pad rb (get 0 (r * d.pitch) (fmtBytes d.fmt d.cols))).flatten ++
  ((List.range auxRows).map fun r => pad xb (get 1 (r * d.spitch) (d.aux.bytes d.cols))).flatten ++
  (if d.hasHdr then get 2 0 16 else [])

/-- The bytes of a window in this module as a dump holds them. -/
def State.windowDump (s : State) (d : Desc) : List Byte := d.dumpBytes fun p o n => s.bytes (lowAddr (d.plane p) + o) n

/-- The bytes of an accumulator header (R73). -/
def accHeader (anchor : Int) (sinf nonfin : Bool) (form : Nat) (tag : BitVec 16) (raise : Nat) (step : BitVec 32) : List Byte :=
  toBytes 8 (unsigned 12 anchor + b2n sinf * 2 ^ 12 + b2n nonfin * 2 ^ 13 + form * 2 ^ 14 + tag.toNat * 2 ^ 16 +
    raise % 4 * 2 ^ 32) ++ toBytes 8 step.toNat

/-- The bytes of a slot as a dump holds them: full A128 form, state plane and header. -/
def State.slotDump (s : State) (c : Fin 256) (i : A3) : List Byte :=
  let e := (List.range 1024).map (s.slotElem c i)
  (e.map fun x => toBytes 16 x.k.toNat).flatten ++
  (List.range 256).map (fun b => BitVec.ofNat 8 (((e.drop (4 * b)).take 4).foldr (fun x n => x.st.code + 4 * n) 0)) ++
  accHeader (s.slotAnchor c i) (s.slotSinf c i) (e.any fun x => x.st != .fin) 0 (s.slotTag c i)
    (s.fld (.coreAtstat c i) F.coreAtstat_RAISE) (s.slot c i).step

/-- Dump a window of an instruction whose tile starts for the watchpoints that match (R451). -/
def State.dumpWindow (s : State) (what : Nat) (i : Ins) (d : Desc) : State :=
  let w := s.watchers i what
  if w = [] then s else s.dump w what i s.lmn d (s.windowDump d)

/-- Dump what an instruction wrote through a window after its tiles (R451, R454). -/
def State.dumpOut (s : State) (i : Ins) (d : Desc) : State :=
  let w := s.lateWatchers i 0
  if w = [] then s else s.dump w 0 i s.lmn d (s.windowDump d)

end Sys2Proof.Machine
end

