-- ==== Sys2Proof/Machine/Brackets.lean ====
section
/-!
DEFINITION. Waiting for the earlier work of a context (R139, R140), and the instructions and events of an operation bracket up
to its seal (R172, R173, R175).
-/

namespace Sys2Proof.Machine

/-! ## Earlier work -/

/-- Is this background work a stream? -/
def BgKind.isStream : BgKind → Bool
  | .stream _ => true
  | _ => false

/-- Is this background work a tcopy? -/
def BgKind.isCopy : BgKind → Bool
  | .tcopy _ _ => true
  | _ => false

/-- Is this request a scalar access? -/
def ReqKind.isScalar : ReqKind → Bool
  | .load _ _ _ => true
  | .desc _ => true
  | .store => true
  | .amo _ => true
  | _ => false

/-- Every earlier scalar access and tcopy of a context is complete at its target, and every fault of its stores has been
reported (R138, R139). -/
def State.quietM (s : State) (x : CtxId) : Bool :=
  !(s.fab.reqs.any fun r => r.x == x && r.kind.isScalar) && !(s.core.bg.any fun g => g.x == x && g.kind.isCopy) &&
  !(s.core.faults.any fun f => f.x == x && f.store)

/-- Every earlier instruction of a context has completed in every unit; streams do not count (R140). -/
def State.quietT (s : State) (x : CtxId) : Bool :=
  s.quietM x && !(s.core.bg.any fun g => g.x == x && !g.kind.isStream) &&
  !(s.fab.reqs.any fun r => r.x == x && r.kind == .fused) &&
  !(s.plt.colls.any fun c => c.parts.any fun p => p.ins.x == x && s.partOpen c p) && !(s.core.faults.any fun f => f.x == x)

/-! ## op.begin -/

/-- The raise count that an operation starts with, from its entry as it stood at the start of the step (R43), or the fault of reading
it (R173). -/
def State.startRaise (s : State) (x : CtxId) (tag : OpTag) : State × Except Flt Nat :=
  let v := (s.ctx x).latch.xraise
  if getBits v F.xraise_EN = 0 then (s, .ok 0)
  else
    let a := getBits v F.xraise_BASE * 2 ^ 14 + tag.toNat / 4
    if s.populated (s.privOf x) a = false then (s, .error (.addr a))
    else match s.readRange .core a 1 with
      | (s, some p) => (s, .error (.data p))
      | (s, none) => (s, .ok (ofBytes (s.startBytes a 1) / 4 ^ (tag.toNat % 4) % 4))

/-- The replay image of a context that opens a bracket (R173). -/
def State.imageOf (s : State) (i : Ins) (clb cln : Nat) : Image :=
  let c := s.ctx i.x
  { pc := i.iaddr + 8, sreg := c.sreg, pred := c.pred, tile := c.tile, layer := c.layer, mbatch := c.mbatch,
    cleats := (List.range cln).map fun k => let n : Cleat := Fin.ofNat _ (clb + k); (n, s.cleat i.x.core n) }

/-- Open a bracket whose checks have passed. The fallback that applies to its operation already applies to it (R42). -/
def State.openBracket (s : State) (i : Ins) (op : OpId) (nloc raise : Nat) (image : Image) : State :=
  let c := s.ctx i.x
  let a := s.attempt op
  let n := if op.ph = 0 then raise else max raise a.raise
  let fb := op.ph != 0 && a.fallback.isSome
  let b : Bracket :=
    { serial := c.serial + 1, op := op, nloc := nloc, raise := n, anchor := none, image := image, ended := none,
      sealed := false, fallback := fb, aborted := false, begun := s.time, nans := 0, wrote := [], tiles := 0, spots := 0,
      failed := false }
  let s := if fb then s.count (.xrplcnt i.x.core) F.xrplcnt_FALLBACKS 1 else s
  let s := s.setCtx i.x { c with serial := c.serial + 1 }
  let s := (s.setBracket i.x (some b)).trace 3 { i with raise := n } op.ph
  if op.ph = 0 then s else s.setAttempt { a with raise := n }

/-- op.begin (R173). -/
def State.opBegin (s : State) (i : Ins) (clb : Cleat) (cln : Nat) (sa : R5) : State :=
  let x := i.x
  if s.quietT x = false then s.stall i
  else
    let v := (s.sreg x sa).toNat
    let ph := v % 2 ^ 14
    let nloc := v / 2 ^ 16 % 256
    let bad := (s.ctx x).bracket.isSome || (ph != 0 && (!s.openHandle ph || nloc == 0)) || !s.cleatOk x clb.val cln && cln != 0
    let r := s.startRaise x i.tag
    let faults := (if bad then [Flt.operand 0 0] else []) ++
      (if i.tag = 0 ∨ s.opEntry x i.tag = none then [Flt.placement 5] else []) ++
      (match r.2 with
       | .error e => [e]
       | .ok _ => [])
    match firstFault faults, r with
    | some e, (s', .error _) => if e.code < 6 then s.fault i e else s'.fault i e
    | some e, _ => s.fault i e
    | none, (s, .error e) => s.fault i e
    | none, (s, .ok n) =>
      let op : OpId := ⟨i.tag, i.mbatch, i.step, ph, if ph = 0 then some x else none⟩
      let peers := (s.participants op).filterMap fun y => (s.ctx y).bracket
      let other := peers.find? fun b => b.nloc != nloc
      let s := (s.openBracket i op (if ph = 0 then 1 else nloc) n (s.imageOf i clb.val cln)).advance i
      if ph = 0 then s
      else match other with
        | some b =>
          (s.abortAll op 2).raiseEv 0 8 0x11 [(2, ph), (2, 0), (2, x.core.val), (8, nloc), (8, b.nloc)]
        | none => if (s.attempt op).cause.isSome then s.abortCtx x else s

/-- op.begin s[SA], CLB, CLN (R173). -/
def execOpBegin (a : At) (clb : Cleat) (cln : Fin 16) (sa : R5) (tag : OpTag) (s : State) : Host.Outcome State Fault Refusal :=
  execIns a 0x9C 1 tag false (fun i s => s.opBegin i clb cln.val sa) s

/-! ## op.end and the seal -/

/-- op.end (R175): the context waits in state 2 until its attempt commits. -/
def State.opEnd (s : State) (i : Ins) (cl : Cleat) (sig : Bool) : State :=
  match (s.ctx i.x).bracket with
  | none => s.fault i (.operand 0 0)
  | some b =>
    if i.tag = 0 ∨ b.op.tag ≠ i.tag ∨ s.cleatOk i.x cl.val 1 = false then s.fault i (.operand 0 0)
    else
      ((s.setBracket i.x (some { b with ended := some (cl, sig) })).setCtxState i.x 2).setWait i.x (some .opEnd)

/-- op.end CL, SIG (R175). -/
def execOpEnd (a : At) (cl : Cleat) (sig : Bool) (tag : OpTag) (s : State) : Host.Outcome State Fault Refusal :=
  execIns a 0x9D 1 tag false (fun i s => s.opEnd i cl sig) s

/-- Nothing keeps a participant from sealing: op.end has issued, every product is formed, and no pair or spot comparison of the bracket is outstanding
or has failed (R175, R337, R339). -/
def State.maySeal (s : State) (x : CtxId) (b : Bracket) : Bool :=
  b.ended.isSome && !b.sealed && !b.aborted && !b.failed && b.spots == 0 &&
  (b.fallback || !(s.plt.colls.any fun c => c.parts.any fun p => p.ins.x == x && p.serial == b.serial && !p.formed)) &&
  (match (s.ctx x).run with
   | some t => !s.flag (.corePairctl x.core) F.corePairctl_ACTIVE && !s.spotSelected t
   | none => true)

/-- A participant seals its part of an attempt (R175, R310). -/
def State.sealPart (s : State) (x : CtxId) : State :=
  match (s.ctx x).bracket with
  | none => s
  | some b =>
    if s.maySeal x b = false then s
    else
      let s := s.setBracket x (some { b with sealed := true })
      (s.sendSeal b.op).refreshSealed b.op

/-- PARTICIPANT_SEAL (R175). -/
def execParticipantSeal (x : CtxId) (s : State) : Host.Outcome State Fault Refusal := runs s fun s => s.sealPart x

end Sys2Proof.Machine
end

