-- ==== Sys2Proof/Machine/Access.lean ====
section
/-!
DEFINITION. Reads and writes of control registers as the access codes define them (R4-R8, R13), the privilege each
register needs, the field values that a write cannot set, and what a read of a register shows.
-/

namespace Sys2Proof.Machine

/-! ## Which bits an access reaches -/

/-- The bits of a register that an access at a control-window offset reaches (R4). -/
def accessBits (off : Nat) (size : CtlSize) : Word :=
  match size with
  | .w8 => BitVec.allOnes 64
  | .w4 => if off % 8 = 4 then 0xFFFFFFFF00000000 else 0xFFFFFFFF

/-- The value of a write, moved to the bits its access reaches. -/
def accessValue (off : Nat) (size : CtlSize) (v : Word) : Word :=
  match size with
  | .w8 => v
  | .w4 => if off % 8 = 4 then v <<< 32 else v &&& 0xFFFFFFFF

/-- Bytes of an access. -/
def ctlBytes : CtlSize → Nat
  | .w4 => 4
  | .w8 => 8

/-- What an access of a width answers of a register's value. -/
def accessPart (off : Nat) (size : CtlSize) (v : Word) : Word :=
  match size with
  | .w8 => v
  | .w4 => if off % 8 = 4 then v >>> 32 else v &&& 0xFFFFFFFF

/-- The bits of a register's fields of one access code. -/
def Reg.bitsOf (r : Reg) (a : Access) : Word :=
  (r.fields.filter fun f => f.access == a).foldl (fun w f => w ||| f.mask) 0

/-! ## Privilege -/

/-- Whether privilege 2 reads a register as 0 (R256, R292, R326, R353, R387, R410, R440, R457). -/
def Reg.hidden (r : Reg) : Bool :=
  match r.block with
  | .clu => false
  | .hub => match r with
    | .hubLock | .hubModctl | .hubModstat | .hubBrgcnt | .hubGenlist | .hubGenlen | .hubGencmd | .hubGenlive | .hubGenstat
    | .hubGenlimit => false
    | _ => true
  | _ => true

/-- Registers that belong to privilege 0 alone (R407). -/
def Reg.hubOnly : Reg → Bool
  | .icuPriven _ _ | .icuHtmr _ _ _ => true
  | _ => false

/-- Whether a privilege may read a register's value. -/
def Reg.readable (r : Reg) (p : Priv) : Bool :=
  match p with
  | .hub => true
  | .driver => !r.hubOnly
  | .job => !r.hidden

/-- Whether a privilege may write a register. -/
def Reg.writable (r : Reg) (p : Priv) : Bool :=
  match p with
  | .hub => true
  | .driver => !r.hubOnly
  | .job => false

/-- The bit of HUB_LOCK that locks a block (R7). -/
def Reg.lockBit (r : Reg) : Nat :=
  match r.block with
  | .hub => 0
  | .icu => 1
  | .clk => 2
  | .evr => 3
  | .pci => 4
  | .mem => match r with
    | .memCfg d | .memScrctl d | .memScrpos d | .memScrstat d | .memUelog d | .stkStat d _ | .stkCorr d _ | .stkUncorr d _
    | .stkRpr d _ | .stkRprcmd d _ => 5 + d.val
    | _ => 5
  | .spk => 7
  | .clu => 8
  | .pmu => 9
  | .int => 10

/-! ## What a write leaves -/

/-- Whether a job is resident: some context is not idle, or a peloton is open (R117). -/
def State.resident (s : State) : Bool :=
  !s.plt.pelotons.isEmpty || (List.finRange 256).any fun c => s.fld (.coreSqstat c) F.coreSqstat_STATE != 0

/-- Keep a field's old value where its new value is not one it can take. -/
def keepField (old new : Word) (f : Nat × Nat) (ok : Nat → Bool) : Word :=
  if ok (getBits new f) then new else putBits new f (getBits old f)

/-- The whole register keeps its value unless a condition holds. -/
def keepAll (old new : Word) (ok : Bool) : Word := if ok then new else old

/-- What a write leaves in a register whose fields take only some values: a field keeps its value where a write would set it
out of its range. -/
def State.refine (s : State) (r : Reg) (old new : Word) : Word :=
  match r with
  | .xctl _ _ => keepField old (keepField old new F.xctl_DTLOG fun v => decide (1 ≤ v ∧ v ≤ 32)) F.xctl_RND (· != 3)
  | .fsctl _ _ => keepField old new F.fsctl_HLEN fun v => decide (1 ≤ v ∧ v ≤ 64)
  | .ctxCfg _ _ => keepField old new F.ctxCfg_PRIV fun v => v == 1 || v == 2
  | .ctxPc c x => keepAll old new (s.ctxState ⟨c, x⟩ == 0 || s.ctxState ⟨c, x⟩ == 4)
  | .clr c x => keepAll old new (s.ctxState ⟨c, x⟩ == 0 && getBits new F.clr_COUNT != 0 &&
      decide (getBits new F.clr_BASE + getBits new F.clr_COUNT ≤ 256))
  | .hubGenlimit => keepField old new F.hubGenlimit_LIMIT fun v => decide (1 ≤ v ∧ v ≤ 1000000)
  | .memScrctl _ => keepField old new F.memScrctl_PERIOD (· != 0)
  | .spkLctl _ => keepField old new F.spkLctl_RTHR (· != 0)
  | .spkVcw _ => (List.range 8).foldl (fun w v => keepField old w (8 * v, 6) (· != 0)) new
  | .spkmCoord => keepAll old new (!s.resident && decide (getBits new F.spkmCoord_W ≤ 128))
  | .spkmMap => (List.range 8).foldl (fun w n => keepField old w (4 * n, 4) fun v => decide (v ≤ 6) || v == 15) new
  | .spkmBlk =>
    keepAll old new (decide (getBits new F.spkmBlk_WBASE + getBits new F.spkmBlk_WCOUNT ≤ 129))
  | .spkmCtl => keepField old new F.spkmCtl_TMO (· != 0)
  | .hubPltctl => keepField old (keepField old (keepField old new F.hubPltctl_JTMO (· != 0)) F.hubPltctl_CTMO (· != 0))
      F.hubPltctl_SLOTTMO (· != 0)
  | .hubSnapctl => keepField old (keepField old new F.hubSnapctl_EVERY (· != 0)) F.hubSnapctl_BW fun v => decide (1 ≤ v ∧ v ≤ 200)
  | .intSpotctl => keepField old new F.intSpotctl_K fun v => decide (v ≤ 10)
  | .intStctl => keepField old new F.intStctl_TRLIM (· != 0)
  | .intIfctl => keepField old new F.intIfctl_PERIOD (· != 0)
  | .clkThctl =>
    let new := keepField old new F.clkThctl_TLIM fun v => decide (85 ≤ v ∧ v ≤ 105)
    keepField old new F.clkThctl_FWLIM fun v => decide (getBits new F.clkThctl_TLIM + 2 ≤ v ∧ v ≤ 109)
  | .clkPwrctl =>
    let new := keepField old new F.clkPwrctl_SUST fun v => decide (1000 ≤ v ∧ v ≤ 3600)
    keepField old new F.clkPwrctl_PEAK fun v => decide (getBits new F.clkPwrctl_SUST ≤ v ∧ v ≤ 4200)
  | .cluDrlctl _ => keepField old (keepField old (keepField old new F.cluDrlctl_TARGET (· != 3)) F.cluDrlctl_FWIDLE (· != 0))
      F.cluDrlctl_P2IDLE (· != 0)
  | .pciIwcfg _ => keepField old new F.pciIwcfg_PRIV fun v => v == 1 || v == 2
  | .pmuTrCtl d => keepField old new F.pmuTrCtl_TRGIB fun v => decide (v ≤ s.fld (.pmuPan d) F.pmuPan_SIZE)
  | .pmuTelctl => keepField old new F.pmuTelctl_PERIOD fun v => decide (1 ≤ v ∧ v ≤ 1000)
  | _ => new

/-- What a write of `v` to the bits `m` makes of a register's value by its access codes (R5, R7). -/
def Reg.written (r : Reg) (locked : Bool) (old v m : Word) : Word :=
  let set := (r.bitsOf .rw ||| (if locked then 0 else r.bitsOf .rwl)) &&& m
  let cleared := (old &&& ~~~set) ||| (v &&& set)
  (cleared &&& ~~~(v &&& m &&& r.bitsOf .w1c)) ||| (v &&& m &&& r.bitsOf .w1s)

/-- Write a register's fields as their access codes say, and nothing else. -/
def State.writeFields (s : State) (r : Reg) (v m : Word) : State :=
  let locked := bit (s.reg .hubLock) r.lockBit
  s.setReg r (s.refine r (s.reg r) (r.written locked (s.reg r) v m))

/-! ## What a read shows -/

/-- What a read of the bits `m` of a register clears: its RC fields there (R4, R5). -/
def State.clearRead (s : State) (r : Reg) (m : Word) : State :=
  if r.bitsOf .rc &&& m = 0 then s else s.setReg r (s.reg r &&& ~~~(r.bitsOf .rc &&& m))

/-- Bits that a read returns as 0: those of write-only fields (R5). -/
def Reg.readMask (r : Reg) : Word := ~~~(r.bitsOf .wo)

/-- The microseconds since a time. -/
def State.usSince (s : State) (t : Nat) : Nat := (s.time - t) / 100

/-- A register's value as a read shows it: fields that follow other state are made from it. What HUB_PLNOCC shows of a job's micro-batches
is a free value (R323, log entry 36). -/
def State.view (s : State) (r : Reg) : Word :=
  match r with
  | .clt c n => s.cleat c n
  | .hubGenstat =>
    if s.flag .hubGenstat F.hubGenstat_DRAIN then
      putBits (s.reg r) F.hubGenstat_DRAINUS (min (s.usSince s.gen.drainSince) (2 ^ 32 - 1))
    else s.reg r
  | .hubPltstat => putBits (s.reg r) F.hubPltstat_OPEN s.plt.pelotons.length
  | .evrStat => putBits (s.reg r) F.evrStat_QUEUED (min s.events.length 4095)
  | .hubPlnocc => if s.svc.plan.isSome then Config.inFlight s.time &&& r.mask else s.reg r
  | .coreIstat c => putBits (s.reg r) F.coreIstat_IFAGE (min ((s.time - s.int.lastTest.get c 0) / 100000000) (2 ^ 32 - 1))
  | _ => s.reg r

end Sys2Proof.Machine
end

