-- ==== Sys2Proof/Machine/Crypto.lean ====
section
/-!
DEFINITION. SHA-256 and the RSASSA-PKCS1-v1_5 verification that manifests and unit maps rest on (R415).
-/

namespace Sys2Proof.Machine

/-- The round constants of SHA-256. -/
def shaK : List (BitVec 32) := List.flatten
  [[0x428a2f98, 0x71374491, 0xb5c0fbcf, 0xe9b5dba5, 0x3956c25b, 0x59f111f1, 0x923f82a4, 0xab1c5ed5],
   [0xd807aa98, 0x12835b01, 0x243185be, 0x550c7dc3, 0x72be5d74, 0x80deb1fe, 0x9bdc06a7, 0xc19bf174],
   [0xe49b69c1, 0xefbe4786, 0x0fc19dc6, 0x240ca1cc, 0x2de92c6f, 0x4a7484aa, 0x5cb0a9dc, 0x76f988da],
   [0x983e5152, 0xa831c66d, 0xb00327c8, 0xbf597fc7, 0xc6e00bf3, 0xd5a79147, 0x06ca6351, 0x14292967],
   [0x27b70a85, 0x2e1b2138, 0x4d2c6dfc, 0x53380d13, 0x650a7354, 0x766a0abb, 0x81c2c92e, 0x92722c85],
   [0xa2bfe8a1, 0xa81a664b, 0xc24b8b70, 0xc76c51a3, 0xd192e819, 0xd6990624, 0xf40e3585, 0x106aa070],
   [0x19a4c116, 0x1e376c08, 0x2748774c, 0x34b0bcb5, 0x391c0cb3, 0x4ed8aa4a, 0x5b9cca4f, 0x682e6ff3],
   [0x748f82ee, 0x78a5636f, 0x84c87814, 0x8cc70208, 0x90befffa, 0xa4506ceb, 0xbef9a3f7, 0xc67178f2]]

/-- A number of 32 bits from four bytes, the first most significant. -/
def be32 (bs : List Byte) : BitVec 32 := BitVec.ofNat 32 (ofBytes bs.reverse)

/-- The sixteen words of a 64-byte block, the last first. -/
def shaWords (b : List Byte) : List (BitVec 32) := ((List.range 16).map fun i => be32 ((b.drop (4 * i)).take 4)).reverse

/-- Extend a schedule, kept last word first, by `n` words. -/
def shaExtend : Nat → List (BitVec 32) → List (BitVec 32)
  | 0, w => w
  | n + 1, w =>
    let a := w.getD 1 0
    let b := w.getD 14 0
    let s1 := (a.rotateRight 17) ^^^ (a.rotateRight 19) ^^^ (a >>> 10)
    let s0 := (b.rotateRight 7) ^^^ (b.rotateRight 18) ^^^ (b >>> 3)
    shaExtend n ((s1 + w.getD 6 0 + s0 + w.getD 15 0) :: w)

/-- The working variables of SHA-256. -/
structure ShaVars where
  a : BitVec 32
  b : BitVec 32
  c : BitVec 32
  d : BitVec 32
  e : BitVec 32
  f : BitVec 32
  g : BitVec 32
  h : BitVec 32

/-- One round, with its constant and its schedule word. -/
def shaRound (v : ShaVars) (q : BitVec 32 × BitVec 32) : ShaVars :=
  let s1 := (v.e.rotateRight 6) ^^^ (v.e.rotateRight 11) ^^^ (v.e.rotateRight 25)
  let t1 := v.h + s1 + ((v.e &&& v.f) ^^^ (~~~v.e &&& v.g)) + q.1 + q.2
  let s0 := (v.a.rotateRight 2) ^^^ (v.a.rotateRight 13) ^^^ (v.a.rotateRight 22)
  let t2 := s0 + ((v.a &&& v.b) ^^^ (v.a &&& v.c) ^^^ (v.b &&& v.c))
  { a := t1 + t2, b := v.a, c := v.b, d := v.c, e := v.d + t1, f := v.e, g := v.f, h := v.g }

/-- Take in one block. -/
def shaBlock (v : ShaVars) (b : List Byte) : ShaVars :=
  let r := (shaK.zip (shaExtend 48 (shaWords b)).reverse).foldl shaRound v
  { a := v.a + r.a, b := v.b + r.b, c := v.c + r.c, d := v.d + r.d, e := v.e + r.e, f := v.f + r.f, g := v.g + r.g, h := v.h + r.h }

/-- The initial value of SHA-256. -/
def shaInit : ShaVars :=
  { a := 0x6a09e667, b := 0xbb67ae85, c := 0x3c6ef372, d := 0xa54ff53a, e := 0x510e527f, f := 0x9b05688c, g := 0x1f83d9ab, h := 0x5be0cd19 }

/-- `n` bytes of a number, most significant first. -/
def beBytes (n v : Nat) : List Byte := (toBytes n v).reverse

/-- Take in `n` blocks. -/
def shaBlocks : Nat → ShaVars → List Byte → ShaVars
  | 0, v, _ => v
  | n + 1, v, bs => shaBlocks n (shaBlock v (bs.take 64)) (bs.drop 64)

/-- SHA-256 of some bytes. -/
def sha256 (bs : List Byte) : List Byte :=
  let pad := (119 - bs.length % 64) % 64
  let m := bs ++ (0x80 :: List.replicate pad 0) ++ beBytes 8 (8 * bs.length)
  let v := shaBlocks (m.length / 64) shaInit m
  [v.a, v.b, v.c, v.d, v.e, v.f, v.g, v.h].flatMap fun w => beBytes 4 w.toNat

/-- `x` to the power 65,537 modulo `n`. -/
def powE (n x : Nat) : Nat := ((List.range 16).foldl (fun y _ => y * y % n) (x % n)) * x % n

/-- The encoding of PKCS1-v1_5 for SHA-256 in 384 bytes. -/
def pkcsEncoding (msg : List Byte) : List Byte :=
  List.flatten [[0x00, 0x01], List.replicate 330 0xFF, [0x00, 0x30, 0x31, 0x30, 0x0d, 0x06, 0x09, 0x60, 0x86, 0x48],
    [0x01, 0x65, 0x03, 0x04, 0x02, 0x01, 0x05, 0x00, 0x04, 0x20], sha256 msg]

/-- Whether a signature of 384 bytes over a message verifies under a Zilquel key (R415). -/
def rsaVerify (key : Nat) (sig msg : List Byte) : Bool :=
  let n := Config.zilquelKey key
  let x := ofBytes sig.reverse
  sig.length == 384 && decide (x < n) && beBytes 384 (powE n x) == pkcsEncoding msg

end Sys2Proof.Machine
end

