-- ==== Sys2Proof/Machine/Odometer.lean ====
section
/-!
DEFINITION. The Odometer (R433-R438): its sectors, its records, the cursor window, the clear; and the life counters (R439).
-/

namespace Sys2Proof.Machine

/-! ## Sectors (R433) -/

/-- Record slots of a sector, beside its header. -/
def sectorSlots : Nat := 1023

/-- Live records that the log holds at most. -/
def odoMax : Nat := 254 * sectorSlots

/-- A sector of the Odometer region. -/
def FlashState.sector (f : FlashState) (n : Nat) : OdoSector := f.sectors.get n ⟨0, 0, false⟩

/-- A sector that takes no new records: bad, or erased more than 90,000 times. -/
def OdoSector.retired (q : OdoSector) : Bool := q.bad || decide (90000 < q.erases)

/-- The erased sectors that may take records, beside the open one. -/
def FlashState.erased (f : FlashState) : List Nat :=
  (List.range 256).filter fun n => n != f.openSector && (f.sector n).used == 0 && !(f.sector n).retired

/-- Superseded records of a sector. -/
def FlashState.superseded (f : FlashState) (n : Nat) : Nat := (f.odo.filter fun r => r.sector == n && !r.live).length

/-- Copy a sector's live records into the open sector and erase it. -/
def FlashState.compactSector (f : FlashState) (n : Nat) : FlashState :=
  let keep := f.odo.filterMap fun r =>
    if r.sector == n then (if r.live then some { r with sector := f.openSector } else none) else some r
  let moved := (f.odo.filter fun r => r.sector == n && r.live).length
  let o := f.sector f.openSector
  let q := f.sector n
  { f with odo := keep, sectors := (f.sectors.set f.openSector { o with used := o.used + moved }).set n { q with erases := q.erases + 1, used := 0 } }

/-- The better of two sectors to compact: more superseded records, then fewer erases. -/
def FlashState.better (f : FlashState) (a b : Nat) : Nat :=
  if f.superseded a > f.superseded b then a
  else if f.superseded a = f.superseded b ∧ (f.sector a).erases < (f.sector b).erases then a
  else b

/-- Compact where fewer than two erased sectors remain. -/
def FlashState.compact (f : FlashState) : FlashState :=
  if 2 ≤ f.erased.length then f
  else
    let full := (List.range 256).filter fun n => n != f.openSector && (f.sector n).used == sectorSlots && decide (0 < f.superseded n)
    match full with
    | [] => f
    | n :: rest => f.compactSector (rest.foldl (fun b a => f.better a b) n)

/-- Make room for a record: an open sector that is full, bad or worn gives way to the first erased one; none is left of a log whose
sectors have all failed. -/
def FlashState.room (f : FlashState) : Option FlashState :=
  let q := f.sector f.openSector
  if q.used < sectorSlots ∧ q.retired = false then some f
  else match f.erased with
    | [] => none
    | n :: _ => some { f with openSector := n }.compact

/-- Append one record. -/
def FlashState.append (f : FlashState) (r : OdoRec) : FlashState :=
  let q := f.sector f.openSector
  { f with odo := f.odo ++ [{ r with sector := f.openSector }], sectors := f.sectors.set f.openSector { q with used := q.used + 1 } }

/-- Live records. -/
def FlashState.live (f : FlashState) : Nat := (f.odo.filter OdoRec.live).length

/-! ## Records (R434) -/

/-- The payload of an event: its contents packed least significant byte first in their order, cut at what a record and two continuation
records hold (R434). -/
def Event.payload (e : Event) : List Byte := (e.data.flatMap fun q => toBytes q.1 q.2).take 114

/-- Cut a payload into records of at most 38 bytes; an empty one takes one record. -/
def payloadParts (bs : List Byte) : List (List Byte) := (List.range (max 1 ((bs.length + 37) / 38))).map fun i => (bs.drop (38 * i)).take 38

/-- Seconds of operation so far (R439). -/
def State.opsecNow (s : State) : Nat := s.flash.opsec + (s.time - s.fw.opsecAt) / 100000000

/-- The records of an event. -/
def State.recordsOf (s : State) (e : Event) : List OdoRec :=
  let parts := payloadParts e.payload
  (List.range parts.length).map fun i =>
    { seq := (s.flash.nextSeq + i) % 2 ^ 32, sev := (eventSeverity e.cls e.code).code, die := e.die.val, cont := i != 0, cls := e.cls, code := e.code,
      pcycle := s.flash.pcycle, opsec := s.opsecNow, payload := parts.getD i [], live := true, sector := 0 }

/-- The 64 bytes of a record. -/
def OdoRec.bytes (r : OdoRec) : List Byte :=
  let head := List.flatten
    [toBytes 4 r.seq, toBytes 1 (r.sev + 4 * r.die + 8 * b2n r.cont), toBytes 1 r.cls, toBytes 2 r.code, toBytes 4 r.pcycle, toBytes 5 r.opsec,
     toBytes 1 r.payload.length, r.payload, List.replicate (38 - r.payload.length) 0]
  List.flatten [head, toBytes 4 (crc32c head), [if r.live then 0x7F else 0x3F], [0, 0, 0]]

/-- Supersede whole events: those whose first record `f` picks, and only live ones (R434). -/
def supersedeIf (f : OdoRec → Bool) : Bool → List OdoRec → List OdoRec
  | _, [] => []
  | hit, r :: t =>
    let hit := if r.cont then hit else f r && r.live
    (if hit then { r with live := false } else r) :: supersedeIf f hit t

/-- Supersede the oldest live event whose severity is at most `sev` (R436). -/
def FlashState.supersedeOldest (f : FlashState) (sev : Nat) : Option FlashState :=
  match f.odo.find? fun r => r.live && !r.cont && decide (r.sev ≤ sev) with
  | none => none
  | some q => some { f with odo := supersedeIf (fun r => r.seq == q.seq) false f.odo }

/-- Supersede whole events until `need` more records fit. -/
def FlashState.makeRoom (f : FlashState) (sev need : Nat) : Nat → Option FlashState
  | 0 => if f.live + need ≤ odoMax then some f else none
  | n + 1 =>
    if f.live + need ≤ odoMax then some f
    else match f.supersedeOldest sev with
      | none => none
      | some g => g.makeRoom sev need n

/-- Append records one after another. -/
def FlashState.appendAll (f : FlashState) : List OdoRec → Option FlashState
  | [] => some f
  | r :: t => match f.room with
    | none => none
    | some g => (g.append r).appendAll t

/-- The registers of the log show what the flash holds (R440); STALE is set where the latched record was superseded. -/
def State.showOdo (s : State) : State :=
  let f := s.flash
  let old := match f.odo.find? OdoRec.live with
    | some r => r.seq
    | none => 0
  let s := s.setReg .evrSeq (BitVec.ofNat 64 (old + (f.nextSeq + 2 ^ 32 - 1) % 2 ^ 32 * 2 ^ 32))
  let s := s.setFld .evrStat F.evrStat_LIVE f.live
  let s := s.setFld .evrStat F.evrStat_FULL (b2n (decide (odoMax ≤ f.live)))
  let s := s.setFld .evrStat F.evrStat_CLEARING (b2n s.fw.clearing.isSome)
  let s := s.setFld .evrWear F.evrWear_MAXERASE (f.sectors.foldl (fun m q => max m q.2.erases) 0)
  let s := s.setFld .evrWear F.evrWear_RETIRED (f.sectors.filter fun q => q.2.retired).length
  match s.fw.latched with
  | none => s
  | some q =>
    if s.fw.latchedLive = false ∨ (f.odo.any fun r => r.seq == q && r.live) = true then s
    else { s.setFld .evrCur F.evrCur_STALE 1 with fw := { s.fw with latchedLive := false } }

/-- Write an event into the log (R434, R436): its records go in together or it is dropped. -/
def State.logEvent (s : State) (e : Event) : State :=
  let rs := s.recordsOf e
  match s.flash.makeRoom (eventSeverity e.cls e.code).code rs.length rs.length with
  | none => s.dropEvent
  | some f => match f.appendAll rs with
    | none => s.dropEvent
    | some g => { s with flash := { g with nextSeq := (s.flash.nextSeq + rs.length) % 2 ^ 32 } }.showOdo

/-- Take an event out of the Hub's queue. -/
def State.dequeue (s : State) (i : Nat) : State := { s with events := s.events.eraseIdx i }

/-- The place in the queue of the record that is written next: the first fatal one, else the oldest (R413, R435). -/
def State.nextRecord (s : State) : Nat :=
  (s.events.findIdx? fun e => decide (eventSeverity e.cls e.code = .fatal)).getD 0

/-- A flash sector fails for the second time (R413). The numbering of regions is the model's own: 0 boot control, 1 life counters,
3 delivery record, 4 and 5 slots A and B, 6 Odometer; operation 0 erase, 1 program. -/
def State.sectorFails (s : State) (region sector op : Nat) : State := s.raiseEv 0 6 0x52 [(1, region), (2, sector), (1, op)]

/-- Write the next queued event (R435). Where the write fails twice, the open sector is marked bad and the event waits (R413). -/
def State.writeNext (s : State) (fails : Nat) : State :=
  let i := s.nextRecord
  match s.events[i]? with
  | none => s
  | some e =>
    if fails = 2 then
      let n := s.flash.openSector
      let s := { s with flash := { s.flash with sectors := s.flash.sectors.set n { s.flash.sector n with bad := true } } }
      s.showOdo.sectorFails 6 n 1
    else (s.dequeue i).logEvent e

/-- Whether the Hub firmware runs: not in P4, in reset or in recovery (R419). -/
def State.hubRuns (s : State) : Bool := !s.pow.off && s.phase != 0 && s.phase != 4

/-- The Hub writes the next queued record (R435). -/
def execOdometerRecordWrite (fails : Fin 3) (s : State) : Host.Outcome State Fault Refusal :=
  runs s fun s => if s.hubRuns then s.writeNext fails.val else s

/-! ## The cursor window (R437) -/

/-- The live record with the smallest (SEQ − cursor) mod 2^32 that is below 2^31. -/
def FlashState.atCursor (f : FlashState) (c : Nat) : Option OdoRec :=
  let d (r : OdoRec) : Nat := (r.seq + 2 ^ 32 - c % 2 ^ 32) % 2 ^ 32
  f.odo.foldl (fun b r =>
    if r.live = false ∨ 2 ^ 31 ≤ d r then b
    else match b with
      | none => some r
      | some q => if d r < d q then some r else b) none

/-- Set the cursor and latch a record into the window. -/
def State.setCursor (s : State) (c : Nat) : State :=
  let s := s.setFld .evrCur F.evrCur_SEQ c
  match s.flash.atCursor c with
  | none =>
    let s := (List.finRange 8).foldl (fun s i => s.setReg (.evrWin i) 0) (s.setFld .evrCur F.evrCur_NONE 1)
    { s with fw := { s.fw with latched := none } }
  | some r =>
    let s := s.setFld .evrCur F.evrCur_NONE 0
    let s := (List.finRange 8).foldl (fun s i => s.setReg (.evrWin i) (BitVec.ofNat 64 (ofBytes ((r.bytes.drop (8 * i.val)).take 8)))) s
    { s with fw := { s.fw with latched := some r.seq, latchedLive := true } }

/-- A write of EVR_CUR: AUTO and STALE as their access codes say, and a write that covers SEQ latches. -/
def State.writeCursor (s : State) (v m : Word) : State :=
  let s := s.writeFields .evrCur v m
  if getBits m (0, 32) = 0 then s else s.setCursor (getBits v (0, 32))

/-- A read that covers the upper half of EVR_WIN7: with AUTO 1 and NONE 0 the window advances. -/
def State.advanceWindow (s : State) : State :=
  if s.flag .evrCur F.evrCur_AUTO = true ∧ s.flag .evrCur F.evrCur_NONE = false then
    match s.fw.latched with
    | some q => s.setCursor ((q + 1) % 2 ^ 32)
    | none => s
  else s

/-! ## The clear (R438) -/

/-- A write of EVR_CLR with GO 1: every live event whose records lie at or before UPTO and whose severity is at most SEVMAX is
superseded, and EVR_DROP is zeroed. A second clear during CLEARING is ignored. -/
def State.clearLog (s : State) (upto sevmax : Nat) : State :=
  if s.fw.clearing.isSome then s
  else
    let old := s.fld .evrSeq F.evrSeq_OLDEST
    let d (q : Nat) : Nat := (q + 2 ^ 32 - old) % 2 ^ 32
    let odo := supersedeIf (fun r => decide (d r.seq ≤ d upto ∧ r.sev ≤ sevmax)) false s.flash.odo
    let n := s.flash.live - (odo.filter OdoRec.live).length
    let s := s.setFld .evrDrop F.evrDrop_COUNT 0
    { s with flash := { s.flash with odo := odo }, fw := { s.fw with clearing := some (upto, sevmax, n) } }.showOdo

/-- The background clear ends: CLEARING returns to 0 and its event is recorded. -/
def execOdometerClearDone (s : State) : Host.Outcome State Fault Refusal :=
  runs s fun s =>
    match s.fw.clearing with
    | none => s
    | some q => ({ s with fw := { s.fw with clearing := none } }.showOdo).raiseEv 0 6 0x50 [(4, q.1), (1, q.2.1), (4, q.2.2)]

/-! ## Life counters (R439) -/

/-- Write an entry of the life counters with the values in force. -/
def State.writeLife (s : State) : State :=
  let n := s.opsecNow
  let s := { s with flash := { s.flash with opsec := n % 2 ^ 40, drop := s.fld .evrDrop F.evrDrop_COUNT },
                    fw := { s.fw with opsecAt := s.fw.opsecAt + (n - s.flash.opsec) * 100000000, lifeAt := s.time } }
  (s.setFld .clkPcycle F.clkPcycle_COUNT s.flash.pcycle).setFld .clkOpsec F.clkOpsec_SECONDS s.flash.opsec

/-- Every 60 s the Hub writes an entry. Where the write fails twice, the sector is bad and the entry waits (R413). -/
def execLifeCounterWrite (fails : Fin 3) (s : State) : Host.Outcome State Fault Refusal :=
  runs s fun s =>
    if s.hubRuns = false ∨ s.time < s.fw.lifeAt + 6000000000 then s
    else if fails = 2 then { s with fw := { s.fw with lifeAt := s.time } }.sectorFails 1 0 1
    else s.writeLife

end Sys2Proof.Machine
end

