-- ==== Sys2Proof/Machine/Firmware.lean ====
section
/-!
DEFINITION. Boot control (R414), manifests and their validity (R416, R417), the boot ROM (R418, R419), and what the firmware
registers show (R440).
-/

namespace Sys2Proof.Machine

/-! ## Boot control (R414) -/

/-- The boot control entry in force. -/
def State.bootNow (s : State) : BootEntry := s.flash.boot.getD ⟨0, false, false, 0, 0⟩

/-- The 64 bytes of a boot control entry. -/
def BootEntry.bytes (e : BootEntry) : List Byte :=
  let head := List.flatten
    [toBytes 4 0x4C544342, toBytes 4 e.seq, toBytes 1 (b2n e.active), toBytes 1 (b2n e.trial), toBytes 1 e.tryCnt, [0], toBytes 4 e.minSvn,
     List.replicate 40 0]
  List.flatten [head, toBytes 4 (crc32c head), List.replicate 4 0]

/-- Write the next boot control entry. -/
def State.writeBoot (s : State) (active trial : Bool) (tryCnt minSvn : Nat) : State :=
  { s with flash := { s.flash with boot := some ⟨(s.bootNow.seq + 1) % 2 ^ 32, active, trial, tryCnt, minSvn⟩ } }

/-! ## Manifests (R416) -/

/-- A component of a manifest. -/
structure Component where
  kind : Nat
  first : Nat
  count : Nat
  length : Nat
  digest : List Byte

/-- A field of a manifest: its first byte and its length. -/
def mField (m : List Byte) (lo n : Nat) : Nat := ofBytes ((m.drop lo).take n)

/-- NPIECES. -/
def mPieces (m : List Byte) : Nat := mField m 8 4

/-- The components of a manifest. -/
def mComponents (m : List Byte) : List Component :=
  (List.range (mField m 6 1)).map fun c =>
    let b := 128 + 48 * c
    { kind := mField m b 1, first := mField m (b + 4) 4, count := mField m (b + 8) 4, length := mField m (b + 12) 4,
      digest := (m.drop (b + 16)).take 32 }

/-- The digest of piece `i`. -/
def mDigest (m : List Byte) (i : Nat) : List Byte := (m.drop (512 + 32 * i)).take 32

/-- The bytes of a manifest with its signature. -/
def mLength (m : List Byte) : Nat := 512 + 32 * mPieces m + 384

/-- Whether a manifest has the form of R416 and R417. -/
def mWellFormed (m : List Byte) : Bool :=
  let cs := mComponents m
  let one (k : Nat) : Bool := (cs.filter fun c => c.kind == k).length == 1
  let zero (lo n : Nat) : Bool := ((m.drop lo).take n).all (· == 0)
  let apart (a b : Nat) : Bool :=
    match cs[a]?, cs[b]? with
    | some p, some q => decide (p.first + p.count ≤ q.first ∨ q.first + q.count ≤ p.first)
    | _, _ => true
  mField m 0 4 == 0x464E414D && mField m 4 2 == 1 && decide (4 ≤ mField m 6 1 ∧ mField m 6 1 ≤ 8) && decide (mField m 7 1 ≤ 1) &&
  decide (1 ≤ mPieces m ∧ mPieces m ≤ 767) && decide (mField m 16 4 ≤ mField m 12 4) && zero 29 3 && mField m 32 2 == 0x0A12 &&
  zero 34 94 && m.length == mLength m && one 1 && one 2 && one 3 && one 4 && (cs.all fun c => decide (1 ≤ c.kind ∧ c.kind ≤ 5)) &&
  (cs.all fun c => decide (c.first + c.count ≤ mPieces m ∧ c.length ≤ 65536 * c.count)) &&
  (List.range cs.length).all fun a => (List.range a).all fun b => apart a b

/-- Whether the manifest's signature verifies under the key that KEYID names. -/
def mSigned (m : List Byte) : Bool :=
  let n := 512 + 32 * mPieces m
  rsaVerify (mField m 7 1) ((m.drop n).take 384) (m.take n)

/-- What is wrong with a manifest, as a WHY code of R420, if anything is. -/
def State.mFault (s : State) (m : List Byte) : Option Nat :=
  if mWellFormed m = false then some 3
  else if mSigned m = false then some 2
  else if mField m 12 4 < s.bootNow.minSvn then some 4
  else none

/-! ## Slots -/

/-- A slot by its number. -/
def State.fwSlot (s : State) (b : Bool) : FwSlot := if b then s.flash.slotB else s.flash.slotA

/-- Set a slot. -/
def State.setFwSlot (s : State) (b : Bool) (q : FwSlot) : State :=
  if b then { s with flash := { s.flash with slotB := q } } else { s with flash := { s.flash with slotA := q } }

/-- A field of the image in a slot: 12 SVN, 16 MINSVN, 20 IMAGEVER of four bytes; 24 HOVER of two. The spec does not give those of
the image as shipped. -/
def imageField (b : Bool) (q : FwSlot) (lo n : Nat) : Nat :=
  if q.manifest = [] then Config.shippedImage b lo % 256 ^ n else mField q.manifest lo n

/-- IMAGEVER. -/
def imageVer (b : Bool) (q : FwSlot) : Nat := imageField b q 20 4

/-- Whether a piece of a slot matches its digest. -/
def FwSlot.pieceOk (q : FwSlot) (i : Nat) : Bool := q.sound || sha256 (q.pieces.get i []) == mDigest q.manifest i

/-- The first piece of a component that does not match, if there is one. -/
def FwSlot.badPiece (q : FwSlot) (c : Component) : Option Nat :=
  ((List.range c.count).map fun i => c.first + i).find? fun i => !q.pieceOk i

/-- Where a component fails: at its first piece that does not match, or at its first piece where its own digest does not match the
LENGTH bytes of its pieces (R416, R426). -/
def FwSlot.fails (q : FwSlot) (c : Component) : Option Nat :=
  if q.sound then none
  else match q.badPiece c with
    | some i => some i
    | none =>
      let bytes := ((List.range c.count).flatMap fun i => q.pieces.get (c.first + i) []).take c.length
      if sha256 bytes = c.digest then none else some c.first

/-- Whether the manifest of a slot is valid. The image as shipped verifies (log entry 12). -/
def State.manifestOk (s : State) (b : Bool) (q : FwSlot) : Bool :=
  if q.sound then decide (s.bootNow.minSvn ≤ imageField b q 12 4) || q.manifest == [] else (s.mFault q.manifest).isNone

/-- A component of a slot by its kind. -/
def FwSlot.component (q : FwSlot) (kind : Nat) : Option Component := (mComponents q.manifest).find? fun c => c.kind == kind

/-- Why a slot does not boot (R418): 1 its manifest, 2 a piece of its Hub firmware, with that piece. -/
def State.bootFault (s : State) (b : Bool) : Option (Nat × Nat) :=
  let q := s.fwSlot b
  if s.manifestOk b q = false then some (1, 0)
  else if q.sound then none
  else match q.component 1 with
    | none => some (1, 0)
    | some c => (q.badPiece c).map fun i => (2, i)

/-! ## What the registers show (R440) -/

/-- The firmware registers follow the flash and the running image. -/
def State.showFw (s : State) : State :=
  let e := s.bootNow
  let d := s.flash.delivery
  let s := s.setFld .hubFwstat F.hubFwstat_DSTATE d.dstate
  let s := s.setFld .hubFwstat F.hubFwstat_ACTSLOT (b2n e.active)
  let s := s.setFld .hubFwstat F.hubFwstat_TRIAL (b2n e.trial)
  let s := s.setFld .hubFwstat F.hubFwstat_TRYCNT e.tryCnt
  let s := s.setFld .hubFwstat F.hubFwstat_RECEIVED d.present.length
  let s := s.setFld .hubFwstat F.hubFwstat_NPIECES (if d.dstate = 0 then 0 else mPieces d.manifest)
  let s := s.setFld .hubFwminsvn F.hubFwminsvn_MINSVN e.minSvn
  let s := s.setFld .hubFwver F.hubFwver_IMAGEVER (imageVer s.fw.runSlot s.fw.running)
  let s := s.setFld .hubFwver F.hubFwver_SVN (imageField s.fw.runSlot s.fw.running 12 4)
  (List.finRange 12).foldl (fun s i =>
    s.setReg (.hubFwbm i) (BitVec.ofNat 64 (d.present.foldl (fun v p => if p / 64 = i.val then v ||| 2 ^ (p % 64) else v) 0))) s

/-! ## The boot ROM (R418, R419) -/

/-- Start the firmware of a slot on both Hubs: the Hub on Yalar-0 is primary. A component whose pieces fail is left for the next
module reset, which boots the other slot. -/
def State.startSlot (s : State) (b : Bool) : State :=
  let q := s.fwSlot b
  let e := s.bootNow
  let s := { s with fw := { s.fw with running := q, runSlot := b, watchdog := false } }
  let s := (s.setFld .hubFwstat F.hubFwstat_PRIMDIE 0).setFld .hubFwucmix (0, 24) 0
  let s := s.raiseEv 0 6 0x01 [(1, b2n b), (4, imageVer b q), (4, imageField b q 12 4), (1, b2n e.trial), (4, (s.time - s.pow.goodAt) / 100000)]
  let bad := if q.sound then none else (mComponents q.manifest).findSome? fun c =>
    if c.kind = 1 ∨ c.kind = 5 then none else (q.fails c).map fun i => (c.kind, i)
  match bad with
  | none => s
  | some (k, i) => (s.writeBoot (!b) false 0 e.minSvn).raiseEv 0 6 0x02 [(1, b2n b), (1, k), (2, i)]

/-- TRIAL boots are counted; the fourth gives the image up. -/
def State.countTrial (s : State) : State :=
  let e := s.bootNow
  if e.trial = false then s
  else if e.tryCnt + 1 = 4 then
    (s.writeBoot (!e.active) false 0 e.minSvn).raiseEv 0 6 0x04 [(1, b2n e.active), (4, imageVer e.active (s.fwSlot e.active))]
  else s.writeBoot e.active true (e.tryCnt + 1) e.minSvn

/-- The boot ROM: it counts a trial boot, verifies the slot that ACTIVE names, and falls back to the other slot or to recovery. -/
def State.bootRom (s : State) : State :=
  let s := s.countTrial
  let b := s.bootNow.active
  match s.bootFault b with
  | none => (s.startSlot b).showFw
  | some f => match s.bootFault (!b) with
    | none =>
      let s := (s.writeBoot (!b) false 0 s.bootNow.minSvn).raiseEv 0 6 0x02 [(1, b2n b), (1, if f.1 = 1 then 0 else 1), (2, f.2)]
      (s.startSlot (!b)).showFw
    | some g =>
      ((s.setFld .clkBrstat F.clkBrstat_PHASE 4).raiseEv 0 6 0x03
        [(1, if b then g.1 else f.1), (1, if b then f.1 else g.1)]).showFw

/-! ## Full memory reads of the Hub -/

/-- Bytes of HUB_MAPBUF (R374). -/
def State.mapBytes (s : State) (off n : Nat) : List Byte := (List.range n).map fun i => s.mapbuf.get (off + i) 0

/-- The die that a range of DRAM lies in, if it does. -/
def State.dramRange (s : State) (a n : Nat) : Bool :=
  match s.place .hub a, s.place .hub (a + n - 1) with
  | some (.dram d _), some (.dram e _) => d == e
  | _, _ => false

/-- What the Hub reads from [a, a + n) in DRAM or HUB_MAPBUF: none where the range lies in neither. -/
def State.hubRead (s : State) (a n : Nat) : State × Option (List Byte) :=
  let base := 0xFF0000100000
  if base ≤ a ∧ a + n ≤ base + 0x100000 then (s, some (s.mapBytes (a - base) n))
  else if s.phase ≠ 4 ∧ s.dramRange a n = true then
    let r := s.readRange .hub a n
    (r.1, some (r.1.bytes a n))
  else (s, none)

end Sys2Proof.Machine
end

