-- ==== Sys2Proof/Machine/Cache.lean ====
section
/-!
DEFINITION. The cluster caches (R250-R252): which lines a cluster cache holds, the reads it serves, and the lines that
pump.cache installs. The caches are coherent, so that they hold no data of their own (R251).
-/

namespace Sys2Proof.Machine

/-- The 128-byte lines of byte ranges. -/
def linesOf (l : List (Nat × Nat)) : List Nat :=
  ((l.map fun q => if q.2 = 0 then [] else
    (List.range ((q.1 + q.2 - 1) / 128 + 1 - q.1 / 128)).map fun i => 128 * (q.1 / 128 + i)).flatten).eraseDups

/-- Whether an address lies in the DRAM of a cluster's own die. -/
def ownDram (k : Fin 16) (a : Nat) : Bool := decide (a < 0x020000000000) && dramDie a == dieOfCluster k

/-- A cluster cache keeps, or takes in, a line as its most recently used one. -/
def State.touchLine (s : State) (k : Fin 16) (a : Nat) : State :=
  { s with core := { s.core with cache := (s.core.cache.filter fun l => !(l.k == k && l.line == a)) ++ [⟨k, a, 0⟩] } }

/-- A reader meets the errors of a cached line (R240, R241): they are corrected, or the line is dropped. -/
def State.meetLine (s : State) (l : CacheLine) : State :=
  match rimDecode l.errs with
  | .clean => s
  | .corrected _ =>
    let s := { s with core := { s.core with cache := s.core.cache.map fun q => if q = l then { q with errs := 0 } else q } }
    (s.count (.cluCcecc l.k) F.cluCcecc_CORR 1).wrap (.cluUerr l.k) F.cluUerr_CORR 1
  | .uncorrectable =>
    let s := { s with core := { s.core with cache := s.core.cache.filter fun q => q != l } }
    (s.count (.cluCcecc l.k) F.cluCcecc_DROP 1).raiseEv (dieOfCluster l.k) 2 0x50 [(1, l.k.val), (6, l.line)]

/-- A Pump or the Crank of a cluster reads a line of its die's DRAM (R250): whether the cluster's cache serves it. -/
def State.serveLine (s : State) (k : Fin 16) (a : Nat) : State × Bool :=
  let s := match s.core.cache.find? fun q => q.k == k && q.line == a with
    | some l => s.meetLine l
    | none => s
  if s.core.cache.any fun q => q.k == k && q.line == a then ((s.touchLine k a).count (.cluCchit k) F.cluCchit_COUNT 1, true)
  else (s.count (.cluCcmiss k) F.cluCcmiss_COUNT 1, false)

/-- Reads of a cluster's Pumps or Crank: what its cache does not serve, line by line where it lies in the die's own DRAM. -/
def State.served (s : State) (k : Fin 16) (l : List (Nat × Nat)) : State × List (Nat × Nat) :=
  let r := ((linesOf l).filter (ownDram k)).foldl (fun (r : State × List Nat) a =>
    let q := r.1.serveLine k a
    (q.1, if q.2 then a :: r.2 else r.2)) (s, [])
  (r.1, if r.2 = [] then l else l.flatMap fun q => if ownDram k q.1 = false then [q] else
    ((linesOf [q]).filter fun a => !r.2.contains a).map fun a => (max a q.1, min (a + 128) (q.1 + q.2) - max a q.1))

/-- Read ranges as a Pump or Crank of a cluster does, from its cache where it holds them: the state after, and the address of the
first uncorrectable word, if there is one. -/
def State.readServed (s : State) (u : User) (k : Fin 16) (l : List (Nat × Nat)) : State × Option Nat :=
  (s.served k l).1.readRanges u (s.served k l).2

/-- Reads of a cluster's Sprocket port in its die's or the other die's DRAM (R254, R444): a queue of up to 512 words. -/
def State.sprocketReads (s : State) (k : Fin 16) (l : List (Nat × Nat)) : State :=
  let l := l.filter fun q => decide (q.1 < 0x020000000000 ∧ 0 < q.2)
  let words (q : Nat × Nat) : Nat := (q.1 + q.2 - 1) / 32 + 1 - q.1 / 32
  let s := forAll l s fun s q => (s.count (.cluSprstat k) F.cluSprstat_READS (words q)).pmuDie 0x0C (dramDie q.1) (words q)
  s.setFld (.cluSprstat k) F.cluSprstat_QPEAK (max (s.fld (.cluSprstat k) F.cluSprstat_QPEAK) (min 512 (l.map words).sum))

/-- The moving average of a Pump's latency for a source moves (R253): a measurement, of which nothing is known. -/
def State.pumpLatency (s : State) (c : Fin 256) (f : Nat × Nat) : State :=
  { s.setFld (.corePmplat c) f (Config.pumpLatency s.free).toNat with free := s.free + 1 }

/-- A line that pump.cache fetched is installed (R250): least recently used within its set, in the ways that are not scratch
(R252). Set numbers are taken from the line number (log entry 22). A line that cannot be installed is counted. -/
def State.install (s : State) (k : Fin 16) (a : Nat) : State :=
  let ways := 24 - 8 * s.fld (.cluCccfg k) F.cluCccfg_SCRW
  if ownDram k a = false ∨ ways = 0 then s.count (.cluCcmiss k) F.cluCcmiss_COUNT 1
  else
    let same (l : CacheLine) : Bool := l.k == k && l.line != a && l.line / 128 % 16384 == a / 128 % 16384
    let full := decide (ways ≤ (s.core.cache.filter same).length)
    let rest := if full then s.core.cache.eraseIdx ((s.core.cache.findIdx? same).getD s.core.cache.length) else s.core.cache
    ({ s with core := { s.core with cache := rest } }).touchLine k a

end Sys2Proof.Machine
end

