-- ==== Sys2Proof/Machine/Check.lean ====
section
/-!
DEFINITION. Check values of blocks (R328-R333): the entry of a block, image sums, verifying a block that a unit reads whole,
and making the entry of a block valid after a checking writer wrote it whole.
-/

namespace Sys2Proof.Machine

/-- M = 2^31 − 1 of R331. -/
def imageMod : Nat := 2 ^ 31 - 1

/-- r(v) of R331. -/
def imageOf (v : Int) : Nat := (v % (imageMod : Int)).toNat

/-- Image of an element of a format by its code (R331); 0xB is a byte of an auxiliary plane. -/
def elemImage (f code : Nat) : Nat :=
  if fmtA128 f then imageOf (signed (fmtBits f) code) else imageOf code

/-- SUM of a block under a format, whose plane starts at `addr` (R331): the elements whose first byte lies in the block. -/
def State.blockSum (s : State) (f addr b : Nat) : Nat :=
  if f = 0 then
    ((s.bytes b 4096).foldl (fun n x => n + x.toNat % 16 + x.toNat / 16) 0) % imageMod
  else
    let w := fmtBits f / 8
    let first := if b ≤ addr then 0 else (b - addr + w - 1) / w
    let n := if b + 4096 ≤ addr then 0 else (b + 4096 - addr + w - 1) / w - first
    ((List.range n).foldl (fun t i => t + elemImage f (ofBytes (s.bytes (addr + w * (first + i)) w))) 0) % imageMod

/-- The blocks that byte ranges cover whole. -/
def wholeBlocks (l : List (Nat × Nat)) : List Nat :=
  let touched := ((l.map fun q => if q.2 = 0 then [] else
    (List.range ((q.1 + q.2 - 1) / 4096 + 1 - q.1 / 4096)).map fun i => (q.1 / 4096 + i) * 4096).flatten).eraseDups
  touched.filter fun b =>
    l.foldl (fun n q => n + (min (q.1 + q.2) (b + 4096) - max q.1 b)) 0 == 4096

/-- Whether a checked block's entry is valid, and the entry. -/
def State.validEntry (s : State) (b : Nat) : Option Nat :=
  match s.checkEntry b with
  | some e => if (s.byte (e + 8)).toNat / 16 % 2 = 1 then some (ofBytes (s.bytes e 16)) else none
  | none => none

/-- A unit reads a whole checked block under a format (R333): true when its contents agree with the entry. The data stays as
it is between two reads, so a difference is one of the data. -/
def State.verifyBlock (s : State) (u : User) (d : Fin 2) (f addr b : Nat) : State × Bool :=
  match s.validEntry b with
  | none => (s, true)
  | some e =>
    let s := (s.count .intCkcnt F.intCkcnt_VERIF 1).background 3 16 0 0
    let crc := crc32c (s.bytes b 4096)
    if crc = e % 2 ^ 32 ∧ (e / 2 ^ 64 % 16 ≠ f ∨ s.blockSum f addr b = e / 2 ^ 32 % 2 ^ 31) then (s, true)
    else ((s.count .intCkcnt F.intCkcnt_MIS 1).raiseEv d 4 0x8001 [(6, b), (1, 1), (1, u.code), (16, e), (4, crc)], false)

/-- Verify every block that a read of a plane covers whole: the first that fails. -/
def State.verifyRead (s : State) (u : User) (d : Fin 2) (f addr : Nat) (l : List (Nat × Nat)) : State × Option Nat :=
  (wholeBlocks l).foldl (fun r b => match r.1.verifyBlock u d f addr b with
    | (s, true) => (s, r.2)
    | (s, false) => (s, r.2.or (some b))) (s, none)

/-- Verify the planes of a window that a unit reads. -/
def State.verifyWindow (s : State) (u : User) (d : Fin 2) (t : Desc) (w : Span) : State × Option Nat :=
  let e := (t.elemOffs w).map fun q => (lowAddr t.d0 + q.1, q.2)
  let x := (t.auxOffs w).map fun q => (lowAddr t.d1 + q.1, q.2)
  match s.verifyRead u d t.fmt (lowAddr t.d0) e with
  | (s, r) => let q := s.verifyRead u d 11 (lowAddr t.d1) x; (q.1, r.or q.2)

/-- Write a check entry (R329, R332). -/
def State.putEntry (s : State) (e crc sum f : Nat) (pred : Bool) (tag : OpTag) (step : BitVec 32) : State :=
  (s.writeMem .hub e (toBytes 16 (crc + sum * 2 ^ 32 + f * 2 ^ 64 + 2 ^ 68 + b2n pred * 2 ^ 69 + tag.toNat * 2 ^ 72 +
    step.toNat * 2 ^ 88))).1.background 3 16 0 0

/-- A checking writer wrote these ranges of a plane under one format: the blocks it wrote whole get valid entries. -/
def State.checkWritten (s : State) (f addr : Nat) (pred : Bool) (tag : OpTag) (step : BitVec 32) (l : List (Nat × Nat)) :
    State :=
  forAll (wholeBlocks l) s fun s b => match s.checkEntry b with
    | some e => s.putEntry e (crc32c (s.bytes b 4096)) (s.blockSum f addr b) f pred tag step
    | none => s

/-- A checking writer wrote a window. -/
def State.checkWindow (s : State) (t : Desc) (w : Span) (pred : Bool) (i : Ins) : State :=
  let e := (t.elemOffs w).map fun q => (lowAddr t.d0 + q.1, q.2)
  let x := (t.auxOffs w).map fun q => (lowAddr t.d1 + q.1, q.2)
  (s.checkWritten t.fmt (lowAddr t.d0) pred i.tag i.step e).checkWritten 11 (lowAddr t.d1) pred i.tag i.step x

end Sys2Proof.Machine
end

