-- ==== Sys2Proof/Machine/Cleats.lean ====
section
/-!
DEFINITION. The cleat instructions (R198-R202): adds, waits, tests and reads of local cleats, and signals to cleats anywhere,
ordered behind the earlier writes of their context.
-/

namespace Sys2Proof.Machine

/-- An instruction that names a local cleat: an operand fault outside the context's range (R198). -/
def State.withCleat (s : State) (i : Ins) (cl : Cleat) (f : State → State) : State :=
  if s.cleatOk i.x cl.val 1 then f s else s.fault i (.operand 0 0)

/-- cl.add (R199). -/
def execClAdd (a : At) (cl : Cleat) (imm : Imm) (s : State) : Host.Outcome State Fault Refusal :=
  execIns a 0xE0 1 0 false (fun i s => s.withCleat i cl fun s => (s.addCleat i.x.core cl (imm.signExtend 64)).advance i) s

/-- cl.addr (R199). -/
def execClAddr (a : At) (cl : Cleat) (sa : R5) (s : State) : Host.Outcome State Fault Refusal :=
  execIns a 0xE1 1 0 false (fun i s => s.withCleat i cl fun s => (s.addCleat i.x.core cl (s.sreg i.x sa)).advance i) s

/-- A cl.wait is satisfied: a WAIT record, and the context goes on (R202, R447). -/
def State.waitDone (s : State) (i : Ins) (cl : Cleat) (ticks : Nat) : State :=
  (s.trace 6 i (cl.val + ticks % 2 ^ 32 * 2 ^ 8)).advance i

/-- cl.wait (R199, R200): the context waits in state 2 unless its condition holds. -/
def execClWait (a : At) (cl : Cleat) (sa : R5) (imm : Imm) (s : State) : Host.Outcome State Fault Refusal :=
  execIns a 0xE2 1 0 false (fun i s => s.withCleat i cl fun s =>
    let base := s.sreg i.x sa
    let lim : Word := imm.signExtend 64
    if waitHolds (s.cleat i.x.core cl) base lim then s.waitDone i cl 0
    else (s.setCtxState i.x 2).setWait i.x (some (.cleat cl base lim s.time i.tag))) s

/-- CLEAT_WAIT_SATISFIED (R202): a waiting context whose condition has become true issues from the next clock. -/
def execCleatWaitSatisfied (x : CtxId) (s : State) : Host.Outcome State Fault Refusal :=
  runs s fun s => match (s.ctx x).wait with
    | some (.cleat cl base imm since _) =>
      if s.ctxState x = 2 ∧ s.ctxRuns x = true ∧ waitHolds (s.cleat x.core cl) base imm = true then
        s.waitDone (s.ins x 0xE2 1 0) cl (s.time - since)
      else s
    | _ => s

/-- cl.test (R199): SD[4:3] must be 0. -/
def execClTest (a : At) (pd : R5) (cl : Cleat) (sa : R5) (imm : Imm) (s : State) : Host.Outcome State Fault Refusal :=
  execIns a 0xE3 1 0 (decide (8 ≤ pd.val)) (fun i s => s.withCleat i cl fun s =>
    (s.setPred i.x (Fin.ofNat _ pd.val) (waitHolds (s.cleat i.x.core cl) (s.sreg i.x sa) (imm.signExtend 64))).advance i) s

/-- cl.rd (R199). -/
def execClRd (a : At) (sd : R5) (cl : Cleat) (s : State) : Host.Outcome State Fault Refusal :=
  execIns a 0xE4 1 0 false (fun i s => s.withCleat i cl fun s =>
    (s.setSreg i.x sd (s.cleat i.x.core cl)).advance i) s

/-! ## Signals (R200, R201) -/

/-- The cleat that a local address names. -/
def cleatAt (a : Nat) : Option (Fin 256 × Cleat) :=
  if a < 0xFF0000000000 ∨ 0xFF0040000000 ≤ a then none
  else match Reg.ofOffset (a - 0xFF0000000000) with
    | some (.clt c n) => some (c, n)
    | _ => none

/-- The modules that an access to a target reaches. -/
def State.modulesOf (s : State) (t : Target) : List Nat :=
  match t with
  | .here _ => [s.lmn]
  | .remote m _ => [m]
  | .multicast h _ => match s.peloton h with
    | some p => p.desc.members
    | none => []

/-- The modules that a module number or handle of a request names. -/
def State.requestModules (s : State) (r : Req) : List Nat := if 1 < r.acks then s.others r.dst else [r.dst]

/-- Where a background operation of a context writes. -/
def State.bgTarget (s : State) (g : Bg) : List Nat :=
  let of (d : Desc) : List Nat := match s.target d.d0 with
    | some t => s.modulesOf t
    | none => []
  match g.kind with
  | .tcopy d _ => of d
  | .stream t => of t.td
  | .gather _ _ _ _ => [s.lmn]
  | .cache _ _ => []

/-- Deliver a signal of a generation: add to a local cleat, or send a SIG packet on VC1, or both for a peloton. -/
def State.deliver (s : State) (gen : Nat) (addr value : Word) : State :=
  let local_ (s : State) (a : Nat) : State := match cleatAt a with
    | some q => s.addCleat q.1 q.2 value
    | none => s
  match s.target addr with
  | some (.here a) => local_ s a
  | some (.remote m a) =>
    if m = s.lmn then local_ s a else s.send { s.packet 0x08 1 m a [] with gtag := gen % 2, tspec := value.toNat }
  | some (.multicast h a) =>
    let s1 := if (s.others h).isEmpty then s else s.send { s.packet 0x08 1 h a [] with gtag := gen % 2, mc := true, tspec := value.toNat }
    local_ s1 a
  | none => s

/-- What a signal waits for: the unanswered writes of its context to its target, and its background work there (R201). -/
def State.behind (s : State) (x : CtxId) (t : Target) : List Nat × List (Nat × Nat) :=
  let ms := s.modulesOf t
  let writes (r : Req) : Bool := match r.kind with
    | .store => true
    | .amo _ => true
    | .bgWrite _ _ => true
    | .fused => true
    | _ => false
  let reqs := s.fab.reqs.filter fun r => r.x == x && writes r && (s.requestModules r).any fun m => ms.contains m
  let bgs := s.core.bg.filter fun g => g.x == x && (s.bgTarget g).any fun m => ms.contains m
  (reqs.map Req.tag, bgs.map fun g => (g.id, match g.kind with
    | .stream t => t.started
    | _ => 1))

/-- Whether the transfers of a background operation that a signal waits for have ended. -/
def State.bgEnded (s : State) (q : Nat × Nat) : Bool :=
  match s.core.bg.find? fun g => g.id == q.1 with
  | none => true
  | some g => match g.kind with
    | .stream t => decide (q.2 ≤ t.completed)
    | _ => false

/-- Issue a signal: it takes effect at once, or is held at its core. The context does not wait (R201). -/
def State.signal (s : State) (i : Ins) (addr value : Word) : State :=
  let bad := addr.toNat % 8 ≠ 0
  match (if bad then none else s.target addr) with
  | none => s.fault i (.addr addr.toNat)
  | some t =>
    if (cleatAt (lowAddr addr)).isNone ∨ (s.spanFault i.x t 8 true).isSome then s.fault i (.addr addr.toNat)
    else
      let b := s.behind i.x t
      let h : HeldSignal := ⟨i.x, (s.ctx i.x).bracket.map Bracket.serial, (s.ctx i.x).latch.gen, addr, value, b.1, b.2⟩
      let s := if s.bridgeCut (dieOf i.x.core) t = false ∧ b.1.isEmpty ∧ (b.2.all s.bgEnded) = true ∧ (s.core.signals.any fun h => h.x == i.x && h.addr == addr) = false
        then s.deliver h.gen addr value
        else { s with core := { s.core with signals := s.core.signals ++ [h] } }
      s.advance i

/-- cl.sig (R199). -/
def execClSig (a : At) (sa sb : R5) (s : State) : Host.Outcome State Fault Refusal :=
  execIns a 0xE5 1 0 false (fun i s => s.signal i (s.sreg i.x sa) (s.sreg i.x sb)) s

/-- cl.sigi (R199). -/
def execClSigi (a : At) (sa : R5) (imm : Imm) (s : State) : Host.Outcome State Fault Refusal :=
  execIns a 0xE6 1 0 false (fun i s => s.signal i (s.sreg i.x sa) (imm.signExtend 64)) s

/-- Whether every write that a held signal waits for has been acknowledged, and no stopped die bridge lies before it (R115). -/
def State.released (s : State) (h : HeldSignal) : Bool :=
  !((s.target h.addr).any (s.bridgeCut (dieOf h.x.core))) && !(h.tags.any fun t => s.fab.reqs.any fun r => r.tag == t) && h.bgs.all s.bgEnded

/-- SIGNAL_RELEASE (R201): the oldest held signal of a context whose earlier writes are acknowledged travels. -/
def execSignalRelease (x : CtxId) (s : State) : Host.Outcome State Fault Refusal :=
  runs s fun s => match s.core.signals.findIdx? fun h => h.x == x && s.released h with
    | none => s
    | some k => match s.core.signals[k]? with
      | none => s
      | some h => ({ s with core := { s.core with signals := s.core.signals.eraseIdx k } }).deliver h.gen h.addr h.value

end Sys2Proof.Machine
end

