-- ==== Sys2Proof/Machine/Moves.lean ====
section
/-!
DEFINITION. What the Pump and the Sprocket path share: the bytes that a transfer between windows writes (R143), its faults
(R146), its requests into the fabric (R274) and its end, with the check entries of R332 and R333.
-/

namespace Sys2Proof.Machine

/-! ## The bytes of a transfer -/

/-- Whether a transfer copies the header (R143): a tensor scale's and an accumulator header. -/
def Desc.copiesHdr (d : Desc) : Bool := fmtA128 d.fmt || (fmtScaled d.fmt && d.smode == 1)

/-- The part of the source window that a written element needs (R143). -/
def needed (d t : Desc) : Span :=
  ⟨0, min (d.clip d.whole).r1 (t.clip t.whole).r1, 0, min (d.clip d.whole).c1 (t.clip t.whole).c1⟩

/-- The bytes of planes that a transfer reads: plane 0 elements, 1 auxiliary bytes, 2 header; offset and length. -/
def readList (d t : Desc) : List (Nat × Nat × Nat) :=
  (t.elemOffs (needed d t)).map (fun q => (0, q.1, q.2)) ++ (t.auxOffs (needed d t)).map (fun q => (1, q.1, q.2)) ++
  (if t.copiesHdr then [(2, 0, 16)] else [])

/-- The bytes of a destination that hold elements, or element states, outside the window too, which a transfer leaves as they are (R68,
R143): plane and offset. -/
def Desc.edges (d : Desc) : List (Nat × Nat) :=
  let w := d.clip d.whole
  (if d.fmt = 0 ∧ w.c1 % 2 = 1 then (List.range w.r1).map fun r => (0, r * d.pitch + w.c1 / 2) else []) ++
  (if d.aux = .a128 ∧ w.c1 % 4 ≠ 0 then (List.range w.r1).map fun r => (1, r * d.spitch + w.c1 / 4) else [])

/-- A byte where a transfer writes in this module, before it writes. -/
def State.oldHere (s : State) (d : Desc) (p o : Nat) : Nat := (s.byte (lowAddr (d.plane p) + o)).toNat

/-- The element bytes of row `r` of a destination: from source row `q`, or zeros. `old` gives what a byte of a plane held. -/
def moveRow (d t : Desc) (old get : Nat → Nat → Nat) (r nc sc : Nat) (q : Option Nat) : Nat × List Byte :=
  let o := r * d.pitch
  (o, (List.range (fmtBytes d.fmt nc)).map fun i =>
    let src := match q with
      | some r' => get 0 (r' * t.pitch + i)
      | none => 0
    if d.fmt = 0 then
      let nib (k sh : Nat) : Nat :=
        if nc ≤ k then old 0 (o + i) / sh % 16 else if k < sc then src / sh % 16 else 0
      BitVec.ofNat 8 (nib (2 * i) 1 + 16 * nib (2 * i + 1) 16)
    else BitVec.ofNat 8 (if i / (fmtBits d.fmt / 8) < sc then src else 0))

/-- The auxiliary bytes of auxiliary row `r` of a destination (R143): 0x7F, or state finite, where they describe no source
element. -/
def moveAux (d t : Desc) (old get : Nat → Nat → Nat) (r nc sc : Nat) (q : Option Nat) : Nat × List Byte :=
  let o := r * d.spitch
  let src (i : Nat) : Option Nat := match q with
    | some r' => some (get 1 (r' * t.spitch + i))
    | none => none
  let per : Nat := match d.aux with
    | .rows => 1
    | .a128 => 4
    | _ => 32
  (o, (List.range ((nc + per - 1) / per)).map fun i =>
    if d.aux = .a128 then
      BitVec.ofNat 8 ((List.range 4).foldl (fun n k =>
        let col := 4 * i + k
        let st := if nc ≤ col then old 1 (o + i) / 4 ^ k % 4
          else if col < sc then ((src i).getD 0) / 4 ^ k % 4 else 0
        n + 4 ^ k * st) 0)
    else BitVec.ofNat 8 (if per * i < sc then (src i).getD 0x7F else 0x7F))

/-- What a transfer writes: plane, offset and bytes. `row` gives the source row of a destination row, none for zeros. -/
def movePlan (d t : Desc) (row : Nat → Option Nat) (get old : Nat → Nat → Nat) : List (Nat × Nat × List Byte) :=
  let w := d.clip d.whole
  let sc := (needed d t).c1
  let elems := (List.range w.r1).map fun r => (0, moveRow d t old get r w.c1 sc (row r))
  let auxs := match d.aux with
    | .none => []
    | .rows => (List.range ((w.r1 + 31) / 32)).map fun b =>
        (1, moveAux d t old get b w.c1 sc ((row (32 * b)).map fun r => r / 32))
    | _ => (List.range w.r1).map fun r => (1, moveAux d t old get r w.c1 sc (row r))
  elems ++ auxs ++
    (if d.copiesHdr then [(2, 0, (List.range 16).map fun i => BitVec.ofNat 8 (get 2 i))] else [])

/-- The source row of a tcopy. -/
def copyRow (d t : Desc) (r : Nat) : Option Nat := if r < (needed d t).r1 then some r else none

/-- Where a transfer writes: plane, offset and bytes. -/
def writeList (d t : Desc) : List (Nat × Nat × Nat) :=
  (movePlan d t (copyRow d t) (fun _ _ => 0) fun _ _ => 0).map fun q => (q.1, q.2.1, q.2.2.length)

/-! ## Faults -/

/-- What must agree between the two windows of a transfer, with the descriptor checks (R133, R143). -/
def State.agreeFaults (s : State) (d t : Desc) (td ts : T4) : List Flt :=
  s.descFaults d td true false false ++ s.descFaults t ts true false t.copiesHdr ++
  (if d.fmt ≠ t.fmt ∨ d.smode ≠ t.smode ∨ d.rows ≠ t.rows ∨ d.cols ≠ t.cols ∨ t.d0.toNat / 2 ^ 62 = 2
   then [Flt.operand 0 td] else [])

/-- The address fault of a byte range of a global address, for a context; the control window is no place for a transfer. -/
def State.rangeFault (s : State) (x : CtxId) (g : Word) (o n : Nat) (write : Bool) : Option Flt :=
  if n = 0 then none
  else match s.target (g + BitVec.ofNat 64 o) with
    | none => some (.addr (g.toNat + o))
    | some t =>
      let a := lowAddr g + o
      if 0xFF0000000000 ≤ a ∧ a < 0xFF0040000000 then some (.addr (g.toNat + o))
      else match s.spanFault x t n write with
        | some q => some (.addr (g.toNat + o + (q - a)))
        | none => if s.bridgeCut (dieOf x.core) t then some .cut else none

/-- The fault of the addresses of a window that a background operation uses (R157): the lowest local linear index first. -/
def State.windowFault (s : State) (x : CtxId) (d : Desc) (t : T4) (l : List (Nat × Nat × Nat)) (write : Bool) : List Flt :=
  lowestFirst (l.filterMap fun q => (s.rangeFault x (d.plane q.1) q.2.1 q.2.2 write).map fun f =>
    (d.elemAt q.1 (max q.2.1 (f.value - (d.plane q.1).toNat)), f.of t))

/-- The faults of the addresses of a transfer. -/
def State.moveFaults (s : State) (x : CtxId) (d t : Desc) (td ts : T4) : List Flt :=
  s.windowFault x d td (writeList d t) true ++ s.windowFault x t ts (readList d t) false

/-- The opcode of the instruction that started a background operation. -/
def BgKind.op : BgKind → Nat
  | .tcopy _ _ => 0x65
  | .stream _ => 0x66
  | .cache _ _ => 0x68
  | .gather _ _ _ _ => 0x69

/-- Note the fault of a background transfer (R146): its context will halt at its next instruction boundary. -/
def State.noteBgFault (s : State) (g : Bg) (f : Flt) : State :=
  let a : AsyncFault := { x := g.x, store := false, code := f.code + 16 * f.detail, value := BitVec.ofNat 64 f.value, op := g.kind.op,
                          iaddr := g.iaddr, tag := g.tag, layer := g.layer, mbatch := g.mbatch, treg := f.treg }
  { s with core := { s.core with faults := if g.muted then s.core.faults else s.core.faults ++ [a] } }

/-- Change a background operation. -/
def State.modBg (s : State) (id : Nat) (f : Bg → Bg) : State :=
  { s with core := { s.core with bg := s.core.bg.map fun h => if h.id = id then f h else h } }

/-- Remove a background operation: it holds no fabric context any more. -/
def State.endBg (s : State) (id : Nat) : State :=
  ({ s with core := { s.core with bg := s.core.bg.filter fun h => h.id != id } }).showFctx

/-- A background transfer fails (R146): the operation ends without its cleat. One that a stopped die bridge cuts off waits (R115). -/
def State.bgFault (s : State) (g : Bg) (f : Flt) : State :=
  if f.code = 15 then s else (s.noteBgFault g f).endBg g.id

/-! ## Requests of a transfer -/

/-- Cut a byte range into packet payloads. -/
def packetPieces (o n : Nat) : List (Nat × Nat) :=
  (List.range ((n + 4095) / 4096)).map fun i => (o + 4096 * i, min 4096 (n - 4096 * i))

/-- The instruction that started a background operation. -/
def State.bgIns (s : State) (g : Bg) : Ins :=
  { x := g.x, op := g.kind.op, words := 1, tag := g.tag, iaddr := g.iaddr, layer := g.layer, mbatch := g.mbatch,
    step := (s.stepOf g.x).truncate 32, raise := 0 }

/-- The other modules that a global address leads to. -/
def State.farOf (s : State) (a : Word) : List Nat :=
  match s.target a with
  | some (.remote m _) => if m = s.lmn then [] else [m]
  | some (.multicast h _) => s.others h
  | _ => []

/-- Whether an operation has requests to send or outstanding for a transfer. -/
def State.bgWaits (s : State) (id nth : Nat) : Bool :=
  (s.fab.reqs.any fun r => match r.kind with
    | .bgRead b n _ _ => b == id && n == nth
    | .bgWrite b n => b == id && n == nth
    | _ => false) || s.core.bg.any fun g => g.id == id && g.unsent.any fun a => a.nth == nth

/-- Send one request of a background operation (R161, R274). -/
def State.sendAsk (s : State) (g : Bg) (a : Ask) : State :=
  match a.read with
  | some (p, o, n) => s.request { s.packet 0x03 5 a.dst a.addr [] with tspec := n } (.bgRead g.id a.nth p o) (s.bgIns g) g.gen g.fctx 1
  | none => s.request { s.packet 0x01 3 a.dst a.addr a.data with mc := a.mc } (.bgWrite g.id a.nth) (s.bgIns g) g.gen g.fctx a.acks

/-- Send what a background operation has yet to send, as far as response tags are free (R274). -/
def State.flushBg (s : State) (id : Nat) : State :=
  match s.core.bg.find? fun g => g.id == id with
  | none => s
  | some g =>
    let n := s.freeTags
    (forAll (g.unsent.take n) s fun s a => s.sendAsk g a).modBg id fun h => { h with unsent := h.unsent.drop n }

/-- A background operation has more to send. -/
def State.askBg (s : State) (id : Nat) (l : List Ask) : State := (s.modBg id fun h => { h with unsent := h.unsent ++ l }).flushBg id

/-- The requests for a source at another module, and for the bytes of a destination at another module that the transfer writes in part. -/
def State.readAsks (s : State) (nth : Nat) (d t : Desc) : List Ask :=
  let src (m : Nat) : List Ask := (readList d t).flatMap fun q => (packetPieces q.2.1 q.2.2).map fun p =>
    ⟨nth, m, false, 1, lowAddr (t.plane q.1) + p.1, some (q.1, p.1, p.2), []⟩
  (s.farOf t.d0).flatMap src ++ d.edges.flatMap fun q => (s.farOf (d.plane q.1)).map fun m =>
    ⟨nth, m, false, 1, lowAddr (d.plane q.1) + q.2, some (4 + 4 * m + q.1, q.2, 1), []⟩

/-- The requests that write bytes at a module, or at the other members of a peloton. -/
def writeAsks (nth m : Nat) (mc : Bool) (acks b : Nat) (bs : List Byte) : List Ask :=
  (packetPieces 0 bs.length).map fun p => ⟨nth, m, mc, acks, b + p.1, none, (bs.drop p.1).take p.2⟩

/-- Write bytes of a transfer at a global address: here, at another module, or at every member of a peloton (R12, R267). -/
def State.sendWrites (s : State) (g : Bg) (nth : Nat) (u : User) (a : Word) (bs : List Byte) : State :=
  let i := s.bgIns g
  match s.target a with
  | some (.here b) => s.store i u b bs
  | some (.remote m b) => if m = s.lmn then s.store i u b bs else s.askBg g.id (writeAsks nth m false 1 b bs)
  | some (.multicast h b) =>
    let s := s.store i u b bs
    if (s.others h).isEmpty then s else s.askBg g.id (writeAsks nth h true (s.others h).length b bs)
  | none => s

/-- Write a byte that a transfer writes in part: `mine` here, and what each other module's byte becomes there. -/
def State.sendEdge (s : State) (g : Bg) (nth : Nat) (u : User) (a : Word) (mine : Byte) (of : Nat → Byte) : State :=
  let s := match s.target a with
    | some (.remote m b) => if m = s.lmn then s.store (s.bgIns g) u b [mine] else s
    | some (.here b) => s.store (s.bgIns g) u b [mine]
    | some (.multicast _ b) => s.store (s.bgIns g) u b [mine]
    | none => s
  s.askBg g.id ((s.farOf a).map fun m => ⟨nth, m, false, 1, lowAddr a, none, [of m]⟩)

/-- A byte of a remote plane as it arrived: plane 0, 1 or 2 of the source, or 4 + 4 * m + p for plane p of the destination at
module m. -/
def arrived (g : Bg) (nth p o : Nat) : Nat :=
  match g.data.find? fun q => q.1 == nth && q.2.1 == p && decide (q.2.2.1 ≤ o ∧ o < q.2.2.1 + q.2.2.2.length) with
  | some q => (q.2.2.2.getD (o - q.2.2.1) 0).toNat
  | none => 0

/-- A byte of a destination after a transfer has written `l`. -/
def State.movedByte (s : State) (d : Desc) (l : List (Nat × Nat × List Byte)) (p o : Nat) : Byte :=
  match l.find? fun q => q.1 == p && decide (q.2.1 ≤ o ∧ o < q.2.1 + q.2.2.length) with
  | some q => q.2.2.getD (o - q.2.1) 0
  | none => if (s.farOf (d.plane p)).isEmpty then s.byte (lowAddr (d.plane p) + o) else 0

/-- Dump what a transfer writes for the watchpoints that match (R451, R452); one of an abandoned attempt is not dumped. -/
def State.dumpMove (s : State) (g : Bg) (d : Desc) (l : List (Nat × Nat × List Byte)) : State :=
  let i := { s.bgIns g with raise := match (s.ctx g.x).bracket with
    | some b => if g.bracket = some b.serial then b.raise else 0
    | none => 0 }
  let w := s.lateWatchers i 0
  if g.muted || w == [] then s
  else s.dump w 0 i s.lmn d (d.dumpBytes fun p o n => (List.range n).map fun k => s.movedByte d l p (o + k))

/-- Apply what a transfer writes, and dump it where a watchpoint names it: `plan` gives it from what the bytes of its destination held. -/
def State.applyMove (s : State) (g : Bg) (nth : Nat) (u : User) (d : Desc)
    (plan : (Nat → Nat → Nat) → List (Nat × Nat × List Byte)) : State :=
  forAll (plan (s.oldHere d)) (s.dumpMove g d (plan (s.oldHere d))) fun s q =>
    let a := d.plane q.1 + BitVec.ofNat 64 q.2.1
    let e := q.2.2.length - 1
    if (s.farOf a).isEmpty || !d.edges.contains (q.1, q.2.1 + e) then s.sendWrites g nth u a q.2.2
    else
      let of (m : Nat) : Byte :=
        match (plan fun p o => arrived g nth (4 + 4 * m + p) o).find? fun z => z.1 == q.1 && z.2.1 == q.2.1 with
        | some z => z.2.2.getLastD 0
        | none => 0
      (s.sendWrites g nth u a q.2.2.dropLast).sendEdge g nth u (a + BitVec.ofNat 64 e) (q.2.2.getLastD 0) of

/-! ## Check entries of a transfer (R332) -/

/-- The check entry of a whole destination block at offset `o` of a plane: the source's entry when a whole checked block
with a valid entry was copied, otherwise a computed one. -/
def State.moveEntry (s : State) (g : Bg) (f : Nat) (d t : Word) (samePitch : Bool) (b : Nat) (bytes : List Byte) : List Byte :=
  let o := b - lowAddr d
  let src := lowAddr t + o
  match (if samePitch ∧ src % 4096 = 0 ∧ t.toNat < 2 ^ 62 then s.validEntry src else none) with
  | some e => toBytes 16 e
  | none =>
    let s' := s.putBytes b bytes
    toBytes 16 (crc32c bytes + s'.blockSum f (lowAddr d) b * 2 ^ 32 + f * 2 ^ 64 + 2 ^ 68 + g.tag.toNat * 2 ^ 72 +
      ((s.stepOf g.x).toNat % 2 ^ 32) * 2 ^ 88)

/-- The bytes [b, b + 4096) among what a transfer writes to a plane. -/
def bytesOf (base b : Nat) (l : List (Nat × List Byte)) : List Byte :=
  (l.map fun q => let a := base + q.1; (q.2.drop (b - a)).take (b + 4096 - max a b)).flatten

/-- The check entries that a transfer owes: global address and bytes, by plane. -/
def State.owedEntries (s : State) (g : Bg) (d t : Desc) (l : List (Nat × Nat × List Byte)) : List (Word × List Byte) :=
  let plane (p f : Nat) (same : Bool) : List (Word × List Byte) :=
    let rows := (l.filter fun q => q.1 == p).map Prod.snd
    let base := lowAddr (d.plane p)
    (wholeBlocks (rows.map fun q => (base + q.1, q.2.length))).filterMap fun b =>
      (s.checkEntry b).map fun e =>
        (BitVec.ofNat 64 ((d.plane p).toNat / 2 ^ 48 * 2 ^ 48 + e), s.moveEntry g f (d.plane p) (t.plane p) same b (bytesOf base b rows))
  plane 0 d.fmt (d.pitch == t.pitch) ++ plane 1 11 (d.spitch == t.spitch)

/-! ## The end of a transfer -/

/-- What an attempt to end a transfer comes to. -/
inductive Ended where
  | waits (s : State)
  | faulted (s : State) (f : Flt)
  | finished (s : State)

/-- Start a transfer: its faults are found, and the requests for what it reads at other modules leave. -/
def State.startMove (s : State) (g : Bg) (nth : Nat) (d t : Desc) : State × Option Flt :=
  match firstFault (s.agreeFaults d t g.tdn g.tsn ++ s.moveFaults g.x d t g.tdn g.tsn) with
  | some f => (s, some f)
  | none => (s.askBg g.id (s.readAsks nth d t), none)

/-- A transfer waits once more where it has requests outstanding, and is finished where it has none. -/
def State.finishedOr (s : State) (id nth : Nat) (l : List (Nat × Word × List Byte)) : Ended :=
  if s.bgWaits id nth then .waits (s.modBg id fun h => { h with entries := h.entries ++ l }) else .finished s

/-- Which of its latencies a Pump measures in a transfer (R253): by where its source lies. -/
def State.latencyOf (s : State) (c : Fin 256) (t : Desc) (far : Bool) (dramReads : Nat) : Option (Nat × Nat) :=
  let a := lowAddr t.d0
  if far then some F.corePmplat_REMOTE
  else if 0x020000000000 ≤ a then none
  else if dramDie a ≠ dieOf c then some F.corePmplat_BRIDGE
  else if dramReads = 0 then some F.corePmplat_CACHE
  else some F.corePmplat_LOCAL

/-- End a transfer as far as it can go: read a source that lies here, write, wait for acknowledgements, write the check
entries, wait for theirs. -/
def State.finishMove (s : State) (g : Bg) (nth : Nat) (d t : Desc) : Ended :=
  let td := g.tdn
  let ts := g.tsn
  let s := s.flushBg g.id
  if s.bgWaits g.id nth then .waits s
  else match g.entries.filter fun e => e.1 == nth with
    | e :: r =>
      let s := s.modBg g.id fun h => { h with entries := h.entries.filter fun e => e.1 != nth }
      if e.2.2 = [] then .finished s
      else (forAll (e :: r) s fun s e => s.sendWrites g nth .hub e.2.1 e.2.2).finishedOr g.id nth [(nth, 0, [])]
    | [] =>
      let far := !(s.farOf t.d0).isEmpty
      let here : List (Nat × Nat) := if far then [] else (readList d t).map fun q => (lowAddr (t.plane q.1) + q.2.1, q.2.2)
      let k := clusterOf g.x.core
      match firstFault (s.agreeFaults d t td ts ++ s.moveFaults g.x d t td ts ++
          (if far && t.copiesHdr && t.headerByteBad (arrived g nth 2 1) then [Flt.operand 9 ts] else [])) with
      | some f => .faulted s f
      | none => match s.readServed .pump k here with
        | (s, some p) => .faulted s ((s.dataFault [(t, ts, needed d t)] p).of ts)
        | (s, none) => match (if far then (s, none) else s.verifyWindow .pump (dieOf g.x.core) t (needed d t)) with
          | (s, some b) => .faulted s ⟨7, 1, b, ts.val⟩
          | (s, none) =>
            let s := match s.latencyOf g.x.core t far (s.served k here).2.length with
              | some f => s.pumpLatency g.x.core f
              | none => s
            let get (p o : Nat) : Nat := if far then arrived g nth p o else (s.byte (lowAddr (t.plane p) + o)).toNat
            let plan := movePlan d t (copyRow d t) get
            let owed := s.owedEntries g d t (plan (s.oldHere d))
            let s := (s.modBg g.id fun h => { h with data := h.data.filter fun q => q.1 != nth }).applyMove g nth .pump d plan
            if s.bgWaits g.id nth then
              s.finishedOr g.id nth (if owed = [] then [(nth, 0, [])] else owed.map fun e => (nth, e.1, e.2))
            else (forAll owed s fun s e => s.sendWrites g nth .hub e.1 e.2).finishedOr g.id nth [(nth, 0, [])]

/-- The `nth` background operation of a context that satisfies a test. -/
def State.nthBg (s : State) (x : CtxId) (nth : Nat) (p : BgKind → Bool) : Option Bg :=
  (s.core.bg.filter fun g => g.x == x && p g.kind)[nth]?

/-- The Pump of a core can take one more instruction (R103). -/
def State.pumpFree (s : State) (c : Fin 256) : Bool :=
  decide ((s.core.bg.filter fun g => g.x.core == c && match g.kind with
    | .gather _ _ _ _ => false
    | _ => true).length < 16)

/-- Whether a transfer between two windows reaches another module. -/
def State.isFar (s : State) (d t : Desc) : Bool := !((s.farOf d.d0).isEmpty && (s.farOf t.d0).isEmpty)

/-- The fabric context that a background operation takes (R290): none is free where it answers none. -/
def State.takeFctx (s : State) (c : Fin 256) (far : Bool) : Option Nat := if far then s.freeFctx c else some noFctx

/-- Queue a background operation. -/
def State.addBg (s : State) (i : Ins) (k : BgKind) (td ts : T4) (cl : Cleat) (fctx : Nat) : State × Bg :=
  let g : Bg := { id := s.core.nextBg, x := i.x, kind := k, tdn := td, tsn := ts, cl := cl, iaddr := i.iaddr, tag := i.tag, layer := i.layer,
                  mbatch := i.mbatch, bracket := (s.ctx i.x).bracket.map Bracket.serial, gen := (s.ctx i.x).latch.gen, fctx := fctx,
                  unsent := [], muted := false, data := [], entries := [] }
  (({ s with core := { s.core with bg := s.core.bg ++ [g], nextBg := s.core.nextBg + 1 } }).showFctx, g)

/-- A background operation adds 1 to its cleat, unless its bracket was abandoned (R176). -/
def State.bgCleat (s : State) (g : Bg) : State := if g.muted then s else s.addCleat g.x.core g.cl 1

end Sys2Proof.Machine
end

