-- ==== Sys2Proof/Machine/Fabric.lean ====
section
/-!
DEFINITION. Packets on the fabric: their types and headers (R266-R268), the tables that route an item of a generation (R164,
R282), sending on a link with credits and the retry buffer (R270, R276), the spill region (R287), and forwarding a whole
packet through the module's router (R281-R284, R286).
-/

namespace Sys2Proof.Machine

/-! ## Packet types (R267) -/

/-- Home channel of a packet type. -/
def homeVc (t : Nat) : Option Nat :=
  if t ∈ [0x01, 0x02] then some 3
  else if t = 0x03 then some 5
  else if t ∈ [0x04, 0x05, 0x06, 0x07, 0x0E, 0x10] then some 0
  else if t ∈ [0x08, 0x09] then some 1
  else if t ∈ [0x0A, 0x0B] then some 2
  else if t = 0x0C then some 4
  else if t ∈ [0x0D, 0x0F] then some 6
  else none

/-- Types that may travel on VC7. -/
def escapable (t : Nat) : Bool := t ∈ [0x01, 0x02, 0x03, 0x0A, 0x0B, 0x0C, 0x0D, 0x0F]

/-- Types that a module may deliver twice. -/
def idempotent (t : Nat) : Bool := !(t ∈ [0x02, 0x08, 0x09])

/-- Types whose DST may be a peloton handle. -/
def mcAllowed (t : Nat) : Bool := t ∈ [0x01, 0x08, 0x09, 0x0A, 0x0B]

/-- Types that are answered on VC0. -/
def isRequest (t : Nat) : Bool := t ∈ [0x01, 0x02, 0x03, 0x0D, 0x0F]

/-- Whether LEN is in a type's range. -/
def lenOk (t n : Nat) : Bool :=
  if t ∈ [0x01, 0x04, 0x0B, 0x0C] then decide (1 ≤ n ∧ n ≤ 4096)
  else if t ∈ [0x02, 0x06] then n == 8
  else if t = 0x0A then decide (16 ≤ n ∧ n ≤ 4096)
  else if t ∈ [0x0D, 0x0E] then decide (n ≤ 4096)
  else n == 0

/-- The bits of TSPEC that a type assigns (R267, R303), as (lowest, width) from header bit 168 up. -/
def tspecBits (t kind : Nat) : List (Nat × Nat) :=
  if t = 0x03 then [(0, 13)]
  else if t = 0x07 then [(0, 4)]
  else if t = 0x08 then [(0, 64)]
  else if t = 0x09 then
    (if kind = 1 ∨ kind = 2 then [(0, 64)]
     else if kind = 6 then [(0, 32), (32, 6)]
     else if kind = 3 then [(0, 58)]
     else if kind = 5 then [(0, 10), (26, 40)]
     else [(0, 10), (26, 32)])
  else if t = 0x0A then [(0, 65)]
  else if t = 0x0B then [(0, 6), (8, 30)]
  else if t = 0x0C then [(0, 39)]
  else if t = 0x0D ∨ t = 0x0E then [(0, 88)]
  else if t = 0x0F then [(0, 3)]
  else if t = 0x10 then [(0, 21)]
  else []

/-- Whether bits outside a list of fields are nonzero. -/
def bitsOutside (v : Nat) (l : List (Nat × Nat)) : Bool :=
  l.foldl (fun (w : Nat) f => w - (w / 2 ^ f.1 % 2 ^ f.2) * 2 ^ f.1) v != 0

/-- The header of a header flit (R266); its payload follows in data flits. -/
def Packet.parse (w : BitVec 256) : Packet :=
  let g (lo n : Nat) : Nat := getBits w (lo, n)
  let typ := g 5 5
  let addr := g 64 48
  let coll := typ ∈ [0x09, 0x0A, 0x0B, 0x0C]
  let kind := if coll then addr / 2 ^ 38 % 16 else 0
  { vc := g 0 3, dlc := bit w 3, phase := bit w 4, typ := typ, len := g 10 13, gtag := g 23 1, mc := bit w 24, sh := bit w 25,
    direct := bit w 26, lock := bit w 27, dir := bit w 28, relayed := bit w 29,
    rsv := g 30 2 != 0 || g 60 4 != 0 || g 126 2 != 0 || bitsOutside (g 168 88) (tspecBits typ kind) ||
      (coll && (addr / 2 ^ 43 != 0 || (typ != 0x09 && addr / 2 ^ 38 != 0))),
    dst := g 32 14, src := g 46 14, addr := addr, fctx := g 112 14, optag := BitVec.ofNat 16 (g 128 16), tag := g 144 16,
    hops := g 160 8, tspec := g 168 88, payload := [], entry := none }

/-- A packet that a receiver discards (R268). -/
def Packet.malformed (p : Packet) : Bool :=
  match homeVc p.typ with
  | none => true
  | some v => !(p.vc == v || (p.vc == 7 && escapable p.typ)) || !lenOk p.typ p.len || (p.mc && !mcAllowed p.typ) || p.rsv

/-- Flits of a packet. -/
def Packet.flits (p : Packet) : Nat := 1 + (p.len + 31) / 32

/-- Row of the buffer allocation that a packet's class names (R276). -/
def Packet.row (p : Packet) : Nat :=
  let c := 2 * b2n p.phase + b2n p.dlc
  if p.vc = 0 then c else if p.vc = 1 then 4 + c else if p.vc = 7 then 13 + c else 6 + p.vc

/-- Flits that a row reserves. -/
def rowSize (r : Nat) : Nat := if r = 17 then 29184 else if 4 ≤ r ∧ r < 8 then 64 else 256

/-! ## Generations (R161, R164) -/

/-- The live generation. -/
def State.live (s : State) : Nat := s.fld .hubGenlive F.hubGenlive_GEN

/-- A generation is installed beside the live one: its list has been copied. -/
def State.beside (s : State) : Bool := s.flag .hubGenstat F.hubGenstat_PEND && s.flag .hubGenstat F.hubGenstat_COPIED

/-- The old generation still drains. -/
def State.draining (s : State) : Bool := s.flag .hubGenstat F.hubGenstat_DRAIN

/-- A side-by-side register as items with a GTAG see it. -/
def State.tagged (s : State) (g : Nat) (r : Reg) : Word :=
  if g = s.live % 2 then s.reg r
  else if s.beside then s.gen.next.get r (s.reg r)
  else if s.draining then s.gen.prev.get r (s.reg r)
  else s.reg r

/-- A GTAG belongs to no installed generation (R166). The old generation's items that arrive after a generation without side-by-side
entries took effect, which leaves nothing to drain, are held as well; the spec does not say (DESIGN CHOICE, log entry 82). -/
def State.uninstalled (s : State) (g : Nat) : Bool := g != s.live % 2 && !s.beside && !s.draining

/-- The GTAG of what this module sends now. -/
def State.gtag (s : State) : Nat := s.live % 2

/-- The descriptor of a peloton for items with a GTAG (R297). -/
def State.pltDesc (s : State) (g : Nat) (p : Peloton) : PltDesc :=
  if g = s.live % 2 then p.desc
  else if s.beside then p.next.getD p.desc
  else if s.draining then p.old.getD p.desc
  else p.desc

/-- The open peloton of a handle for items with a GTAG (R164, R297). -/
def State.pelotonFor (s : State) (g h : Nat) : Option Peloton :=
  let live := s.plt.pelotons.find? fun p => p.handle == h
  if g = s.live % 2 then live
  else if s.beside then (s.gen.opening.find? fun p => p.handle == h).or (if s.gen.closing.contains h then none else live)
  else if s.draining then (s.gen.closed.find? fun p => p.handle == h).or (if s.gen.opened.contains h then none else live)
  else live

/-! ## Spokes -/

/-- A Spoke. -/
def State.spoke (s : State) (p : SpokeId) : Spoke := s.fab.spokes.get p Spoke.reset

/-- Set a Spoke. -/
def State.setSpoke (s : State) (p : SpokeId) (v : Spoke) : State :=
  { s with fab := { s.fab with spokes := s.fab.spokes.set p v } }

/-- State of a link (R292): 0 down, 1 equalising, 2 up, 3 retraining, 4 failed. -/
def State.link (s : State) (p : SpokeId) : Nat := s.fld (.spkLstat p) F.spkLstat_STATE

/-- Why a packet is discarded at a Spoke. -/
inductive Discard where
  | malf | foreign | hoplim | unreach
  deriving DecidableEq, Repr

/-- The number of a reason in the event's counts. -/
def Discard.num : Discard → Nat
  | .malf => 0
  | .foreign => 1
  | .hoplim => 2
  | .unreach => 3

/-- Count a discarded packet, and report it at most once per Spoke per second (R293). -/
def State.discard (s : State) (p : SpokeId) (why : Discard) (k : Packet) : State :=
  let f : Nat × Nat := match why with
    | .malf => F.spkDisc_MALF
    | .foreign => F.spkDisc_FOREIGN
    | .hoplim => F.spkDisc_HOPLIM
    | .unreach => F.spkDisc_UNREACH
  let s := s.count (.spkDisc p) f 1
  let v := s.spoke p
  let l := v.discs ++ [(why.num, k.src, k.typ)]
  let due := match v.discAt with
    | none => true
    | some t => decide (t + 10 ^ 8 ≤ s.time)
  if due then
    let n (r : Nat) : Nat × Nat := (2, (l.filter fun d => d.1 == r).length)
    let first := l.headD (0, 0, 0)
    (s.setSpoke p { v with discs := [], discAt := some s.time }).raiseSpoke p 0x60
      [(1, p.val), n 0, n 1, n 2, n 3, (2, first.2.1), (1, first.2.2)]
  else s.setSpoke p { v with discs := l }

/-- Answer a request with an error response (R275, R282). -/
def State.errRsp (s : State) (k : Packet) (code : Nat) : State :=
  if isRequest k.typ then
    s.send { s.packet 0x07 0 k.src 0 [] with tag := k.tag, fctx := k.fctx, optag := k.optag, gtag := k.gtag, tspec := code }
  else s

/-- A packet without a route (R282, R286): a request is answered with code 4. -/
def State.noRoute (s : State) (p : SpokeId) (k : Packet) : State := (s.discard p .unreach k).errRsp k 4

/-! ## The spill region (R287) -/

/-- The spill region is configured, with at least 32 MiB to re-route. -/
def State.spillOn (s : State) : Bool :=
  s.flag .spkmSpill F.spkmSpill_EN && decide (2 + s.fld .spkmSpill F.spkmSpill_HOLD ≤ s.fld .spkmSpill F.spkmSpill_SIZE)

/-- Bytes that packets take in the spill region. -/
def spillBytes (k : Packet) : Nat := 32 * k.flits

/-- Bytes of a held resent record: one chunk in its widest form. -/
def heldBytes : Nat := 544

/-- Bytes held for collectives. -/
def State.holdUsed (s : State) : Nat :=
  s.plt.colls.foldl (fun n c => n + c.early.foldl (fun a q => a + spillBytes q.2) 0 +
    c.chunks.foldl (fun a h => a + heldBytes * h.held.length) 0) 0

/-- Note the use of the spill region: what waits to be injected again, and what the hold part holds. -/
def State.spillUse (s : State) : State :=
  let n := s.fab.spill.foldl (fun a q => a + spillBytes q.pkt) 0 + s.holdUsed
  let s := { s with fab := { s.fab with spilledBytes := n } }
  s.setFld .spkmSpillstat F.spkmSpillstat_PEAKMIB (max (s.fld .spkmSpillstat F.spkmSpillstat_PEAKMIB) (min ((n + 2 ^ 20 - 1) / 2 ^ 20) 65535))

/-- Eject a packet of Spoke `p` to the spill region. -/
def State.spill (s : State) (p : SpokeId) (q : Spilled) : State :=
  if s.spillOn then ({ s with fab := { s.fab with spill := s.fab.spill ++ [q] } }).spillUse
  else (s.noRoute p q.pkt).raiseSpoke p 0x50 [(1, p.val), (1, q.pkt.typ), (2, q.pkt.dst)]

/-- Whether a relayed packet has room: 24 MiB of the re-route part are kept for packets of R286. -/
def State.relayRoom (s : State) (k : Packet) : Bool :=
  let room := (s.fld .spkmSpill F.spkmSpill_SIZE - s.fld .spkmSpill F.spkmSpill_HOLD) * 2 ^ 24 - 24 * 2 ^ 20
  decide ((s.fab.spill.filter fun q => q.relay).foldl (fun a q => a + spillBytes q.pkt) 0 + spillBytes k ≤ room)

/-! ## Sending on a link -/

/-- Credits left in a row of the allocation at the far end of a link. -/
def State.creditLeft (s : State) (p : SpokeId) (r : Nat) : Nat := rowSize r - (s.spoke p).credits.get r 0

/-- Flits in a retry buffer: those sent and not acknowledged. -/
def Spoke.retryFlits (v : Spoke) : Nat := (v.txSeq + 2 ^ 20 - v.acked) % 2 ^ 20

/-- Whether a Spoke may start a packet (R270, R276): the link is up, its credits are held and the retry buffer has room. -/
def State.mayStart (s : State) (p : SpokeId) (k : Packet) : Bool :=
  s.link p == 2 && decide ((s.spoke p).retryFlits + k.flits ≤ 32768) &&
  (decide (k.flits ≤ s.creditLeft p k.row) || decide (k.flits ≤ s.creditLeft p 17))

/-- Start a packet on a link: it takes credits and sequence numbers, and stays in the retry buffer. -/
def State.transmit (s : State) (p : SpokeId) (k : Packet) : State :=
  let shared := decide (s.creditLeft p k.row < k.flits)
  let k := { k with sh := shared, hops := k.hops + 1, entry := none }
  let r := if shared then 17 else k.row
  let v := s.spoke p
  let s := s.setSpoke p { v with credits := v.credits.set r (v.credits.get r 0 + k.flits), txSeq := (v.txSeq + k.flits) % 2 ^ 20,
                                 retry := v.retry ++ [⟨v.txSeq, k⟩] }
  let d : Fin 2 := ⟨p.val / 4, by omega⟩
  let s := (s.count (.spkTxf p) F.spkTxf_COUNT k.flits).pmuDie 0x0D d k.flits
  let s := s.wrap .pmuBgtotSpk F.pmuBgtotSpk_BYTES k.len
  let s := if k.typ = 0x0D then s.background 5 0 k.len 0 else s
  { s with out := s.out ++ [.packet p k] }

/-! ## Routing (R279-R284) -/

/-- A module's coordinates in its group: x, y, z. -/
def coordOf (m dim : Nat) : Nat := if dim = 0 then m % 4 else if dim = 1 then m / 4 % 4 else m / 16 % 4

/-- The Spoke that plays a role, for items with a GTAG. -/
def State.roleSpoke (s : State) (g role : Nat) : Option SpokeId :=
  (List.finRange 8).find? fun p => getBits (s.tagged g .spkmMap) (4 * p.val, 4) == role

/-- The role of a Spoke, for items with a GTAG. -/
def State.role (s : State) (g : Nat) (p : SpokeId) : Nat := getBits (s.tagged g .spkmMap) (4 * p.val, 4)

/-- Whether a logical module number lies in the job's block, for items with a GTAG (R281). -/
def State.inBlockOf (s : State) (g m : Nat) : Bool :=
  let f (b : Nat × Nat) : Nat := getBits (s.tagged g .spkmBlk) b
  (f F.spkmBlk_XMASK).testBit (m % 4) && (f F.spkmBlk_YMASK).testBit (m / 4 % 4) && (f F.spkmBlk_ZMASK).testBit (m / 16 % 4) &&
  decide (f F.spkmBlk_WBASE ≤ m / 64 ∧ m / 64 < f F.spkmBlk_WBASE + f F.spkmBlk_WCOUNT)

/-- Direction that SPK_RT gives in a dimension toward a coordinate: 0 here, 1 plus, 2 minus, 3 no route. -/
def State.tableDir (s : State) (g dim c : Nat) : Nat := getBits (s.tagged g .spkmRt) (8 * dim + 2 * c, 2)

/-- The dimension in which a packet moved that came in on a Spoke: the Spoke toward −x receives packets that move in +x. -/
def State.movedIn (s : State) (g : Nat) (p : Option SpokeId) : Option (Nat × Bool) :=
  match p with
  | none => none
  | some p => if s.role g p < 6 then some (s.role g p / 2, s.role g p % 2 == 0) else none

/-- A hop that a packet may take next: its Spoke and the packet as it leaves, or nothing that can be done. -/
inductive Hop where
  | here
  | out (p : SpokeId) (k : Packet)
  | relay
  | lost

/-- The packet as it leaves in a dimension and direction (R283): DLC and LOCK start again with a dimension. -/
def leaveIn (k : Packet) (moved : Option (Nat × Bool)) (own dim : Nat) (minus lock : Bool) : Packet :=
  let same := match moved with
    | some q => q.1 == dim
    | none => false
  let wrap := if minus then own == 0 else own == 3
  let dl := if same then k.dlc || wrap else wrap
  { k with dlc := dl, lock := lock || (same && k.lock), dir := if lock || !(same && k.lock) then minus else k.dir }

/-- Whether the link of a Spoke is down for routing: neither up nor within a retrain (R264). -/
def State.linkDown (s : State) (p : SpokeId) : Bool := s.link p != 2 && s.link p != 3 && !(s.spoke p).waiting

/-- The hop of a packet in one dimension (R282, R283, R286): its table direction, DIR under LOCK, or the other direction when
the link is down. -/
def State.dimHop (s : State) (k : Packet) (moved : Option (Nat × Bool)) (dim own c : Nat) : Hop :=
  let g := k.gtag
  let t := s.tableDir g dim c
  let same := match moved with
    | some q => q.1 == dim
    | none => false
  let locked := k.lock && same
  if t = 3 ∨ (t = 0 ∧ locked = false) then .lost
  else
    let minus := if locked then k.dir else t == 2
    let sp (m : Bool) : Option SpokeId := s.roleSpoke g (2 * dim + b2n m)
    let ok (q : Option SpokeId) : Option SpokeId := match q with
      | some p => if s.linkDown p then none else some p
      | none => none
    match ok (sp minus) with
    | some p => .out p (leaveIn k moved own dim minus locked)
    | none => match ok (sp !minus) with
      | some p => .out p (leaveIn k moved own dim (!minus) true)
      | none => .lost

/-- The target of a packet in this group (R282): a module, and the global Spoke to leave by. -/
def State.routeTarget (s : State) (k : Packet) (second : Bool) : Option (Nat × Option SpokeId) :=
  let w := s.fld .spkmCoord F.spkmCoord_W
  if k.dst / 64 = w then some (k.dst % 64, none)
  else
    let g := s.tagged k.gtag (.spkmGrt (Fin.ofNat _ (k.dst / 64)))
    if second then
      (if getBits g F.spkmGrt_V2 = 1 then some (getBits g F.spkmGrt_MOD2, some (if getBits g F.spkmGrt_PORT2 = 1 then 7 else 6)) else none)
    else
      (if getBits g F.spkmGrt_V1 = 1 then some (getBits g F.spkmGrt_MOD1, some (if getBits g F.spkmGrt_PORT1 = 1 then 7 else 6)) else none)

/-- The hops toward a target: the first dimension of the phase's order in which distance is left, or every such dimension. -/
def State.hopsTo (s : State) (k : Packet) (frm : Option SpokeId) (t : Nat × Option SpokeId) : List Hop :=
  let own := s.lmn % 64
  let moved := s.movedIn k.gtag frm
  let dims := if k.phase then [0, 1, 2] else [2, 1, 0]
  let left := dims.filter fun d => coordOf own d != coordOf t.1 d
  match left, t.2 with
  | [], none => [.here]
  | [], some p =>
    if s.linkDown p then [.lost] else [.out p { k with phase := true, dlc := false, lock := false }]
  | _, _ => left.map fun d => s.dimHop k moved d (coordOf own d) (coordOf t.1 d)

/-- The next hops of a packet that is routed to one module, in the order in which the router prefers them (R282-R284). A sum record
stays on the tree of deterministic routes (R299). -/
def State.nextHops (s : State) (k : Packet) (frm : Option SpokeId) : List Hop :=
  let w := s.fld .spkmCoord F.spkmCoord_W
  let adaptive := decide (2 ≤ k.vc ∧ k.vc ≤ 6) && k.typ != 0x0A
  if k.phase = true ∧ k.dst / 64 ≠ w then (if k.relayed then [.lost] else [.relay])
  else
    let one (second : Bool) : List Hop := match s.routeTarget k second with
      | none => []
      | some t => let l := s.hopsTo k frm t; if adaptive then l else l.take 1
    let l := if adaptive ∧ k.dst / 64 ≠ w then one false ++ one true else one false
    let live := l.filter fun h => match h with
      | .lost => false
      | _ => true
    if live.isEmpty then [.lost] else live

/-- The die that a packet comes from at this module: that of the Spoke it came by, or of the core whose fabric context a packet that
is sent here carries (R290). -/
def State.dieFrom (s : State) (frm : Option SpokeId) (k : Packet) : Option Nat :=
  match frm with
  | some p => some (p.val / 4)
  | none =>
    if k.src = s.lmn ∧ k.fctx < 12288 ∧ k.typ ∈ [0x01, 0x02, 0x03, 0x08, 0x09, 0x0A, 0x0B, 0x0C] then
      some (dieOf (Fin.ofNat _ (k.fctx / 48))).val
    else none

/-- Whether a hop stays on the die that its packet comes from, or the die bridge has not stopped (R115). -/
def State.hopOpen (s : State) (frm : Option SpokeId) (h : Hop) : Bool :=
  match h with
  | .out q k => !s.flag .hubBrgcnt F.hubBrgcnt_DOWN || (s.dieFrom frm k).all fun d => d == q.val / 4
  | _ => true

/-- Credits of a hop, for the choice of an adaptive packet (R284). -/
def State.hopCredit (s : State) (h : Hop) : Nat :=
  match h with
  | .out p k => if s.mayStart p k then 1 + s.creditLeft p k.row + s.creditLeft p 17 else 0
  | _ => 0

/-- The hop that a packet takes: the eligible output with the most credits. -/
def State.bestHop (s : State) (l : List Hop) : Option Hop :=
  l.foldl (fun (a : Option Hop) h => match h with
    | .out _ _ =>
      if s.hopCredit h = 0 then a
      else match a with
        | some b => if s.hopCredit b < s.hopCredit h then some h else a
        | none => some h
    | _ => match a with
      | some b => some b
      | none => some h) none

/-! ## The deterministic route (R283) -/

/-- Whether the shorter way from coordinate `a` to `b` goes minus: around the ring where the block closes it, plus on a tie (log
entry 40). -/
def legMinus (ring : Bool) (a b : Nat) : Bool := if ring then (b + 4 - a) % 4 == 3 else decide (b < a)

/-- The next coordinate in a direction. -/
def nextCoord (minus : Bool) (a : Nat) : Nat := if minus then (a + 3) % 4 else (a + 1) % 4

/-- The coordinates after `a` on the way to `b` in a direction. -/
def legTo (minus : Bool) (b : Nat) : Nat → Nat → List Nat
  | 0, _ => []
  | fuel + 1, a => if a = b then [] else nextCoord minus a :: legTo minus b fuel (nextCoord minus a)

/-- Whether the block closes the ring of a dimension. -/
def State.ringOf (s : State) (g dim : Nat) : Bool :=
  let m := getBits (s.tagged g .spkmBlk) (if dim = 0 then F.spkmBlk_XMASK else if dim = 1 then F.spkmBlk_YMASK else F.spkmBlk_ZMASK)
  m.testBit 0 && m.testBit 3

/-- The modules after `m` on the deterministic route to `t` within a group: along z, then y, then x. This module's own hop goes by its
table; elsewhere a leg keeps its direction or starts the shorter way (log entry 40). -/
def State.routeFrom (s : State) (g t : Nat) : Nat → Nat → Option (Nat × Bool) → List Nat
  | 0, _, _ => []
  | fuel + 1, m, prev =>
    match [2, 1, 0].find? fun d => coordOf m d != coordOf t d with
    | none => []
    | some d =>
      let a := coordOf m d
      let b := coordOf t d
      let goesOn := match prev with
        | some q => if q.1 = d then q.2 else legMinus (s.ringOf g d) a b
        | none => legMinus (s.ringOf g d) a b
      let minus := if m = s.lmn then (match s.tableDir g d b with
        | 1 => false
        | 2 => true
        | _ => goesOn) else goesOn
      let n := m - a * 4 ^ d + nextCoord minus a * 4 ^ d
      n :: s.routeFrom g t fuel n (some (d, minus))

/-- The modules after `m` on the deterministic route to `t`, for items with a GTAG. -/
def State.routeTo (s : State) (g m t : Nat) : List Nat := s.routeFrom g t 12 m none

/-! ## Multicast (R282, R289) -/

/-- Whether a multicast packet that moves in dimension `d` still serves a module's coordinate `c` in it: the way from the sender goes
through here in this direction, or, after a turn (LOCK), the coordinate has not been passed. -/
def State.servesOn (s : State) (k : Packet) (d : Nat) (minus : Bool) (own c : Nat) : Bool :=
  let a := coordOf (k.src % 64) d
  if k.lock then !(a :: legTo minus own 4 a).contains c
  else legMinus (s.ringOf k.gtag d) a c == minus && (legTo minus c 4 a).contains own

/-- A peloton's other members that a multicast packet still has to reach through this module: for each, the dimension and
the hop toward it. A packet that moves in a dimension serves members further on in it, and every later dimension. -/
def State.mcHops (s : State) (k : Packet) (frm : Option SpokeId) (ms : List Nat) : List (Nat × Hop) :=
  let own := s.lmn % 64
  let moved := s.movedIn k.gtag frm
  ms.filterMap fun m =>
    match [2, 1, 0].find? fun d => coordOf own d != coordOf (m % 64) d with
    | none => none
    | some d =>
      let h := (d, s.dimHop k moved d (coordOf own d) (coordOf (m % 64) d))
      match moved with
      | none => some h
      | some q =>
        if q.1 < d then none
        else if d < q.1 then some h
        else if s.servesOn k d q.2 (coordOf own d) (coordOf (m % 64) d) then some h else none

/-- The branches of a multicast packet at this router: one per Spoke. -/
def branches (hs : List (Nat × Hop)) : List (SpokeId × Packet) :=
  let l := hs.filterMap fun q => match q.2 with
    | .out p k => some (p, k)
    | _ => none
  l.foldl (fun (a : List (SpokeId × Packet)) q => if a.any fun b => b.1 == q.1 then a else a ++ [q]) []

/-- The dimensions in which a multicast packet has members it cannot reach. -/
def lostDims (hs : List (Nat × Hop)) : List Nat :=
  (hs.filterMap fun q => match q.2 with
    | .lost => some q.1
    | _ => none).eraseDups

/-! ## Forwarding -/

/-- Key under which the credits of a buffered packet are owed: its row, or for shared space 18 + its channel (R166, R276). -/
def InPkt.owedKey (q : InPkt) : Nat := if q.row = 17 then 18 + q.pkt.vc else q.row

/-- Owe back the flits of a packet that leaves its buffer. -/
def owe (m : Map Nat Nat) (q : InPkt) : Map Nat Nat := m.set q.owedKey (m.get q.owedKey 0 + q.pkt.flits)

/-- A packet leaves the input buffer of its Spoke: its flits are owed back as credits. -/
def State.leaveInput (s : State) (frm : Option SpokeId) (nth : Nat) : State :=
  match frm with
  | none => { s with fab := { s.fab with inject := s.fab.inject.eraseIdx nth } }
  | some p =>
    let v := s.spoke p
    match v.input[nth]? with
    | none => s
    | some q => s.setSpoke p { v with input := v.input.eraseIdx nth, owed := owe v.owed q }

/-- A packet is for this module: its endpoint takes it, or discards it as foreign (R281, R288). -/
def State.deliverHere (s : State) (frm : Option SpokeId) (k : Packet) : State :=
  let p := frm.getD 0
  let byp := s.flag .spkmCtl F.spkmCtl_BYPASS && !(k.direct || k.typ == 0x0F || (k.vc == 6 && !k.mc))
  let far := !s.inBlockOf k.gtag k.src && !(k.typ ∈ [0x0D, 0x0E, 0x0F, 0x10]) && !k.direct
  if byp ∨ far then s.discard p .foreign k
  else { s with fab := { s.fab with ejected := s.fab.ejected ++ [(frm, k)] } }

/-- Whether a sum record that passes this module meets its router's slots: the module is a member (R307) and not in bypass (R288). -/
def State.meetsSlot (s : State) (frm : Option SpokeId) (k : Packet) : Bool :=
  k.typ == 0x0A && !k.mc && frm.isSome && k.dst != s.lmn && !s.flag .spkmCtl F.spkmCtl_BYPASS &&
  (match s.pelotonFor k.gtag k.ph with
   | some q => (s.pltDesc k.gtag q).shares.contains s.lmn
   | none => false)

/-- Hold a packet of an uninstalled generation in its input buffer (R166). Event 0x04:0x0052 is raised on the Spoke's die (DESIGN CHOICE, log
entry 75). -/
def State.holdEarly (s : State) (p : SpokeId) (nth : Nat) (k : Packet) : State :=
  let v := s.spoke p
  let s := s.setSpoke p { v with input := v.input.modify nth fun q => { q with held := true } }
  let s := s.setFld .hubGenstat F.hubGenstat_EARLY 1
  if s.gen.early.contains s.live then s
  else ({ s with gen := { s.gen with early := s.live :: s.gen.early } }).raiseEv ⟨p.val / 4, by omega⟩ 4 0x52
    [(1, p.val), (1, k.vc), (1, k.gtag), (4, s.live)]

/-- The modules that a multicast packet goes to, its sender apart. -/
def State.mcMembers (s : State) (k : Packet) : List Nat :=
  let h := if k.typ ∈ [0x09, 0x0A, 0x0B] then k.addr % 2 ^ 14 else k.dst
  match s.pelotonFor k.gtag h with
  | some q => (s.pltDesc k.gtag q).shares.eraseDups.filter fun m => m != k.src
  | none => []

/-- Note since when a packet at the head of its buffer has found no eligible output (R284, log entry 80). -/
def State.noteBlocked (s : State) (frm : Option SpokeId) (nth : Nat) : State :=
  match frm with
  | none => s
  | some p =>
    let v := s.spoke p
    s.setSpoke p { v with input := v.input.modify nth fun q => { q with blocked := some (q.blocked.getD s.time) } }

/-- A multicast packet leaves on every branch at once, and is delivered here where this module is a member; it stays while a branch
cannot start it (R289). Members without a route lose their copy (R282). -/
def State.multicast (s : State) (frm : Option SpokeId) (nth : Nat) (k : Packet) : State :=
  let by_ := frm.or k.entry
  let ms := s.mcMembers k
  let hs := s.mcHops k by_ (ms.filter fun m => m != s.lmn)
  let br := branches hs
  if br.all fun q => s.mayStart q.1 q.2 && s.hopOpen frm (.out q.1 q.2) then
    let s := s.leaveInput frm nth
    let s := forAll br s fun s q => s.transmit q.1 q.2
    let s := forAll (lostDims hs) s fun s _ => s.noRoute (by_.getD 0) k
    if by_.isSome ∧ ms.contains s.lmn = true then s.deliverHere by_ { k with entry := none } else s
  else s.noteBlocked frm nth

/-- Forward a whole packet through the router: it stays where it is while its output cannot start it. -/
def State.forward (s : State) (frm : Option SpokeId) (nth : Nat) (k : Packet) : State :=
  let p := frm.getD 0
  if k.direct then (s.leaveInput frm nth).deliverHere frm k
  else if (s.flag .spkmCoord F.spkmCoord_VALID && s.flag .spkmMap F.spkmMap_VALID) = false then
    (s.leaveInput frm nth).noRoute p k
  else if frm.isSome ∧ s.uninstalled k.gtag = true then s.holdEarly p nth k
  else if 32 ≤ k.hops then ((s.leaveInput frm nth).discard p .hoplim k).errRsp k 4
  else if k.mc then s.multicast frm nth k
  else if s.meetsSlot frm k then (s.leaveInput frm nth).deliverHere frm k
  else
    match s.bestHop ((s.nextHops k frm).filter (s.hopOpen frm)) with
    | none => s.noteBlocked frm nth
    | some .here => (s.leaveInput frm nth).deliverHere frm k
    | some .lost => (s.leaveInput frm nth).noRoute p k
    | some .relay =>
      if s.spillOn = true ∧ s.relayRoom k = false then s
      else (s.leaveInput frm nth).spill p ⟨{ k with phase := false, relayed := true, dlc := false, lock := false }, true, none⟩
    | some (.out q k') => (s.leaveInput frm nth).transmit q k'

/-- The packet at a place of an input buffer, if no earlier packet of its class waits before it. -/
def State.headPacket (s : State) (frm : Option SpokeId) (nth : Nat) : Option Packet :=
  match frm with
  | none =>
    match s.fab.inject[nth]? with
    | some k => if (s.fab.inject.take nth).any fun q => q.row == k.row then none else some k
    | none => none
  | some p =>
    let l := (s.spoke p).input
    match l[nth]? with
    | some q => if (l.take nth).any fun r => r.pkt.row == q.pkt.row then none else some q.pkt
    | none => none

/-- PACKET_FORWARD (R282): a packet of a Spoke's input buffer, or of the injection queue. One whose Rim checks find an uncorrectable
flit is not sent (R261). -/
def execPacketForward (frm : Option SpokeId) (nth : Leaving) (s : State) : Host.Outcome State Fault Refusal :=
  runs s fun s => match s.headPacket frm nth.nth with
    | some k => if nth.rim = 2 then s.leaveInput frm nth.nth else s.forward frm nth.nth k
    | none => s

/-- Whether a packet at the head of an adaptive buffer of a Spoke finds no eligible output. -/
def State.noOutput (s : State) (p : SpokeId) (k : Packet) : Bool :=
  if k.mc then !((branches (s.mcHops k (some p) ((s.mcMembers k).filter fun m => m != s.lmn))).all fun q =>
    s.mayStart q.1 q.2 && s.hopOpen (some p) (.out q.1 q.2))
  else (s.bestHop ((s.nextHops k (some p)).filter (s.hopOpen (some p)))).isNone

/-- ESCAPE_TO_VC7 (R284): an adaptive packet at the head of its buffer that has found no eligible output for 200 ns moves to VC7, once
VC7 has credit at its deterministic next hop, or on every branch of a multicast packet. A packet that R166 holds stays. -/
def execEscapeToVc7 (p : SpokeId) (nth : Nat) (s : State) : Host.Outcome State Fault Refusal :=
  runs s fun s => match s.headPacket (some p) nth, (s.spoke p).input[nth]? with
    | some k, some q =>
      let e := { k with vc := 7, dlc := false }
      if (decide (2 ≤ k.vc ∧ k.vc ≤ 6) && escapable k.typ && !s.uninstalled k.gtag && s.noOutput p k) = false then s
      else match q.blocked with
        | none => s.noteBlocked (some p) nth
        | some t =>
          if s.time < t + 20 then s
          else if k.mc then s.multicast (some p) nth e
          else match (s.nextHops e (some p)).filter (s.hopOpen (some p)) with
            | [.out q k'] => if s.mayStart q k' then (s.leaveInput (some p) nth).transmit q k' else s
            | _ => s
    | _, _ => s

/-- SPILL_REINJECT (R286, R287): the oldest packet of the spill region is injected again, as if new. -/
def execSpillReinject (s : State) : Host.Outcome State Fault Refusal :=
  runs s fun s => match s.fab.spill with
    | [] => s
    | q :: l =>
      let k := { q.pkt with dlc := false, lock := false, vc := (homeVc q.pkt.typ).getD q.pkt.vc }
      ({ s with fab := { s.fab with spill := l, inject := s.fab.inject ++ [k] } }).spillUse

end Sys2Proof.Machine
end

