-- ==== Sys2Proof/Machine/Sum.lean ====
section
/-!
DEFINITION. Sum records (R45-R48): the transport forms, the record's bytes, the records that carry given chunks, and what a
receiver reads from a payload.
-/

namespace Sys2Proof.Machine

/-- Whether k fits `n` bits. -/
def fitsBits (n : Nat) (k : BitVec 128) : Bool := decide (-(2 ^ (n - 1)) ≤ k.toInt ∧ k.toInt < 2 ^ (n - 1))

/-- The transport form of a chunk (R45): the narrowest that holds it. -/
def chunkForm (c : List Elem) : Nat :=
  if c.any fun e => e.st != .fin then 3
  else if c.all fun e => fitsBits 48 e.k then 0
  else if c.all fun e => fitsBits 64 e.k then 1
  else 2

/-- Bytes per element of a form. -/
def formWidth (f : Nat) : Nat := if f = 0 then 6 else if f = 1 then 8 else 16

/-- Bytes of a chunk in a form. -/
def formBytes (f : Nat) : Nat := 32 * formWidth f + (if f = 3 then 8 else 0)

/-- A chunk coded in a form (R46). -/
def chunkBytes (f : Nat) (c : List Elem) : List Byte :=
  (c.map fun e => toBytes (formWidth f) (if e.st = .fin then e.k.toNat % 2 ^ (8 * formWidth f) else 0)).flatten ++
  (if f = 3 then toBytes 8 (c.foldr (fun e n => e.st.code + 4 * n) 0) else [])

/-- The chunk that bytes hold in a form. -/
def chunkOf (f : Nat) (b : List Byte) : List Elem :=
  let w := formWidth f
  (List.range 32).map fun j =>
    let st := if f = 3 then ElState.ofCode (ofBytes ((b.drop 512).take 8) / 4 ^ j % 4) else .fin
    ⟨if st = .fin then BitVec.ofInt 128 (Machine.signed (8 * w) (ofBytes ((b.drop (w * j)).take w))) else 0, st⟩

/-- A sum record (R47). -/
structure SumRec where
  first : Nat
  raise : Nat
  v : Bool
  inf : Bool
  chunks : List (List Elem)
  deriving DecidableEq, Repr

/-- The bytes of a sum record. -/
def SumRec.bytes (r : SumRec) : List Byte :=
  let forms := r.chunks.map chunkForm
  toBytes 8 (r.first % 2 ^ 32 + r.chunks.length % 64 * 2 ^ 32 + r.raise % 4 * 2 ^ 40 + b2n r.v * 2 ^ 42 + b2n r.inf * 2 ^ 43) ++
  toBytes 8 (forms.foldr (fun f n => f + 4 * n) 0) ++ (r.chunks.map fun c => chunkBytes (chunkForm c) c).flatten

/-- The chunks that a payload holds, by their forms. -/
def chunksOf : List Nat → List Byte → List (List Elem)
  | [], _ => []
  | f :: t, b => chunkOf f (b.take (formBytes f)) :: chunksOf t (b.drop (formBytes f))

/-- The sum record that a payload holds; none where it is malformed (R48). -/
def SumRec.parse (b : List Byte) : Option SumRec :=
  let h := ofBytes (b.take 8)
  let n := h / 2 ^ 32 % 64
  let forms := (List.range n).map fun i => ofBytes ((b.drop 8).take 8) / 4 ^ i % 4
  if n = 0 ∨ 32 < n ∨ h / 2 ^ 38 % 4 ≠ 0 ∨ h / 2 ^ 44 ≠ 0 ∨ b.length ≠ 16 + (forms.map formBytes).foldl (· + ·) 0 then none
  else some ⟨h % 2 ^ 32, h / 2 ^ 40 % 4, bit (BitVec.ofNat 64 h) 42, bit (BitVec.ofNat 64 h) 43, chunksOf forms (b.drop 16)⟩

/-- The records that carry numbered chunks of one attempt: consecutive chunks together, at most 4,096 bytes each (R47). -/
def packSums (raise : Nat) (l : List (Nat × List Elem)) : List SumRec :=
  let size (c : List Elem) : Nat := formBytes (chunkForm c)
  let r := l.foldl (fun (a : List SumRec × Nat) q => match a.1 with
    | [] => ([⟨q.1, raise, false, false, [q.2]⟩], 16 + size q.2)
    | r :: t =>
      if q.1 = r.first + r.chunks.length ∧ a.2 + size q.2 ≤ 4096 ∧ r.chunks.length < 32 then
        ({ r with chunks := r.chunks ++ [q.2] } :: t, a.2 + size q.2)
      else (⟨q.1, raise, false, false, [q.2]⟩ :: r :: t, 16 + size q.2)) ([], 0)
  r.1.reverse

/-- The record of an operation to which the fallback applies (R47, INF). -/
def infRecord (first raise : Nat) : SumRec := ⟨first, raise, false, true, [List.replicate 32 ⟨0, .pinf⟩]⟩

/-- Add two chunks exactly. -/
def addChunks (a b : List Elem) : List Elem := List.zipWith Elem.add a b

/-- A chunk of zeros. -/
def zeroChunk : List Elem := List.replicate 32 Elem.zero

/-- Image sum of a chunk (R331, R335). -/
def chunkImage (c : List Elem) : Nat := (c.foldl (fun n e => n + (e.k.toInt % (2 ^ 31 - 1 : Int)).toNat) 0) % (2 ^ 31 - 1)

end Sys2Proof.Machine
end

