-- ==== Sys2Proof/Machine/Coll.lean ====
section
/-!
DEFINITION. Collectives at a module: their key and membership (R298, R299, R303), the tree of deterministic routes (R299), the
hold area (R287, R304, R317), and the launch with its signature (R300-R302).
-/

namespace Sys2Proof.Machine

/-! ## Keys -/

/-- The kind of a notice. -/
def Packet.kind (k : Packet) : Nat := k.addr / 2 ^ 38 % 16

/-- A field of TSPEC, by its lowest header bit and width. -/
def Packet.spec (k : Packet) (bit width : Nat) : Nat := k.tspec / 2 ^ (bit - 168) % 2 ^ width

/-- A collective that has only been heard of. -/
def Coll.heard (ph seq epoch : Nat) : Coll :=
  { ph := ph, seq := seq, epoch := epoch, op := ⟨0, 0, 0, ph, none⟩, opcode := 0, sig := 0, joined := false, up := false, go := false,
    need := false, joins := [], needmap := 0, begun := 0, goAt := 0, parts := [], sent := [], chunks := [], waiting := [],
    early := [], gen := 0, noted := 0, shards := [], closed := false }

/-- Same key. -/
def Coll.same (a b : Coll) : Bool := a.ph == b.ph && a.seq == b.seq && a.epoch == b.epoch

/-- The collective with a key. -/
def State.coll (s : State) (ph seq epoch : Nat) : Option Coll :=
  s.plt.colls.find? fun c => c.ph == ph && c.seq == seq && c.epoch == epoch

/-- Set a collective. -/
def State.setColl (s : State) (c : Coll) : State :=
  { s with plt := { s.plt with colls := (s.plt.colls.filter fun b => !b.same c) ++ [c] } }

/-- Change a collective. -/
def State.modColl (s : State) (c : Coll) (f : Coll → Coll) : State :=
  match s.coll c.ph c.seq c.epoch with
  | some b => s.setColl (f b)
  | none => s

/-! ## Shares and stripes (R296, R298) -/

/-- The shares that a module holds, as a bitmap. -/
def PltDesc.held (d : PltDesc) (m : Nat) : BitVec 64 :=
  BitVec.ofNat 64 (((List.range d.nshare).filter fun i => d.shares.getD i 16384 == m).foldl (fun n i => n + 2 ^ i) 0)

/-- All shares. -/
def PltDesc.all (d : PltDesc) : BitVec 64 := BitVec.ofNat 64 (2 ^ d.nshare - 1)

/-- The shares of a module in order. -/
def PltDesc.sharesOf (d : PltDesc) (m : Nat) : List Nat := (List.range d.nshare).filter fun i => d.shares.getD i 16384 == m

/-- The member that owns a stripe. -/
def PltDesc.owner (d : PltDesc) (stripe : Nat) : Nat := d.shares.getD (stripe % d.nshare) 0

/-- The stripe of an output block. -/
def PltDesc.stripe (d : PltDesc) (t : Desc) : Nat := if d.sdim then t.coloff / 32 else t.rowoff / 32

/-- SEQ bit 15: every member receives the final sums. -/
def allReduce (seq : Nat) : Bool := seq.testBit 15

/-- The descriptor that serves a peloton handle for a GTAG. -/
def State.descFor (s : State) (g ph : Nat) : Option PltDesc := (s.pelotonFor g ph).map (s.pltDesc g)

/-! ## The tree (R299) -/

/-- The parent of a member toward a target member: the first member on its deterministic route. -/
def State.parent (s : State) (g : Nat) (d : PltDesc) (m t : Nat) : Nat :=
  ((s.routeTo g m t).find? fun q => d.shares.contains q).getD t

/-- The root of a peloton: the member that holds share 0. -/
def PltDesc.root (d : PltDesc) : Nat := d.shares.getD 0 0

/-- The children of a member toward the root. -/
def State.children (s : State) (g : Nat) (d : PltDesc) (m : Nat) : List Nat :=
  d.members.filter fun q => q != m && q != d.root && s.parent g d q d.root == m

/-- The members whose JOIN reaches the root through a member, itself among them. -/
def State.subtree (s : State) (g : Nat) (d : PltDesc) (m : Nat) : List Nat :=
  d.members.filter fun q => q == m || (s.routeTo g q d.root).contains m

/-- The shares whose route to an owner passes a module (R308). -/
def State.passing (s : State) (g : Nat) (d : PltDesc) (owner m : Nat) : BitVec 64 :=
  BitVec.ofNat 64 (((List.range d.nshare).filter fun i =>
    let h := d.shares.getD i 0
    h == m || (s.routeTo g h owner).contains m).foldl (fun n i => n + 2 ^ i) 0)

/-! ## The hold area (R287) -/

/-- Whether the hold part takes `n` more bytes: the region is configured, with a re-route part of 32 MiB (R287, R292). -/
def State.holdRoom (s : State) (n : Nat) : Bool :=
  s.spillOn && decide (s.holdUsed + n ≤ s.fld .spkmSpill F.spkmSpill_HOLD * 2 ^ 24)

/-- A packet that the hold part cannot take is discarded. -/
def State.holdDiscard (s : State) (frm : Option SpokeId) (k : Packet) (chunk : Nat) : State :=
  (s.count .spkmSpillstat F.spkmSpillstat_HOLDDISC 1).raiseSpoke (frm.getD 0) 0x52
    [(1, (frm.getD 0).val), (1, k.typ), (2, k.ph), (4, chunk)]

/-- Hold a packet for a collective that this module has not joined. -/
def State.holdPacket (s : State) (frm : Option SpokeId) (k : Packet) : State :=
  if s.holdRoom (spillBytes k) = false then s.holdDiscard frm k ((SumRec.parse k.payload).map SumRec.first |>.getD 0)
  else
    let c := (s.coll k.ph k.seq k.epoch).getD (Coll.heard k.ph k.seq k.epoch)
    let c := if c.closed then Coll.heard k.ph k.seq k.epoch else c
    (s.setColl { c with early := c.early ++ [(frm, k)] }).spillUse

/-! ## Incoming packets -/

/-- Take the first packet for this module that a test names out of the endpoint, with the Spoke by which it came. -/
def State.takeFrom (s : State) (p : Option SpokeId → Packet → Bool) : Option (State × Option SpokeId × Packet) :=
  match s.fab.ejected.findIdx? fun q => p q.1 q.2 with
  | none => none
  | some i => match s.fab.ejected[i]? with
    | none => none
    | some (frm, k) => some ({ s with fab := { s.fab with ejected := s.fab.ejected.eraseIdx i } }, frm, k)

/-- Take the first packet of a type for this module out of the endpoint. -/
def State.takePacket (s : State) (p : Packet → Bool) : Option (State × Option SpokeId × Packet) := s.takeFrom fun _ => p

/-- Where a collective packet belongs: an open peloton at the epoch it serves (R317). A packet of a later epoch is held and
reported once; one of an earlier epoch, whose collectives have finished, and one without an open peloton are discarded. -/
def State.accept (s : State) (frm : Option SpokeId) (k : Packet) (f : PltDesc → State → State) : State :=
  let p := frm.getD 0
  match s.pelotonFor k.gtag k.ph with
  | none => s.discard p .foreign k
  | some q =>
    let d := s.pltDesc k.gtag q
    if k.epoch = d.epoch then f d s
    else if k.epoch = (d.epoch + 1) % 256 then
      let s := s.holdPacket frm k
      if q.early then s
      else
        let s := { s with plt := { s.plt with pelotons := s.plt.pelotons.map fun (r : Peloton) =>
          if r.handle = q.handle then { r with early := true } else r } }
        s.raiseEv 0 8 0x60 [(2, k.ph), (1, d.epoch), (1, k.epoch)]
    else match s.coll k.ph k.seq k.epoch with
      | some c => if c.closed then s.discard p .malf k else f (q.old.getD d) s
      | none => s.discard p .malf k

/-! ## Launch (R300-R302) -/

/-- The signature of a collective (R300). -/
def signature (opcode amode rnd fmt ph seq : Nat) (tag : OpTag) (k tid epoch lrows lcols dhash : Nat) : Nat :=
  crc64 (toBytes 32 (opcode + amode * 2 ^ 8 + rnd * 2 ^ 10 + fmt * 2 ^ 12 + ph * 2 ^ 16 + seq * 2 ^ 32 + tag.toNat * 2 ^ 48 +
    k % 2 ^ 32 * 2 ^ 64 + tid * 2 ^ 96 + epoch * 2 ^ 120 + lrows * 2 ^ 128 + lcols * 2 ^ 160 + dhash * 2 ^ 192))

/-- A notice of a collective, as this module sends it. -/
def State.notice (s : State) (dst : Nat) (c : Coll) (kind : Nat) (need : Bool) (spec : Nat) : Packet :=
  { s.packet 0x09 1 dst (collKey c.ph c.seq c.epoch kind need) [] with
    optag := c.op.tag, gtag := c.gen, fctx := hubFctx, tspec := spec }

/-- Whether a part of mma.rs writes final sums here: this module owns its block, or the collective is an all-reduce. -/
def State.writesHere (s : State) (d : PltDesc) (c : Coll) (p : Part) : Bool :=
  allReduce c.seq || d.owner (d.stripe p.tc) == s.lmn

/-- Place of a block in the ring order in which this module sends its blocks (R307): those owned by share s + 1 first, where s is its
lowest share. Other packets keep their order. -/
def State.ringPlace (s : State) (d : PltDesc) (c : Coll) (k : Packet) : Nat :=
  let low := (d.sharesOf s.lmn).headD 0
  match c.parts.find? fun p => k.sumsOf c (blockOf p.tc) with
  | some p => (d.stripe p.tc % d.nshare + 2 * d.nshare - (low + 1)) % d.nshare
  | none => 0

/-- The waiting packets of a collective leave, sum records in ring order: those for this module and sum records meet its own
endpoint and router first (R307, R308). An mma.rs that writes nothing here is complete once its records have left, an xd.disp once its
packets leave (R305). -/
def State.release (s : State) (d : PltDesc) (c : Coll) : State :=
  let s := s.modColl c fun b => { b with
    waiting := []
    parts := b.parts.map fun (p : Part) => if (p.ins.op < 0xC8 && !s.writesHere d b p) || p.ins.op == 0xD0 then { p with done := true } else p }
  forAll (sortBy (fun j k => decide (s.ringPlace d c j ≤ s.ringPlace d c k)) c.waiting) s fun s k =>
    if k.typ = 0x0A ∨ k.dst = s.lmn ∧ k.mc = false then
      { s with fab := { s.fab with ejected := s.fab.ejected ++ [(none, k)] } }
    else s.send k

/-- This module holds GO (R301). -/
def State.holdGo (s : State) (d : PltDesc) (c : Coll) (needmap : BitVec 64) : State :=
  if c.go then s
  else
    let c := { c with go := true, goAt := s.time, needmap := needmap }
    ((s.setColl c).traceColl c 2).release d c

/-- Abort a collective (R313) with a cause. -/
def State.abortColl (s : State) (c : Coll) (cause : Nat) : State :=
  (s.abortAll c.op cause).modColl c fun b => { b with closed := true, waiting := [] }

/-- Signatures differ at a link of the tree (cause 1). -/
def State.sigMismatch (s : State) (c : Coll) (j : Join) : State :=
  (s.abortColl c 1).raiseEv 0 8 0x10 [(2, c.ph), (2, c.seq), (2, c.op.tag.toNat), (8, c.sig), (8, j.sig), (2, s.lmn), (2, j.lmn)]

/-- When its own JOIN and those of all its children are present and equal, a member sends one JOIN up; the root multicasts GO
(R301). -/
def State.tryJoin (s : State) (d : PltDesc) (c : Coll) : State :=
  if !c.joined || c.closed then s
  else match c.joins.find? fun j => j.sig != c.sig with
    | some j => s.sigMismatch c j
    | none =>
      if c.up || !(s.children c.gen d s.lmn).all (fun m => c.joins.any fun j => j.lmn == m) then s
      else
        let c := { c with up := true, noted := s.time }
        let need := c.need || c.joins.any fun j => j.need
        if s.lmn = d.root then
          let needy := (if c.need then [s.lmn] else []) ++ ((c.joins.filter fun j => j.need).map fun j => s.subtree c.gen d j.lmn).flatten
          let map := (needy.eraseDups.map d.held).foldl (· ||| ·) 0
          let s := s.setColl c
          let s := if d.members.length = 1 then s
            else s.send { s.notice c.ph c noticeGo false map.toNat with mc := true }
          s.holdGo d c map
        else ((s.setColl c).traceColl c 1).send (s.notice (s.parent c.gen d s.lmn d.root) c noticeJoin need c.sig)

/-- A fused instruction of a collective issues: the first one joins it, and packets held for it are taken up (R301, R304). -/
def State.joinColl (s : State) (d : PltDesc) (c : Coll) : State :=
  let early := c.early
  let c := { c with joined := true, begun := s.time, early := [] }
  let s := s.setColl c
  let s := { s with fab := { s.fab with ejected := s.fab.ejected ++ early } }
  s.tryJoin d c

end Sys2Proof.Machine
end

