-- ==== Sys2Proof/Machine/Funcs.lean ====
section
/-!
DEFINITION. The vector functions and their derivatives (R107): the exact value rounded once to binary32.

An algebraic value (division, square root, rsqrt, 1/x) is rounded from its integer quotient or root and a sticky bit. A
transcendental value is enclosed in an interval of fixed-point numbers, at rising precision, until both ends round to one
code (log entry 16).
-/

namespace Sys2Proof.Machine

/-! ## Algebraic values -/

/-- Round a signed magnitude to binary32. -/
def f32Mag (neg : Bool) (g : Mag) : Nat := (ieeeRound 8 23 neg g).1

/-- m × 2^e over n × 2^f, known from below to 80 bits. -/
def magDiv (m : Nat) (e : Int) (n : Nat) (f : Int) : Mag :=
  ⟨(m <<< 80) / n, e - f - 80, decide ((m <<< 80) % n ≠ 0)⟩

/-- The square root of m × 2^e, known from below. -/
def magSqrt (m : Nat) (e : Int) : Mag :=
  let m' := if e % 2 = 0 then m <<< 160 else m <<< 161
  let e' := if e % 2 = 0 then e - 160 else e - 161
  let r := isqrt m'
  ⟨r, e' / 2, decide (r * r ≠ m')⟩

/-- The quotient of two binary32 values (R106). -/
def f32Div (a b : Num) : Nat :=
  match a, b with
  | .nan, _ => f32Of .nan
  | _, .nan => f32Of .nan
  | .inf _, .inf _ => f32Of .nan
  | .inf x, .fin y _ _ => f32Of (.inf (x ^^ y))
  | .fin x _ _, .inf y => f32Of (.fin (x ^^ y) 0 0)
  | .fin x m e, .fin y n f =>
    if n = 0 then (if m = 0 then f32Of .nan else f32Of (.inf (x ^^ y)))
    else f32Mag (x ^^ y) (magDiv m e n f)

/-- The square root of a binary32 value (R106): of -0 it is -0, of another negative value NaN. -/
def f32Sqrt (a : Num) : Nat :=
  match a with
  | .nan => f32Of .nan
  | .inf n => if n then f32Of .nan else f32Of (.inf false)
  | .fin n m e => if m = 0 then f32Of a else if n then f32Of .nan else f32Mag false (magSqrt m e)

/-! ## Enclosures -/

/-- An interval of fixed-point numbers: lo and hi over 2^P. -/
structure Itv where
  lo : Int
  hi : Int
  deriving DecidableEq, Repr

/-- Quotient by 2^p rounded up. -/
def shrUp (i : Int) (p : Nat) : Int := -((-i) / (2 ^ p : Int))

/-- Quotient by 2^p rounded down. -/
def shrDown (i : Int) (p : Nat) : Int := i / (2 ^ p : Int)

def Itv.add (a b : Itv) : Itv := ⟨a.lo + b.lo, a.hi + b.hi⟩
def Itv.neg (a : Itv) : Itv := ⟨-a.hi, -a.lo⟩
def Itv.sub (a b : Itv) : Itv := a.add b.neg

/-- The product, at precision `p`. -/
def Itv.mul (p : Nat) (a b : Itv) : Itv :=
  let w := a.lo * b.lo
  let x := a.lo * b.hi
  let y := a.hi * b.lo
  let z := a.hi * b.hi
  ⟨shrDown (min (min w x) (min y z)) p, shrUp (max (max w x) (max y z)) p⟩

/-- The quotient of an interval by a positive integer. -/
def Itv.divNat (a : Itv) (n : Nat) : Itv := ⟨a.lo / n, -((-a.hi) / n)⟩

/-- The quotient by an interval of positive numbers, at precision `p`. -/
def Itv.div (p : Nat) (a b : Itv) : Itv :=
  let q (x y : Int) : Int := x * 2 ^ p / y
  let u (x y : Int) : Int := -((-(x * 2 ^ p)) / y)
  ⟨min (q a.lo b.lo) (q a.lo b.hi), max (u a.hi b.lo) (u a.hi b.hi)⟩

/-- Multiply by 2^k. -/
def Itv.shift (a : Itv) (k : Int) : Itv :=
  if 0 ≤ k then ⟨a.lo * 2 ^ k.toNat, a.hi * 2 ^ k.toNat⟩ else ⟨shrDown a.lo (-k).toNat, shrUp a.hi (-k).toNat⟩

/-- The interval of an exact value (-1)^neg × m × 2^e. -/
def Itv.of (p : Nat) (neg : Bool) (m : Nat) (e : Int) : Itv := Itv.shift ⟨sgn neg m, sgn neg m⟩ (e + p)

/-- The interval of 1. -/
def Itv.one (p : Nat) : Itv := ⟨2 ^ p, 2 ^ p⟩

/-- Σ z^(2k+1)/(2k+1), k < n: the series of atanh, for 0 ≤ z ≤ 1/3, with its tail. -/
def atanhI (p : Nat) (z : Itv) : Itv :=
  let z2 := z.mul p z
  let r := (List.range (p / 3 + 10)).foldl
    (fun (q : Itv × Itv) k => (q.1.add (q.2.divNat (2 * k + 1)), q.2.mul p z2)) ((⟨0, 0⟩ : Itv), z)
  ⟨r.1.lo, r.1.hi + 2⟩

/-- ln 2 = 2 atanh (1/3). -/
def ln2I (p : Nat) : Itv := (atanhI p ((Itv.one p).divNat 3)).shift 1

/-- Arctangent of 1/n for n ≥ 5, with its tail. -/
def atanInvI (p n : Nat) : Itv :=
  let r := (List.range (p / 4 + 10)).foldl
    (fun (q : Itv × Itv) k =>
      (if k % 2 = 0 then q.1.add (q.2.divNat (2 * k + 1)) else q.1.sub (q.2.divNat (2 * k + 1)), q.2.divNat (n * n)))
    ((⟨0, 0⟩ : Itv), (Itv.one p).divNat n)
  ⟨r.1.lo - 2, r.1.hi + 2⟩

/-- π, by Machin's formula. -/
def piI (p : Nat) : Itv := ((atanInvI p 5).shift 4).sub ((atanInvI p 239).shift 2)

/-- The square root of an interval of positive numbers. -/
def sqrtI (p : Nat) (a : Itv) : Itv :=
  ⟨isqrt (a.lo.toNat * 2 ^ p), isqrt (a.hi.toNat * 2 ^ p) + 1⟩

/-- e^x for an exact x (R107's exp): range reduction by ln 2 and the Taylor series. Beyond ±300 a bound that rounds as
the value does. -/
def expI (p : Nat) (neg : Bool) (m : Nat) (e : Int) : Itv :=
  if magLe m e 300 0 = false then (if neg then ⟨0, 1⟩ else ⟨2 ^ (p + 300), 2 ^ (p + 301)⟩)
  else
    let w := p + 512
    let x := Itv.of w neg m e
    let l := ln2I w
    let k := x.lo / l.lo
    let r := x.sub ⟨min (k * l.lo) (k * l.hi), max (k * l.lo) (k * l.hi)⟩
    let t := (List.range (w / 2 + 20)).foldl
      (fun (q : Itv × Itv) i => (q.1.add q.2, (q.2.mul w r).divNat (i + 1))) ((⟨0, 0⟩ : Itv), Itv.one w)
    (Itv.shift ⟨t.1.lo - 2, t.1.hi + 2⟩ k).shift (-512)

/-- ln of an exact positive x. -/
def logDy (p : Nat) (m : Nat) (e : Int) : Itv :=
  let n := Nat.log2 m
  let a := Itv.of p false m (-(n : Int))
  let z := (a.sub (Itv.one p)).div p (a.add (Itv.one p))
  let k := e + n
  let l := ln2I p
  ((atanhI p z).shift 1).add ⟨min (k * l.lo) (k * l.hi), max (k * l.lo) (k * l.hi)⟩

/-- ln of an interval of numbers at least 1. -/
def logI (p : Nat) (a : Itv) : Itv := ⟨(logDy p a.lo.toNat (-(p : Int))).lo, (logDy p a.hi.toNat (-(p : Int))).hi⟩

/-- σ(x) = 1/(1 + e^(-x)). -/
def sigmoidI (p : Nat) (neg : Bool) (m : Nat) (e : Int) : Itv :=
  (Itv.one p).div p ((Itv.one p).add (expI p (!neg) m e))

/-- erf of an exact |x| < 16: (2/√π) e^(-x²) Σ 2^n x^(2n+1)/(2n+1)!!. -/
def erfAbsI (p : Nat) (m : Nat) (e : Int) : Itv :=
  let w := p + 512
  let x := Itv.of w false m e
  let x2 := (Itv.of w false (m * m) (2 * e)).shift 1
  let t := (List.range (w + 1200)).foldl
    (fun (q : Itv × Itv) n => (q.1.add q.2, (q.2.mul w x2).divNat (2 * n + 3))) ((⟨0, 0⟩ : Itv), x)
  let c := (Itv.one w).shift 1 |>.div w (sqrtI w (piI w))
  (((⟨t.1.lo, t.1.hi + 4⟩ : Itv).mul w (expI w true (m * m) (2 * e))).mul w c).shift (-512)

/-- Φ(x) for an exact |x| < 16: half of 1 + erf(x/√2), the argument carried by the monotonicity of erf. -/
def phiI (p : Nat) (neg : Bool) (m : Nat) (e : Int) : Itv :=
  let w := p + 64
  let r := sqrtI w ((Itv.one w).shift 1)
  let q := (Itv.of w false m e).div w r
  let a : Itv := ⟨(erfAbsI w q.lo.toNat (-(w : Int))).lo, (erfAbsI w q.hi.toNat (-(w : Int))).hi⟩
  let s := if neg then (Itv.one w).sub a else (Itv.one w).add a
  s.shift (-65)

/-- φ(x) = e^(-x²/2)/√(2π). -/
def densI (p : Nat) (m : Nat) (e : Int) : Itv :=
  (expI p true (m * m) (2 * e - 1)).div p (sqrtI p ((piI p).shift 1))

/-- |x| ≥ n. -/
def magGe (m : Nat) (e : Int) (n : Nat) : Bool := magLe n 0 m e

/-- A value that is negative and rounds to -0. -/
def Itv.tinyNeg : Itv := ⟨-1, -1⟩

/-- Enclosure of a function of the table "Vector functions" at a finite nonzero x in its domain (R107). -/
def fnI (fn p : Nat) (neg : Bool) (m : Nat) (e : Int) : Itv :=
  let x := Itv.of p neg m e
  match fn with
  | 1 => expI p neg m e
  | 2 => logDy p m e
  | 3 =>
    let q := expI p true m (e + 1)
    let t := ((Itv.one p).sub q).div p ((Itv.one p).add q)
    if neg then t.neg else t
  | 4 => sigmoidI p neg m e
  | 5 =>
    let t : Itv := if magGe m e 16 then ⟨2 ^ p - 2 ^ (p - 200), 2 ^ p⟩ else erfAbsI p m e
    if neg then t.neg else t
  | 6 =>
    if magGe m e 16 then (if neg then Itv.tinyNeg else x.mul p ⟨2 ^ p - 2 ^ (p - 150), 2 ^ p⟩)
    else x.mul p (phiI p neg m e)
  | 7 => if neg && magGe m e 200 then Itv.tinyNeg else x.mul p (sigmoidI p neg m e)
  | _ =>
    let l := if magGe m e 300 then (⟨0, 1⟩ : Itv) else logI p ((Itv.one p).add (expI p true m e))
    if neg then l else x.add l

/-- Enclosure of a derivative of that table at a finite x in its domain (R107). -/
def dfnI (fn p : Nat) (neg : Bool) (m : Nat) (e : Int) : Itv :=
  let x := Itv.of p neg m e
  let one := Itv.one p
  match fn with
  | 1 => expI p neg m e
  | 3 =>
    let q := expI p true m (e + 1)
    let d := one.add q
    (q.shift 2).div p (d.mul p d)
  | 4 =>
    let q := expI p true m e
    let d := one.add q
    q.div p (d.mul p d)
  | 5 => ((expI p true (m * m) (2 * e)).shift 1).div p (sqrtI p (piI p))
  | 6 =>
    if magGe m e 16 then (if neg then Itv.tinyNeg else ⟨2 ^ p, 2 ^ p + 2 ^ (p - 150)⟩)
    else (phiI p neg m e).add (x.mul p (densI p m e))
  | 7 =>
    if neg && magGe m e 200 then Itv.tinyNeg
    else
      let s := sigmoidI p neg m e
      s.mul p (one.add (x.mul p (one.sub s)))
  | _ => sigmoidI p neg m e

/-- One end of an enclosure rounded to binary32. -/
def roundEnd (p : Nat) (i : Int) : Nat := f32Mag (decide (i < 0)) ⟨i.natAbs, -(p : Int), false⟩

/-- Round an enclosed value: at the first of the given precisions at which both ends round alike. -/
def roundI (f : Nat → Itv) : List Nat → Nat
  | [] => roundEnd 16384 (f 16384).lo
  | p :: ps =>
    let i := f p
    if roundEnd p i.lo = roundEnd p i.hi then roundEnd p i.lo else roundI f ps

/-- The precisions tried, in bits. -/
def precisions : List Nat := [384, 768, 1536, 3072, 6144]

/-- 1/√(m × 2^e), known from below. -/
def magRsqrt (m : Nat) (e : Int) : Mag :=
  let n := 2 ^ (800 - e).toNat
  let r := isqrt (n / m)
  ⟨r, -400, decide (r * r * m ≠ n)⟩

/-- x^(-3/2) of m × 2^e, known from below. -/
def magRsqrt3 (m : Nat) (e : Int) : Mag :=
  let n := 2 ^ (1600 - 3 * e).toNat
  let r := isqrt (n / (m * m * m))
  ⟨r, -800, decide (r * r * (m * m * m) ≠ n)⟩

/-- +∞, -∞, 1, -1, +0, -0 and NaN in binary32. -/
def cInf : Nat := 0x7F800000
def cNegInf : Nat := 0xFF800000
def cOne : Nat := 0x3F800000
def cNegOne : Nat := 0xBF800000
def cNegZero : Nat := 0x80000000
def cNan : Nat := 0x7FC00000

/-- A function of the table "Vector functions" at a binary32 value, as a binary32 code (R107). Function codes are those of
the table "Vector codes". -/
def fnValue (fn : Nat) (x : Num) : Nat :=
  match x with
  | .nan => cNan
  | .inf false => [cInf, cInf, cInf, cOne, cOne, cOne, cInf, cInf, cInf, 0].getD fn cNan
  | .inf true => [0, 0, cNan, cNegOne, 0, cNegOne, cNegZero, cNegZero, 0, cNan].getD fn cNan
  | .fin n m e =>
    if m = 0 then
      match fn with
      | 1 => cOne
      | 2 => cNegInf
      | 4 => 0x3F000000
      | 8 => roundI (fun p => ln2I p) precisions
      | 9 => if n then cNegInf else cInf
      | _ => f32Of x
    else match fn with
      | 2 =>
        if n then cNan
        else if m = 2 ^ Nat.log2 m ∧ e + Nat.log2 m = 0 then 0
        else roundI (fun p => fnI 2 p n m e) precisions
      | 9 => if n then cNan else f32Mag false (magRsqrt m e)
      | _ => roundI (fun p => fnI fn p n m e) precisions

/-- A derivative of the table "Vector functions" at a binary32 value, as a binary32 code (R107). -/
def fnDeriv (fn : Nat) (x : Num) : Nat :=
  match x with
  | .nan => cNan
  | .inf false => [cNan, cInf, 0, 0, 0, 0, cOne, cOne, cOne, cNegZero].getD fn cNan
  | .inf true => [cNan, 0, cNan, 0, 0, 0, cNegZero, cNegZero, 0, cNan].getD fn cNan
  | .fin n m e =>
    match fn with
    | 2 => if m = 0 then cInf else if n then cNan else f32Mag false (magDiv 1 0 m e)
    | 9 =>
      if m = 0 then cNegInf
      else if n then cNan
      else
        let g := magRsqrt3 m e
        f32Mag true { g with e := g.e - 1 }
    | _ => roundI (fun p => dfnI fn p n m e) precisions

end Sys2Proof.Machine
end

