-- ==== Sys2Proof/Machine/Product.lean ====
section
/-!
DEFINITION. The matrix product (R178-R182) as mma and the fused products run it, and mma itself.
-/

namespace Sys2Proof.Machine

/-- An operand's blocking as the quad sees it, with 2 along columns and 3 along rows (R67, R110). -/
def Desc.quadMode (d : Desc) : Nat := if d.tr ∧ 2 ≤ d.smode then 5 - d.smode else d.smode

/-- f of R23: the exponent of the tensor scale, or of the block floor; the invalid byte counts as 128. -/
def State.floorExp (s : State) (d : Desc) : Int :=
  ((if d.smode = 1 then (s.byte (lowAddr d.d2)).toNat else d.floor) : Int) - 127

/-- The part of an operand's window that the unmasked engines read, in memory coordinates (R95): `lead` is the row range of
A, or the column range of B, in the quad's view. -/
def Desc.used (d : Desc) (lead : Nat × Nat) (isA : Bool) : Span :=
  let v := d.view
  let w : Span := if isA then ⟨lead.1, min lead.2 v.rows, 0, v.cols⟩ else ⟨0, v.rows, lead.1, min lead.2 v.cols⟩
  d.clip (if d.tr then w.swap else w)

/-- Rows (or columns) of the output block that unmasked engines compute. -/
def engineRange (emask : Nat) (cols : Bool) : Nat × Nat :=
  let lo := if cols then emask.testBit 0 || emask.testBit 2 else emask.testBit 0 || emask.testBit 1
  let hi := if cols then emask.testBit 1 || emask.testBit 3 else emask.testBit 2 || emask.testBit 3
  (if lo then 0 else 16, if hi then 32 else 16)

/-- The engine that computes element (r, c) of the block (R95). -/
def engineOf (r c : Nat) : Nat := 2 * (r / 16) + c / 16

/-- Element (r, c) of an operand in the quad's view. -/
def State.viewVal (s : State) (d : Desc) (r c : Nat) : Val := if d.tr then s.elemVal d c r else s.elemVal d r c

/-- The block scale exponent of an operand at (r, c) of the view, less its floor (R25); 0 for a tensor scale. -/
def State.scaleRise (s : State) (d : Desc) (f : Int) (r c : Nat) : Int :=
  if d.smode < 2 then 0
  else match scaleExp (s.scaleByte d (if d.tr then c else r) (if d.tr then r else c)) with
    | some e => e - f
    | none => 0

/-- The NaN elements that an instruction reads in a part of an operand. -/
def State.nansIn (s : State) (d : Desc) (opnd : Nat) (w : Span) : List NanSeen :=
  w.cells.filterMap fun p => d.nanOf opnd p.1 p.2 (s.elemVal d p.1 p.2)

/-- The operand faults of R179, with R22, R29, R35 and R67, beside the descriptor checks. -/
def productBad (p : PairInfo) (f : ProdF) (a b tc : Desc) (k : Nat) : List Flt :=
  let va := a.view
  let vb := b.view
  if a.fmt ≠ p.fa ∨ b.fmt ≠ p.fb ∨ 32 < va.rows ∨ 32 < vb.cols ∨ tc.rows ≠ va.rows ∨ tc.cols ≠ vb.cols ∨
     va.cols ≠ vb.rows ∨ va.coloff ≠ vb.rowoff ∨ va.lcols ≠ k ∨ vb.lrows ≠ k ∨ k = 0 ∨
     a.quadMode = 3 ∨ b.quadMode = 2 ∨ (p.gran.isSome ∧ f.amode.val = 1) ∨ (p.gran.isNone ∧ f.amode.val = 0)
  then [Flt.operand 0 0] else []

/-- What an engine's lanes escape in each group (R26): whether element (r, c)'s group sum leaves its fast window. -/
def State.escapes (s : State) (q : AccOp) (p : PairInfo) (a b : Desc) (fa fb : Int) (r c n : Nat) (e : Cell) : List Bool :=
  (List.range ((n + p.g - 1) / p.g)).map fun j =>
    let ts := (e.terms.drop (j * p.g)).take p.g
    let off := max 0 (s.scaleRise a fa r (j * p.g) + s.scaleRise b fb (j * p.g) c)
    let t := (ts.foldl (fun x y => x + gridValue q.anchor q.rnd (q.coord e.elem) y) 0) / 2 ^ off.toNat
    decide (t < -2 ^ 63 ∨ 2 ^ 63 ≤ t)

/-- The descriptors of a product: A, B and the output's. -/
def State.productDescs (s : State) (x : CtxId) (ta tb tc : T4) : Desc × Desc × Desc := (s.tile x ta, s.tile x tb, s.tile x tc)

/-- The parts of A and of B that the unmasked engines read. -/
def usedParts (a b : Desc) (f : ProdF) : Span × Span :=
  (a.used (engineRange f.emask.val false) true, b.used (engineRange f.emask.val true) false)

/-- K of a product (R178). -/
def State.prodK (s : State) (x : CtxId) (f : ProdF) : Nat := (s.sreg x f.sk).toNat % 2 ^ 32

/-- Every fault of a product (R179, R152, R99); `extra` are operand faults of the instruction beyond R179. -/
def State.productFaults (s : State) (i : Ins) (pair : Pair) (ad : A3) (ta tb tc : T4) (f : ProdF) (extra : List Flt) : List Flt :=
  let x := i.x
  let (a, b, d) := s.productDescs x ta tb tc
  let k := s.prodK x f
  let w := usedParts a b f
  s.accFaults i ad f.z ++ s.descFaults a ta true false true ++ s.descFaults b tb true false true ++
    s.descFaults d tc false false false ++ productBad (pairInfo pair) f a b d k ++ extra ++
    s.entryFaults i f.amode.val f.rnd.val d k ++ a.cassetteFaults x.core ta w.1 true ++ b.cassetteFaults x.core tb w.2 true

/-- The byte ranges that a product reads. -/
def productReads (a b : Desc) (f : ProdF) : List (Nat × Nat) :=
  a.ranges (usedParts a b f).1 true ++ b.ranges (usedParts a b f).2 true

/-- What an instruction's anchor mode gives (R29-R31): the anchor before the raise, the product bound of R222, and the maxima
that it took from a pre-pass. -/
structure AnchorOf where
  anchor : Int
  bound : Mant
  pre : List (Desc × DelayedMax)

/-- The log2 of a delayed maximum, rounded up; of 0, the least value of binary32 (R31). -/
def maxLog (q : Mant) : Int := if q.1 = 0 then -149 else clog2Mag q.1 q.2

/-- The anchor of a product (R29-R31). -/
def State.productAnchor (s : State) (i : Ins) (l : Latch) (pair : Pair) (ta tb : T4) (amode k : Nat) : State × Except Flt AnchorOf :=
  let p := pairInfo pair
  let a := s.tile i.x ta
  let b := s.tile i.x tb
  let e := s.floorExp a + s.floorExp b
  if amode = 2 then (s, .ok ⟨s.explicitAnchor i, (1, s.explicitAnchor i + 127 - clog2 k), []⟩)
  else match p.gran with
    | some g => (s, .ok ⟨g + e, (fmaxOf p.fa * fmaxOf p.fb * k, e), []⟩)
    | none => match s.inputMax i l a ta with
      | (s, .error e) => (s, .error e)
      | (s, .ok ha) => match s.inputMax i l b tb with
        | (s, .error e) => (s, .error e)
        | (s, .ok hb) =>
          (s, .ok ⟨autoAnchor (maxLog ha.mant) (maxLog hb.mant) k, (ha.mant.1 * hb.mant.1 * k, ha.mant.2 + hb.mant.2), [(a, ha), (b, hb)]⟩)

/-- The elements of the block that a product forms: those of unmasked engines inside the logical shape (R95, R131). -/
def prodLive (a b d : Desc) (f : ProdF) : List (Nat × Nat) :=
  (((List.range a.view.rows).map fun r => (List.range b.view.cols).map fun cc => (r, cc)).flatten).filter fun e =>
    f.emask.val.testBit (engineOf e.1 e.2) && d.inShape e.1 e.2

/-- The terms of one element: the exact products along the contraction (R19, R180). -/
def State.prodCell (s : State) (a b d : Desc) (e : Nat × Nat) : Cell :=
  { idx := 32 * e.1 + e.2, elem := d.linear e.1 e.2,
    terms := (List.range a.view.cols).map fun u => ((s.viewVal a e.1 u).num.mul (s.viewVal b u e.2).num, a.view.coloff + u) }

/-- The NaN elements that a product reads. -/
def State.prodNans (s : State) (a b : Desc) (f : ProdF) : List NanSeen :=
  s.nansIn a 1 (usedParts a b f).1 ++ s.nansIn b 2 (usedParts a b f).2

/-- The groups of each engine whose sums leave the fast window (R26). -/
def State.prodEscapes (s : State) (q : AccOp) (p : PairInfo) (a b : Desc) (f : ProdF) : List Nat :=
  let n := a.view.cols
  let live := prodLive a b q.tc f
  let groups := (n + p.g - 1) / p.g
  let esc (e : Nat) : List Bool :=
    ((live.filter fun z => engineOf z.1 z.2 == e).map fun z =>
      s.escapes q p a b (s.floorExp a) (s.floorExp b) z.1 z.2 n (s.prodCell a b q.tc z)).foldl
      (fun l m => List.zipWith (· || ·) l m) (List.replicate groups false)
  (List.range 4).map fun e => ((esc e).filter id).length

/-- The half of a cog, 2 * cog + half, that serves the word at a Cassette address (R248). -/
def cogHalf (a : Nat) : Nat :=
  let l := a / 64 % 2 ^ 15
  2 * (l / 2 % 16) + (a / 32 % 2 ^^^ l % 2)

/-- The words that a part of an operand's window touches, by address. -/
def Desc.words (d : Desc) (w : Span) : List Nat :=
  ((d.elemOffs w).flatMap fun q =>
    let a := lowAddr d.d0 + q.1
    (List.range ((a + q.2 + 31) / 32 - a / 32)).map fun k => (a / 32 + k) * 32).eraseDups

/-- The clocks that the quad waits in `w` group clocks that read these words, one word a clock from each half (R248). -/
def cogWait (w : Nat) (words : List Nat) : Nat :=
  ((List.range 32).map fun h => (words.filter fun a => cogHalf a == h).length).foldl max 0 - w

/-- The clocks that a product loses to cog conflicts (R248, R249): over each pair of group clocks (eight of binary32) it reads the words
of as many terms of both operands. The Backpedal path reads a transposed operand. -/
def prodCogs (p : PairInfo) (a b : Desc) (f : ProdF) : Nat :=
  let w := if p.g = 1 then 8 else 2
  let t := w * p.g
  let (u, v) := usedParts a b f
  ((List.range ((a.view.cols + t - 1) / t)).map fun j =>
    cogWait w ((if a.tr then [] else a.words ⟨u.r0, u.r1, t * j, min (t * (j + 1)) u.c1⟩) ++
      (if b.tr then [] else b.words ⟨t * j, min (t * (j + 1)) v.r1, v.c0, v.c1⟩))).foldl (· + ·) 0

/-- Core-clocks of a product whose engines escape `per` groups (R101). -/
def State.prodClocks (s : State) (c : Fin 256) (p : PairInfo) (a b : Desc) (per : List Nat) : Nat :=
  let twice := s.flag (.coreCstat c) F.coreCstat_DEGRADED || s.flag (.corePairctl c) F.corePairctl_ACTIVE
  let mult := (if twice then 2 else 1) * (if a.tr && b.tr then 2 else 1)
  4 + (a.view.cols + p.g - 1) / p.g * mult + per.foldl max 0 + p.latency

/-- The time that a paired product takes beyond an unpaired one (R337, R455). -/
def State.pairTime (s : State) (c : Fin 256) (p : PairInfo) (a b : Desc) : State :=
  if s.flag (.corePairctl c) F.corePairctl_ACTIVE = true ∧ s.flag (.coreCstat c) F.coreCstat_DEGRADED = false then
    s.background 3 0 0 (coreNs ((a.view.cols + p.g - 1) / p.g * (if a.tr && b.tr then 2 else 1)))
  else s

/-- What a committed product counts and notes: pre-passes, the bound of R222, escapes, clocks lost to
cog conflicts, busy clocks and lane operations. -/
def State.prodDone (s : State) (q : AccOp) (pair : Pair) (a : Desc) (f : ProdF) (n : AnchorOf) (per : List Nat)
    (cogs clocks : Nat) : State :=
  let i := q.i
  let p := pairInfo pair
  let k := clusterOf i.x.core
  let engines := ((List.range 4).filter fun e => f.emask.val.testBit e).length
  let s := forAll n.pre s fun s e => s.notePrepass i q.l e.1 e.2
  let s := { s with core := { s.core with bounds := s.core.bounds.set i.tag.toNat n.bound } }
  let escs := per.foldl (· + ·) 0
  let s := forAll (s.tileCores i.x) s fun s c => s.count (.xesccnt c) F.xesccnt_COUNT escs
  let s := s.count (.coreMcog i.x.core) F.coreMcog_COUNT cogs
  let s := s.wrap (.cluUquad k) F.cluUquad_COUNT clocks
  let s := s.pmu 0x02 k (some i) clocks
  let s := s.pmu 0x03 k (some i) escs
  let s := s.pmu 0x07 k (some i) cogs
  s.pmu 0x06 k (some i) (256 * p.g * ((a.view.cols + p.g - 1) / p.g) * engines)

/-- The latch of a context whose next tile starts now. -/
def State.newLatch (s : State) (x : CtxId) : Latch := ((s.startTile x).ctx x).latch

/-- Run a matrix product. `extra` are operand faults of the instruction beyond R179; `done` follows its commit, and with it
the tile is over. -/
def State.product (s : State) (i : Ins) (pair : Pair) (ad : A3) (ta tb tc : T4) (f : ProdF) (extra : List Flt)
    (done : AccOp → State → State) : State :=
  let x := i.x
  let p := pairInfo pair
  let (a, b, d) := s.productDescs x ta tb tc
  let k := s.prodK x f
  match firstFault (s.productFaults i pair ad ta tb tc f extra), (s.ctx x).bracket with
  | some e, _ => s.fault i e
  | none, none => s.fault i (.operand 0 0)
  | none, some br =>
    match s.readRanges .quad (productReads a b f) with
    | (s, some q) => s.fault i (s.dataFault [(a, ta, (usedParts a b f).1), (b, tb, (usedParts a b f).2)] q)
    | (s, none) =>
      let l := s.newLatch x
      match s.productAnchor i l pair ta tb f.amode.val k with
      | (s, .error e) => s.fault i e
      | (s, .ok n) =>
        match attemptAnchor br n.anchor with
        | .error e => s.fault i e
        | .ok none =>
          let q : AccOp := ⟨i, br, l, ad, f.z || s.slotEmpty x.core ad, lastAnchor br n.anchor, k, .rne, d, f.emask.val⟩
          done q ((s.startTile x).accFallback q)
        | .ok (some anchor) =>
          let q : AccOp := ⟨i, br, l, ad, f.z || s.slotEmpty x.core ad, anchor, k, roundMode f.rnd.val l k, d, f.emask.val⟩
          let cells := (prodLive a b d f).map (s.prodCell a b d)
          let consumed := s.prodNans a b f
          let per := s.prodEscapes q p a b f
          let cogs := prodCogs p a b f
          let clocks := s.prodClocks x.core p a b per + cogs
          let s := s.dumpWindow 1 i a
          let s := s.dumpWindow 2 i b
          let s := s.tileStarts i [a, b, d] (some ad)
            ⟨anchor, clocks, per.foldl (· + ·) 0, cogs, f.emask.val, f.amode.val, f.rnd.val, k, none⟩
          s.accumulate q cells consumed false fun s => done q ((s.prodDone q pair a f n per cogs clocks).pairTime x.core p a b)

/-- FUNC fields of a product that its definition does not allow (R178): AMODE 0b11, EMASK 0 without `zero`, and a field that
only another instruction defines. -/
def prodBad (f : ProdF) (zero ga send : Bool) : Bool :=
  f.amode.val == 3 || (f.emask.val == 0 && !zero) || (f.ga && !ga) || ((f.send || f.free) && !send)

/-- mma.pair aD, tA, tB, tC (R178-R182). -/
def execMma (a : At) (pair : Pair) (ad : A3) (ta tb tc : T4) (f : ProdF) (tag : OpTag) (s : State) :
    Host.Outcome State Fault Refusal :=
  execIns a (0x80 + pairCode pair) 1 tag (prodBad f false false false)
    (fun i s => s.product i pair ad ta tb tc f [] fun _ s => s.advance i) s

end Sys2Proof.Machine
end

