-- ==== Sys2Proof/Machine/Tensor.lean ====
section
/-!
DEFINITION. The instructions that load, store and convert accumulator slots (R183-R185), the vector unit's reductions (R109,
R188) and the Backpedal gradient write (R111, R189).
-/

namespace Sys2Proof.Machine

/-! ## Shared -/

/-- The NaN that an armed context's instruction traps at (R87, R89): none where it commits. -/
def State.nanMet (s : State) (i : Ins) (consumed : List NanSeen) (produced : List Nat) (d : Desc) : Option NanAt :=
  if s.armed i.x then firstNan consumed produced d else none

/-- A committing instruction adds its NaN elements to FNCNTn (R88). -/
def State.countNans (s : State) (i : Ins) (n : Nat) : State :=
  (s.count (.fncnt i.x.core i.x.n) F.fncnt_COUNT n).tally fun c => { c with nans := c.nans + n }

/-- An instruction that meets NaN elements commits and counts them (R88); an armed one traps instead (R87). -/
def State.guardNan (s : State) (i : Ins) (consumed : List NanSeen) (produced : List Nat) (d : Desc)
    (commit : State → State) : State :=
  match s.nanMet i consumed produced d with
  | some a => s.nanTrap i a
  | none => commit (s.countNans i (consumed.length + produced.length))

/-- The operand faults of an instruction that reads a slot's result (R97, R182). -/
def State.readerFaults (s : State) (i : Ins) (ad : A3) : List Flt :=
  let c := i.x.core
  let pending := match (s.ctx i.x).bracket with
    | some b => b.op.tag == s.slotTag c ad
    | none => false
  if !s.owns i.x ad || s.slotEmpty c ad || pending || s.pairedAway c ad then [Flt.operand 0 0] else []

/-- A window of tA that an accumulator instruction cannot cover: more than 32 × 32 elements, or TR 1. -/
def Desc.notBlock (d : Desc) : Bool := decide (32 < d.rows ∨ 32 < d.cols) || d.tr

/-- The exact value of a slot element as a conversion reads it (R42, R78). -/
def State.slotVal (s : State) (c : Fin 256) (i : A3) (r cc : Nat) : Num :=
  (s.slotElem c i (32 * r + cc)).num (s.slotAnchor c i)

/-- The NaN elements of a slot that an instruction reads through a window: the element is recorded under the window's
descriptor, as of a state plane (R89). -/
def State.slotNans (s : State) (c : Fin 256) (i : A3) (d : Desc) : List NanSeen :=
  (d.clip d.whole).cells.filterMap fun p =>
    if (s.slotElem c i (32 * p.1 + p.2)).st = .nan then some ⟨1, false, d.linear p.1 p.2, d.tid, d.fmt⟩ else none

/-- No dither: conversions outside the Crank round to nearest even (R33, R70). -/
def noCoord : Nat → Nat → Coord := fun _ _ => ⟨0, 0, 0, 0⟩

/-- Core-clocks of a vector instruction over `n` elements: its issue interval and its latency (R108). -/
def vecClocks (n interval latency : Nat) : Nat := (n + 63) / 64 * interval + latency

/-- The vector unit was busy. -/
def State.vecBusy (s : State) (i : Ins) (clocks : Nat) : State :=
  (s.wrap (.cluUvec (clusterOf i.x.core)) F.cluUvec_COUNT clocks).pmu 0x04 (clusterOf i.x.core) (some i) clocks

/-- The quadrants of a window that unmasked engines compute, cut to its logical shape (R95, R131). -/
def Desc.quadrants (d : Desc) (emask : Nat) : List Span :=
  ((List.range 4).filter fun e => emask.testBit e).map fun e =>
    d.clip ⟨16 * (e / 2), min (16 * (e / 2) + 16) d.rows, 16 * (e % 2), min (16 * (e % 2) + 16) d.cols⟩

/-! ## acc.ld -/

/-- A loaded element as a term of the operation (R183). -/
def loadTerm (e : Elem) (anchor : Int) : Num × Nat := (e.num anchor, 0xFFFFFFFE)

/-- The parts of tA that an acc.ld reads: one for each unmasked quadrant (R183). -/
def ldParts (a : Desc) (f : ProdF) : List Span := a.quadrants f.emask.val

/-- Every fault of an acc.ld before it reads (R183, R152, R99). -/
def State.ldFaults (s : State) (i : Ins) (ad : A3) (ta tc : T4) (f : ProdF) : List Flt :=
  let a := s.tile i.x ta
  let d := s.tile i.x tc
  let bad := !fmtA128 a.fmt || a.notBlock || decide (d.rows ≠ a.rows ∨ d.cols ≠ a.cols)
  s.accFaults i ad f.z ++ s.descFaults a ta true false true ++ s.descFaults d tc false false false ++
    (if bad then [Flt.operand 0 0] else []) ++ s.entryFaults i f.amode.val f.rnd.val d (s.prodK i.x f) ++
    lowestFirst ((ldParts a f).flatMap (a.cassetteOut i.x.core ta true))

/-- The anchor at which an acc.ld loads (R183): an explicit one, or the attempt's; none where the fallback applies. -/
def State.ldAnchor (s : State) (i : Ins) (br : Bracket) (f : ProdF) : Except Flt (Option Int) :=
  if f.amode.val = 2 then attemptAnchor br (s.explicitAnchor i) else .ok (if br.fallback then none else br.anchor)

/-- The elements that an acc.ld loads, each as one term of the operation (R183). -/
def State.ldCells (s : State) (a d : Desc) (f : ProdF) : List Cell :=
  ((((ldParts a f).map Span.cells).flatten).filter fun e => d.inShape e.1 e.2).map fun e =>
    { idx := 32 * e.1 + e.2, elem := d.linear e.1 e.2, terms := [loadTerm (s.a128Elem a e.1 e.2) (s.hdrAnchor (lowAddr a.d2))] }

/-- The NaN elements that an acc.ld reads. -/
def State.ldNans (s : State) (a : Desc) (f : ProdF) : List NanSeen :=
  (((ldParts a f).map Span.cells).flatten).filterMap fun e =>
    a.nanOf 1 e.1 e.2 ⟨.nan, false, (s.a128Elem a e.1 e.2).st == .nan⟩

/-- Load a stored A128 tensor into a slot (R183). -/
def State.accLoad (s : State) (i : Ins) (ad : A3) (ta tc : T4) (f : ProdF) : State :=
  let x := i.x
  let c := x.core
  let a := s.tile x ta
  let d := s.tile x tc
  let k := s.prodK x f
  match firstFault (s.ldFaults i ad ta tc f), (s.ctx x).bracket with
  | some e, _ => s.fault i e
  | none, none => s.fault i (.operand 0 0)
  | none, some br =>
    if br.wrote = [] ∧ f.amode.val ≠ 2 then s.fault i (.operand 0 0)
    else match s.readRanges .quad ((ldParts a f).map fun w => a.ranges w true).flatten with
      | (s, some q) => s.fault i (s.dataFault ((ldParts a f).map fun w => (a, ta, w)) q)
      | (s, none) =>
        let l := s.newLatch x
        let fresh := f.z || s.slotEmpty c ad
        match s.ldAnchor i br f with
        | .error e => s.fault i e
        | .ok none =>
          let q : AccOp := ⟨i, br, l, ad, fresh, lastAnchor br (s.explicitAnchor i), k, .rne, d, f.emask.val⟩
          ((s.startTile x).accFallback q).advance i
        | .ok (some anchor) =>
          let q : AccOp := ⟨i, br, l, ad, fresh, anchor, k, roundMode f.rnd.val l k, d, f.emask.val⟩
          let cells := s.ldCells a d f
          let consumed := s.ldNans a f
          let sinf := s.hdrSinf (lowAddr a.d2)
          let s := s.dumpWindow 1 i a
          let s := s.tileStarts i [a, d] (some ad) ⟨anchor, 0, 0, 0, f.emask.val, f.amode.val, f.rnd.val, k, none⟩
          s.accumulate q cells consumed sinf fun s => s.advance i

/-- acc.ld aD, tA, tC (R183). -/
def execAccLd (a : At) (ad : A3) (ta tc : T4) (f : ProdF) (tag : OpTag) (s : State) : Host.Outcome State Fault Refusal :=
  execIns a 0x88 1 tag (prodBad f false false false) (fun i s => s.accLoad i ad ta tc f) s

/-! ## acc.st -/

/-- Whether k fits a storage form of `bits` bits (R74). -/
def fitsForm (bits : Nat) (k : BitVec 128) : Bool := decide (-(2 ^ (bits - 1)) ≤ k.toInt ∧ k.toInt < 2 ^ (bits - 1))

/-- The planes that storing a slot through a descriptor writes (R71-R73). -/
def State.storedPlanes (s : State) (c : Fin 256) (i : A3) (d : Desc) : List (Nat × List Byte) :=
  let w := d.clip d.whole
  let el (r cc : Nat) : Elem := s.slotElem c i (32 * r + cc)
  let rows := (List.range w.r1).map fun r => s.rowBytes d r 0 ((List.range w.c1).map fun cc =>
    (el r cc).k.toNat % 2 ^ fmtBits d.fmt)
  let states := (List.range w.r1).map fun r =>
    let at0 := lowAddr d.d1 + d.auxOff r 0
    (at0, (List.range ((w.c1 + 3) / 4)).map fun b => BitVec.ofNat 8 ((List.range 4).foldl (fun n q =>
      n + 4 ^ q * (if 4 * b + q < w.c1 then (el r (4 * b + q)).st.code else (s.byte (at0 + b)).toNat / 4 ^ q % 4)) 0))
  let nonfin := w.cells.any fun p => (el p.1 p.2).st != .fin
  rows ++ states ++ [(lowAddr d.d2, accHeader (s.slotAnchor c i) (s.slotSinf c i) nonfin (d.fmt - 8) (s.slotTag c i)
    (s.fld (.coreAtstat c i) F.coreAtstat_RAISE) (s.slot c i).step)]

/-- Every fault of an acc.st before it stores (R184, R99). -/
def State.stFaults (s : State) (i : Ins) (ta : T4) (ad : A3) : List Flt :=
  let d := s.tile i.x ta
  s.readerFaults i ad ++ s.descFaults d ta true false false ++
    (if !fmtA128 d.fmt || d.notBlock then [Flt.operand 0 0] else []) ++ d.cassetteFaults i.x.core ta (d.clip d.whole) true

/-- The elements of a slot that a storage form cannot hold (R74). -/
def State.unfit (s : State) (c : Fin 256) (ad : A3) (d : Desc) : List (Nat × Nat) :=
  (d.clip d.whole).cells.filter fun p => let e := s.slotElem c ad (32 * p.1 + p.2)
    e.st == .fin && !fitsForm (fmtBits d.fmt) e.k

/-- Release a slot that an instruction frees. -/
def State.releaseSlot (s : State) (free : Bool) (c : Fin 256) (ad : A3) : State := if free then s.emptySlot c ad else s

/-- Write a slot's planes, and free the slot if told to (R184). -/
def State.stCommit (s : State) (i : Ins) (d : Desc) (free : Bool) (ad : A3) : State :=
  ((s.storeAll i .quad (s.storedPlanes i.x.core ad d)).releaseSlot free i.x.core ad).dumpWindow 0 i d

/-- A storage form cannot hold the slot (R74): an operand fault, and event 0x05:0x0020. -/
def State.stRange (s : State) (i : Ins) (ta : T4) (d : Desc) (p : Nat × Nat) : State :=
  (s.fault i (.operand 0 ta)).raiseEv (dieOf i.x.core) 5 0x20
    [(2, i.tag.toNat), (4, i.step.toNat), (1, d.fmt - 8), (5, d.linear p.1 p.2)]

/-- Store a slot (R184). A range failure is an operand fault, and comes before an alignment or address fault (R157). -/
def State.accStore (s : State) (i : Ins) (ta : T4) (ad : A3) (free : Bool) : State :=
  let c := i.x.core
  let d := s.tile i.x ta
  match firstFault (s.stFaults i ta ad), s.unfit c ad d with
  | some e, p :: _ => if e.code ≤ 3 then s.fault i e else s.stRange i ta d p
  | some e, [] => s.fault i e
  | none, p :: _ => s.stRange i ta d p
  | none, [] =>
    let consumed := s.slotNans c ad d
    let s := s.tileStarts i [d] none (.reads (s.slotAnchor c ad) ad)
    s.guardNan i consumed (consumed.map NanSeen.idx) d fun s => (s.stCommit i d free ad).advance i

/-- acc.st tA, aD (R184). -/
def execAccSt (a : At) (ta : T4) (ad : A3) (free : Bool) (tag : OpTag) (s : State) : Host.Outcome State Fault Refusal :=
  execIns a 0x89 1 tag false (fun i s => s.accStore i ta ad free) s

/-! ## acc.cvt -/

/-- The value that a conversion of a slot element converts: with a function, the value rounded to binary32 first (R185). -/
def throughFn (fn : Nat) (v : Num) : Num := if fn = 0 then v else f32 (fnValue fn (rn v))

/-- Every fault of an acc.cvt before it converts (R185, R99). -/
def State.cvtFaults (s : State) (i : Ins) (ta : T4) (ad : A3) : List Flt :=
  let d := s.tile i.x ta
  s.readerFaults i ad ++ s.descFaults d ta true true false ++
    (if 8 ≤ d.fmt ∨ d.notBlock then [Flt.operand 0 0] else []) ++ d.cassetteFaults i.x.core ta (d.clip d.whole) true

/-- The delayed maximum of a tensor that a slot is converted into (R222): formats without a scale use none. -/
def State.cvtMax (s : State) (i : Ins) (l : Latch) (d : Desc) (ta : T4) (ad : A3) : State × Except Flt DelayedMax :=
  if fmtScaled d.fmt then s.slotMax i l d ta (s.slotAnchor i.x.core ad) (s.slotTag i.x.core ad)
  else (s, .ok ⟨(0, 0), false, false⟩)

/-- What an acc.cvt writes (R185). -/
def State.cvtConv (s : State) (c : Fin 256) (ad : A3) (d : Desc) (l : Latch) (h : DelayedMax) (fn : Nat) : Conv :=
  convert d l h.mant (fun r cc => throughFn fn (s.slotVal c ad r cc)) .rne noCoord

/-- Write what an acc.cvt converted, and free its slot if told to (R185). -/
def State.cvtCommit (s : State) (i : Ins) (l : Latch) (d : Desc) (h : DelayedMax) (v : Conv) (free : Bool) (ad : A3) : State :=
  let s := ((s.notePrepass i l d h).putConv i .quad d v).noteConv i l d v 0
  (s.releaseSlot free i.x.core ad).dumpWindow 0 i d

/-- Convert a slot (R185). -/
def State.accConvert (s : State) (i : Ins) (ta : T4) (ad : A3) (free : Bool) (fn : Nat) : State :=
  let x := i.x
  let c := x.core
  let d := s.tile x ta
  match firstFault (s.cvtFaults i ta ad) with
  | some e => s.fault i e
  | none =>
    let l := s.newLatch x
    let anchor := s.slotAnchor c ad
    match s.cvtMax i l d ta ad with
    | (s, .error e) => s.fault i e
    | (s, .ok h) =>
      let consumed := s.slotNans c ad d
      let v := s.cvtConv c ad d l h fn
      let s := s.tileStarts i [d] none (.reads anchor ad)
      s.guardNan i consumed v.nans d fun s =>
        (s.cvtCommit i l d h v free ad).advance i

/-- acc.cvt tA, aD (R185): function codes 10-15 are reserved. -/
def execAccCvt (a : At) (ta : T4) (ad : A3) (free : Bool) (fn : Fin 16) (tag : OpTag) (s : State) :
    Host.Outcome State Fault Refusal :=
  execIns a 0x8A 1 tag (decide (10 ≤ fn.val)) (fun i s => s.accConvert i ta ad free fn.val) s

/-! ## v.red -/

/-- A value rounded to binary32 as a vector instruction reads it, with what it adds to FOVFCNT (R474). -/
def vecIn (v : Val) : Num × Nat :=
  let x := rn v.num
  (x, match v.num, x with
    | .fin _ _ _, .inf _ => 1
    | _, _ => 0)

/-- Where v.red sums local element (r, c): the slot element, and the term index (R188). -/
def redPlace (ax : Nat) (a : Desc) (r c : Nat) : (Nat × Nat) × Nat :=
  if ax = 0 then ((r, 0), a.coloff + c)
  else if ax = 1 then ((0, 0), a.linear r c)
  else ((0, c), a.rowoff + r)

/-- A block-scaled operand of a v.red that is blocked along the dimension that it does not reduce (R67). AX 0b01 reduces both. -/
def redBlocked (a : Desc) (ax : Nat) : Bool := (ax == 0 && a.smode == 3) || (ax == 2 && a.smode == 2)

/-- Every fault of a v.red before it reads (R67, R188, R152, R99). -/
def State.redFaults (s : State) (i : Ins) (ad : A3) (ta tc : T4) (f : RedF) : List Flt :=
  let a := s.tile i.x ta
  let d := s.tile i.x tc
  let w := a.clip a.whole
  let bad := decide (8 ≤ a.fmt ∨ a.tr = true ∨ f.amode.val = 0 ∨ (f.ax.val = 0 ∧ 32 < a.rows) ∨ (f.ax.val = 2 ∧ 32 < a.cols) ∨
    (f.ax.val = 1 ∧ 2 ^ 32 < a.linear (w.r1 - 1) (w.c1 - 1) + 1)) || redBlocked a f.ax.val
  s.accFaults i ad false ++ s.descFaults a ta true false true ++ s.descFaults d tc false false false ++
    (if bad then [Flt.operand 0 0] else []) ++
    s.entryFaults i f.amode.val f.rnd.val d ((s.sreg i.x f.sk).toNat % 2 ^ 32) ++ a.cassetteFaults i.x.core ta w true

/-- The anchor of a v.red, and the maximum it took where its mode is AUTO (R30, R188). -/
def State.redAnchor (s : State) (i : Ins) (l : Latch) (ta : T4) (f : RedF) (k : Nat) : State × Except Flt (Int × Option DelayedMax) :=
  if f.amode.val = 2 then (s, .ok (s.explicitAnchor i, none))
  else match s.inputMax i l (s.tile i.x ta) ta with
    | (s, .error e) => (s, .error e)
    | (s, .ok h) => (s, .ok (autoAnchor (maxLog h.mant) (if f.sq then maxLog h.mant else 0) k, some h))

/-- The elements of a window that a v.red reads, each with the place its sum goes to (R188). -/
def State.redRead (s : State) (a : Desc) (f : RedF) : List (((Nat × Nat) × Nat) × (Num × Nat)) :=
  (a.clip a.whole).cells.map fun p => (redPlace f.ax.val a p.1 p.2, vecIn (s.elemVal a p.1 p.2))

/-- The sums of a v.red as cells of its slot: the products of each element with 1, or with itself (R188). -/
def State.redCells (s : State) (a d : Desc) (f : RedF) : List Cell :=
  let read := s.redRead a f
  let term (v : Num) : Num := if f.sq then v.mul v else v.mul Num.one
  let outs := (read.map fun p => p.1.1).eraseDups
  outs.map fun o =>
    { idx := 32 * o.1 + o.2, elem := d.linear o.1 o.2,
      terms := (read.filter fun p => p.1.1 == o).map fun p => (term p.2.1, p.1.2) }

/-- The product bound of a v.red for a seed (R222): of its delayed maxima where its mode is AUTO, otherwise that of its anchor. -/
def redBound (anchor : Int) (pre : Option DelayedMax) (sq : Bool) (k : Nat) : Mant :=
  match pre with
  | some h => if sq then (h.mant.1 * h.mant.1 * k, h.mant.2 + h.mant.2) else (h.mant.1 * k, h.mant.2)
  | none => (1, anchor + 127 - clog2 k)

/-- What a committed v.red counts and notes. -/
def State.redDone (s : State) (i : Ins) (l : Latch) (a : Desc) (pre : Option DelayedMax) (bound : Mant) (ovf clocks : Nat) : State :=
  let s := match pre with
    | some h => s.notePrepass i l a h
    | none => s
  let s := { s with core := { s.core with bounds := s.core.bounds.set i.tag.toNat bound } }
  (s.count (.fovfcnt i.x.core) F.fovfcnt_COUNT ovf).vecBusy i clocks

/-- Reduce a window into a slot (R109, R188). -/
def State.vecReduce (s : State) (i : Ins) (ad : A3) (ta tc : T4) (f : RedF) : State :=
  let x := i.x
  let c := x.core
  let a := s.tile x ta
  let d := s.tile x tc
  let k := (s.sreg x f.sk).toNat % 2 ^ 32
  match firstFault (s.redFaults i ad ta tc f), (s.ctx x).bracket with
  | some e, _ => s.fault i e
  | none, none => s.fault i (.operand 0 0)
  | none, some br =>
    match s.readRanges .quad (a.ranges (a.clip a.whole) true) with
    | (s, some q) => s.fault i (s.dataFault [(a, ta, a.clip a.whole)] q)
    | (s, none) =>
      let l := s.newLatch x
      let fresh := s.slotEmpty c ad
      match s.redAnchor i l ta f k with
      | (s, .error e) => s.fault i e
      | (s, .ok (a0, pre)) =>
        match attemptAnchor br a0 with
        | .error e => s.fault i e
        | .ok none =>
          let q : AccOp := ⟨i, br, l, ad, fresh, lastAnchor br a0, k, .rne, d, 15⟩
          ((s.startTile x).accFallback q).advance i
        | .ok (some anchor) =>
          let q : AccOp := ⟨i, br, l, ad, fresh, anchor, k, roundMode f.rnd.val l k, d, 15⟩
          let cells := s.redCells a d f
          let ovf := (s.redRead a f).foldl (fun n p => n + p.2.2) 0
          let consumed := s.nansIn a 1 (a.clip a.whole)
          let clocks := vecClocks (a.rows * a.cols) 1 10
          let s := s.dumpWindow 1 i a
          let s := s.tileStarts i [a, d] (some ad) ⟨anchor, clocks, 0, 0, 0, f.amode.val, f.rnd.val, k, none⟩
          s.accumulate q cells consumed false fun s => (s.redDone i l a pre (redBound a0 pre f.sq k) ovf clocks).advance i

/-- v.red aD, tA, tC (R188): AX 0b11 and AMODE 0b11 are illegal. -/
def execVRed (a : At) (ad : A3) (ta tc : T4) (f : RedF) (tag : OpTag) (s : State) : Host.Outcome State Fault Refusal :=
  execIns a 0xA3 1 tag (f.ax.val == 3 || f.amode.val == 3) (fun i s => s.vecReduce i ad ta tc f) s

/-! ## bp.gw -/

/-- Every fault of a bp.gw before it converts (R189, R99). -/
def State.gwFaults (s : State) (i : Ins) (ta tb : T4) (ad : A3) : List Flt :=
  let c := i.x.core
  let a := s.tile i.x ta
  let b := s.tile i.x tb
  let bad := decide (a.fmt ≠ 2 ∨ b.fmt ≠ 2 ∨ a.smode ≠ 2 ∨ b.smode ≠ 3 ∨ a.tid ≠ b.tid ∨ a.rows ≠ b.rows ∨ a.cols ≠ b.cols ∨
    a.rowoff ≠ b.rowoff ∨ a.coloff ≠ b.coloff ∨ a.lrows ≠ b.lrows ∨ a.lcols ≠ b.lcols) || a.notBlock || b.notBlock
  s.readerFaults i ad ++ s.descFaults a ta true true false ++ s.descFaults b tb true true false ++
    (if bad then [Flt.operand 0 0] else []) ++ a.cassetteFaults c ta (a.clip a.whole) true ++
    b.cassetteFaults c tb (b.clip b.whole) true

/-- Write both copies, which count as one conversion, and free the slot if told to (R189). -/
def State.gwCommit (s : State) (i : Ins) (l : Latch) (a b : Desc) (h : DelayedMax) (va vb : Conv) (free : Bool) (ad : A3) : State :=
  let s := ((s.notePrepass i l a h).putConv i .quad a va).putConv i .quad b vb
  let s := s.noteConv i l a { va with tally := va.tally.add vb.tally } 0
  ((s.releaseSlot free i.x.core ad).dumpWindow 0 i a).dumpWindow 0 i b

/-- Write the two blocked copies of a gradient (R111, R189). The Backpedal path holds two instructions (R103). -/
def State.gradWrite (s : State) (i : Ins) (ta tb : T4) (ad : A3) (free : Bool) : State :=
  let x := i.x
  let c := x.core
  let a := s.tile x ta
  let b := s.tile x tb
  match firstFault (s.gwFaults i ta tb ad) with
  | some e => s.fault i e
  | none => if 2 ≤ s.inFlight [c] 0xB0 x then s.stall i else
    let l := s.newLatch x
    let anchor := s.slotAnchor c ad
    match s.slotMax i l a ta anchor (s.slotTag c ad) with
    | (s, .error e) => s.fault i e
    | (s, .ok h) =>
      let va := s.cvtConv c ad a l h 0
      let vb := s.cvtConv c ad b l h 0
      let consumed := s.slotNans c ad a
      let s := s.tileStarts i [a, b] none (.reads anchor ad)
      s.guardNan i consumed (va.nans ++ vb.nans) a fun s =>
        (s.gwCommit i l a b h va vb free ad).advance i

/-- bp.gw tA, tB, aD (R189). -/
def execBpGw (a : At) (ta tb : T4) (ad : A3) (free : Bool) (tag : OpTag) (s : State) : Host.Outcome State Fault Refusal :=
  execIns a 0xB0 1 tag false (fun i s => s.gradWrite i ta tb ad free) s

end Sys2Proof.Machine
end

