-- ==== Sys2Proof/Machine/Vector.lean ====
section
/-!
DEFINITION. The element-wise vector instructions v.op, v.fn and v.dfn (R106-R108, R186, R187, R474).
-/

namespace Sys2Proof.Machine

/-- A value is negative, or a negative zero. -/
def Num.sign : Num → Bool
  | .nan => false
  | .inf n => n
  | .fin n _ _ => n

/-- Minimum of two binary32 values: the canonical NaN when either is NaN, −0 below +0 (R106). -/
def numMin (a b : Num) : Num :=
  if a.isNan || b.isNan then .nan else if a.lt b then a else if b.lt a then b else if a.sign then a else b

/-- Maximum of two binary32 values (R106). -/
def numMax (a b : Num) : Num :=
  if a.isNan || b.isNan then .nan else if a.lt b then b else if b.lt a then a else if a.sign then b else a

/-- 1.0 or +0. -/
def numBool (b : Bool) : Num := if b then Num.one else Num.zero

/-- The operation codes of v.op (R186), on binary32 values, rounded once (R106). -/
def vopVal (opc : Nat) (a b d : Num) : Num :=
  match opc with
  | 0 => rn (a.add b)
  | 1 => rn (a.add b.neg)
  | 2 => rn (a.mul b)
  | 3 => rn ((a.mul b).add d)
  | 4 => f32 (f32Div a b)
  | 5 => f32 (f32Sqrt a)
  | 6 => numMin a b
  | 7 => numMax a b
  | 8 => numBool (a.lt b)
  | 9 => numBool (a.eq b)
  | 10 => a
  | 11 => a.abs
  | _ => a.neg

/-- What a vector instruction computes: its code, whether it reads B and tC, whether A stays unrounded, its timing. -/
structure VecOp where
  f : Num → Num → Num → Num
  usesB : Bool
  usesD : Bool
  exact : Bool
  interval : Nat
  latency : Nat

/-- v.op: sqrt, cvt, abs and neg read A only; cvt converts the exact value (R474). -/
def vecOpOf (opc : Nat) : VecOp :=
  { f := vopVal opc, usesB := !(opc == 5 || 10 ≤ opc), usesD := opc == 3, exact := opc == 10,
    interval := if opc == 4 || opc == 5 then 4 else 1, latency := if opc == 4 || opc == 5 then 12 else 4 }

/-- v.fn (R107). -/
def vecFnOf (fn : Nat) : VecOp := ⟨fun a _ _ => f32 (fnValue fn a), false, false, false, 8, 20⟩

/-- v.dfn: the derivative rounded to binary32, times b with one more rounding (R186). -/
def vecDfnOf (fn : Nat) : VecOp := ⟨fun a b _ => rn ((f32 (fnDeriv fn a)).mul b), true, false, false, 12, 28⟩

/-- Whether any byte range of one list meets one of another. -/
def rangesMeet (p q : List (Nat × Nat)) : Bool :=
  p.any fun a => q.any fun b => decide (a.1 < b.1 + b.2 ∧ b.1 < a.1 + a.2)

/-- R187: an operand's planes are exactly tC's, or meet none of them. -/
def Desc.overlapBad (d tc : Desc) : Bool :=
  !(d.d0 == tc.d0 && d.pitch == tc.pitch && d.fmt == tc.fmt) && rangesMeet (d.ranges d.whole true) (tc.ranges tc.whole true)

/-- Where operand B holds the element of output element (r, c) (R186). -/
def bPlace (bmode r c : Nat) : Nat × Nat := (if bmode = 1 then 0 else r, if bmode = 2 then 0 else c)

/-- The shape that R187 asks of operand B. -/
def bShapeBad (bmode : Nat) (b tc : Desc) : Bool :=
  decide (b.rows ≠ (if bmode = 1 then 1 else tc.rows) ∨ b.cols ≠ (if bmode = 2 then 1 else tc.cols))

/-- The delayed maximum of a tensor that an instruction converts from memory planes (R81, R84, R85, R221): its history, the
step's pre-pass for it, or a pre-pass now of every plane the instruction reads. -/
def State.outputMax (s : State) (i : Ins) (l : Latch) (d : Desc) (t : T4) (inputs : List (Desc × T4)) :
    State × Except Flt DelayedMax :=
  match s.history i l d.tid with
  | (s, .error f) => (s, .error (f.of t))
  | (s, .ok (some m)) => (s, .ok ⟨m, false, s.seedLive l d.tid⟩)
  | (s, .ok none) =>
    if getBits l.fsctl F.fsctl_PREPASS = 0 then (s, .error (.operand 0 t))
    else match s.core.prepass.find? fun p => p.1 == d.tid with
      | some p => (s, .ok ⟨p.2, false, true⟩)
      | none =>
        inputs.foldl (fun q p => match q.2 with
          | .error _ => q
          | .ok h => match q.1.prepass i p.1 with
            | (s, .error f) => (s, .error (f.of p.2))
            | (s, .ok m) => (s, .ok { h with mant := mantMax h.mant m })) (s, .ok ⟨(0, 0), true, true⟩)

/-- The source windows of a vector instruction: A, and B where it is a tensor (R186). -/
def State.vecSrcs (s : State) (x : CtxId) (ta tb : T4) (o : VecOp) (bmode : Nat) : List (Desc × T4) :=
  (s.tile x ta, ta) :: (if o.usesB && bmode != 3 then [(s.tile x tb, tb)] else [])

/-- Every fault of a vector instruction before it reads (R186, R187, R99). -/
def State.vecFaults (s : State) (i : Ins) (tc ta tb : T4) (o : VecOp) (bmode : Nat) : List Flt :=
  let x := i.x
  let c := x.core
  let a := s.tile x ta
  let b := s.tile x tb
  let d := s.tile x tc
  let window := o.usesB && bmode != 3
  let srcs := s.vecSrcs x ta tb o bmode
  let bad := (srcs.any fun p => decide (8 ≤ p.1.fmt) || p.1.tr || p.1.overlapBad d) || decide (8 ≤ d.fmt) || d.tr ||
    decide (a.rows ≠ d.rows ∨ a.cols ≠ d.cols) || (window && bShapeBad bmode b d)
  s.descFaults a ta true false true ++ (if window then s.descFaults b tb true false true else []) ++
    s.descFaults d tc true true o.usesD ++ (if bad then [Flt.operand 0 0] else []) ++
    a.cassetteFaults c ta (a.clip a.whole) true ++ (if window then b.cassetteFaults c tb (b.clip b.whole) true else []) ++
    d.cassetteFaults c tc (d.clip d.whole) true

/-- The byte ranges that a vector instruction reads. -/
def State.vecReads (s : State) (x : CtxId) (tc ta tb : T4) (o : VecOp) (bmode : Nat) : List (Nat × Nat) :=
  ((s.vecSrcs x ta tb o bmode).map fun p => p.1.ranges (p.1.clip p.1.whole) true).flatten ++
    (if o.usesD then (s.tile x tc).ranges ((s.tile x tc).clip (s.tile x tc).whole) true else [])

/-- The delayed maximum of a vector instruction's output (R85): formats without a scale use none. -/
def State.vecMax (s : State) (i : Ins) (l : Latch) (tc ta tb : T4) (o : VecOp) (bmode : Nat) : State × Except Flt DelayedMax :=
  if fmtScaled (s.tile i.x tc).fmt then s.outputMax i l (s.tile i.x tc) tc (s.vecSrcs i.x ta tb o bmode)
  else (s, .ok ⟨(0, 0), false, false⟩)

/-- Element (r, c) of A as a vector instruction reads it, and what rounding it adds to FOVFCNT (R106, R474). -/
def State.vecA (s : State) (x : CtxId) (ta : T4) (o : VecOp) (r c : Nat) : Num × Nat :=
  let v := s.elemVal (s.tile x ta) r c
  if o.exact then (v.num, 0) else vecIn v

/-- Operand B for output element (r, c): an element of its window, or the scalar register's low half as binary32 (R186). -/
def State.vecB (s : State) (x : CtxId) (tb : T4) (o : VecOp) (bmode : Nat) (p : Nat × Nat) : Num × Nat :=
  if o.usesB && bmode != 3 then vecIn (s.elemVal (s.tile x tb) p.1 p.2)
  else (f32 ((s.sreg x (Fin.ofNat _ tb.val)).toNat % 2 ^ 32), 0)

/-- Element (r, c) of the third operand. -/
def State.vecD (s : State) (x : CtxId) (tc : T4) (o : VecOp) (r c : Nat) : Num × Nat :=
  if o.usesD then vecIn (s.elemVal (s.tile x tc) r c) else (Num.zero, 0)

/-- The value of output element (r, c) (R106, R186). -/
def State.vecValue (s : State) (x : CtxId) (tc ta tb : T4) (o : VecOp) (bmode r c : Nat) : Num :=
  o.f (s.vecA x ta o r c).1 (s.vecB x tb o bmode (bPlace bmode r c)).1 (s.vecD x tc o r c).1

/-- The elements of B that a vector instruction reads. -/
def State.vecBCells (s : State) (x : CtxId) (tc : T4) (o : VecOp) (bmode : Nat) : List (Nat × Nat) :=
  let d := s.tile x tc
  if o.usesB && bmode != 3 then ((d.clip d.whole).cells.map fun p => bPlace bmode p.1 p.2).eraseDups else []

/-- What rounding the inputs of a vector instruction adds to FOVFCNT (R474). -/
def State.vecOvf (s : State) (x : CtxId) (tc ta tb : T4) (o : VecOp) (bmode : Nat) : Nat :=
  let d := s.tile x tc
  (d.clip d.whole).cells.foldl (fun n p => n + (s.vecA x ta o p.1 p.2).2 + (s.vecD x tc o p.1 p.2).2) 0 +
    (s.vecBCells x tc o bmode).foldl (fun n p => n + (s.vecB x tb o bmode p).2) 0

/-- The NaN elements that a vector instruction reads (R89). -/
def State.vecNans (s : State) (x : CtxId) (tc ta tb : T4) (o : VecOp) (bmode : Nat) : List NanSeen :=
  let a := s.tile x ta
  let b := s.tile x tb
  let d := s.tile x tc
  let out := (d.clip d.whole).cells
  let scalar := f32 ((s.sreg x (Fin.ofNat _ tb.val)).toNat % 2 ^ 32)
  (out.filterMap fun p => a.nanOf 1 p.1 p.2 (s.elemVal a p.1 p.2)) ++
    ((s.vecBCells x tc o bmode).filterMap fun p => b.nanOf 2 p.1 p.2 (s.elemVal b p.1 p.2)) ++
    (if o.usesB && bmode == 3 && scalar.isNan && out != [] then [⟨2, true, 0, 0, 6⟩] else []) ++
    (if o.usesD then out.filterMap fun p => d.nanOf 0 p.1 p.2 (s.elemVal d p.1 p.2) else [])

/-- The start of a vector instruction's tile, with its operands dumped for the watchpoints that match. -/
def State.vecStart (s : State) (i : Ins) (a b d : Desc) (window : Bool) (clocks : Nat) : State :=
  let s := s.dumpWindow 1 i a
  let s := if window then s.dumpWindow 2 i b else s
  s.tileStarts i [a, b, d] none (.plain 0 clocks)

/-- Write what a vector instruction computed (R106). -/
def State.vecCommit (s : State) (i : Ins) (l : Latch) (d : Desc) (h : DelayedMax) (v : Conv) (ovf clocks : Nat) : State :=
  let s := (s.notePrepass i l d h).putConv i .core d v
  ((s.noteConv i l d v ovf).vecBusy i clocks).dumpWindow 0 i d

/-- Run an element-wise vector instruction. `tb` is a descriptor, or with BMODE 0b11 a scalar register (R186). -/
def State.vector (s : State) (i : Ins) (tc ta tb : T4) (o : VecOp) (bmode : Nat) : State :=
  let x := i.x
  let a := s.tile x ta
  let b := s.tile x tb
  let d := s.tile x tc
  match firstFault (s.vecFaults i tc ta tb o bmode) with
  | some e => s.fault i e
  | none =>
    match s.readRanges .core (s.vecReads x tc ta tb o bmode) with
    | (s, some q) => s.fault i (s.dataFault ((s.vecSrcs x ta tb o bmode ++ if o.usesD then [(d, tc)] else []).map fun p =>
        (p.1, p.2, p.1.clip p.1.whole)) q)
    | (s, none) =>
      let l := s.newLatch x
      match s.vecMax i l tc ta tb o bmode with
      | (s, .error e) => s.fault i e
      | (s, .ok h) =>
        let ovf := s.vecOvf x tc ta tb o bmode
        let consumed := s.vecNans x tc ta tb o bmode
        let v := convert d l h.mant (s.vecValue x tc ta tb o bmode) .rne noCoord
        let clocks := vecClocks (d.rows * d.cols) o.interval o.latency
        let s := s.vecStart i a b d (o.usesB && bmode != 3) clocks
        s.guardNan i consumed v.nans d fun s =>
          (s.vecCommit i l d h v ovf clocks).advance i

/-- v.op tC, tA, tB (R186): codes 13-31 are reserved. -/
def execVOp (a : At) (tc ta tb : T4) (opc : Fin 32) (bmode : Fin 4) (tag : OpTag) (s : State) :
    Host.Outcome State Fault Refusal :=
  execIns a 0xA0 1 tag (decide (13 ≤ opc.val)) (fun i s => s.vector i tc ta tb (vecOpOf opc.val) bmode.val) s

/-- v.fn tC, tA (R186): codes 0 and 10-15 are reserved. -/
def execVFn (a : At) (tc ta : T4) (fn : Fin 16) (tag : OpTag) (s : State) : Host.Outcome State Fault Refusal :=
  execIns a 0xA1 1 tag (fn.val == 0 || decide (10 ≤ fn.val)) (fun i s => s.vector i tc ta 0 (vecFnOf fn.val) 0) s

/-- v.dfn tC, tA, tB (R186). -/
def execVDfn (a : At) (tc ta tb : T4) (fn : Fin 16) (bmode : Fin 4) (tag : OpTag) (s : State) :
    Host.Outcome State Fault Refusal :=
  execIns a 0xA2 1 tag (fn.val == 0 || decide (10 ≤ fn.val)) (fun i s => s.vector i tc ta tb (vecDfnOf fn.val) bmode.val) s

end Sys2Proof.Machine
end

