-- ==== Sys2Proof/Machine/Routes.lean ====
section
/-!
DEFINITION. Route tables of the expert exchange (R195, R196, R318): the choices of a table, which of them are dropped, and the
rows they travel as.
-/

namespace Sys2Proof.Machine

/-- A choice of a route table: token row, choice, expert, and the number of earlier choices of the same expert. -/
structure Choice where
  row : Nat
  k : Nat
  expert : Nat
  i : Nat
  deriving DecidableEq, Repr

/-- Choices per token row. -/
def Desc.topk (t : Desc) : Nat := t.cols / 2

/-- The choices of a route table in row-major order (R195). -/
def State.choices (s : State) (t : Desc) : List Choice :=
  let raw := ((List.range t.rows).map fun r => (List.range t.topk).map fun k => (r, k, s.elemCode t r (2 * k))).flatten
  raw.foldl (fun (l : List Choice) q => l ++ [⟨q.1, q.2.1, q.2.2, (l.filter fun c => c.expert == q.2.2).length⟩]) []

/-- The choices that capacity keeps. -/
def State.kept (s : State) (t : Desc) (cap : Nat) : List Choice := (s.choices t).filter fun c => decide (c.i < cap)

/-- Experts of a share. -/
def PltDesc.perShare (d : PltDesc) : Nat := d.nexp / d.nshare

/-- The row of an expert's receive buffer that a kept choice of a source share goes to. -/
def PltDesc.recvRow (d : PltDesc) (share cap : Nat) (c : Choice) : Nat :=
  (c.expert % d.perShare * d.nshare + share) * cap + c.i

/-- The bytes of a window's row as it travels: its elements, then its auxiliary bytes. -/
def State.rowImage (s : State) (d : Desc) (r : Nat) : List Byte :=
  s.bytes (lowAddr d.d0 + r * d.pitch) (fmtBytes d.fmt d.cols) ++
  (if d.aux = .none then [] else s.bytes (lowAddr d.d1 + d.auxOff r 0) (d.aux.bytes d.cols))

/-- Bytes of a row as it travels. -/
def Desc.rowLen (d : Desc) : Nat := fmtBytes d.fmt d.cols + (if d.aux = .none then 0 else d.aux.bytes d.cols)

/-- Write a row that has travelled into a window. -/
def State.putRow (s : State) (d : Desc) (r : Nat) (b : List Byte) : State :=
  if d.rows ≤ r ∨ b.length ≠ d.rowLen then s
  else
    let n := fmtBytes d.fmt d.cols
    let s := (s.writeMem .spoke (lowAddr d.d0 + r * d.pitch) (b.take n)).1
    if d.aux = .none then s else (s.writeMem .spoke (lowAddr d.d1 + d.auxOff r 0) (b.drop n)).1

/-- NaN elements of some rows of a window. -/
def State.rowNans (s : State) (d : Desc) (opnd : Nat) (rows : List Nat) : List NanSeen :=
  rows.flatMap fun r => (List.range d.cols).filterMap fun q => d.nanOf opnd r q (s.elemVal d r q)

/-- The gates of a route table that are NaN, for some choices. -/
def State.gateNans (s : State) (t : Desc) (l : List Choice) : List NanSeen :=
  l.filterMap fun c => t.nanOf 0 c.row (2 * c.k + 1) (s.elemVal t c.row (2 * c.k + 1))

/-- The NaN elements that an xd.disp reads (R86): of the rows it sends, and gates. -/
def State.dispNans (s : State) (a t : Desc) (cap : Nat) : List NanSeen :=
  s.rowNans a 1 ((s.kept t cap).map Choice.row).eraseDups ++ s.gateNans t (s.choices t)

/-- The elements that an xd.disp writes and that are NaN, by their place in the receive buffer. -/
def State.dispMade (s : State) (d : PltDesc) (a b t : Desc) (share cap : Nat) : List Nat :=
  (s.kept t cap).flatMap fun c => (s.rowNans a 1 [c.row]).map fun n => b.linear (d.recvRow share cap c) (n.idx % a.lcols - a.coloff)

/-- The NaN elements that an xd.comb reads (R86): of the rows it returns, of the rows that returned to it, and gates. -/
def State.combNans (s : State) (a t y : Desc) (cap : Nat) (returned : List Nat) : List NanSeen :=
  let l := s.kept t cap
  s.rowNans a 1 returned ++ s.rowNans y 2 (l.map fun c => c.row * t.topk + c.k) ++ s.gateNans t l

/-! ## The dispatch that an expert combine answers (R196) -/

/-- The xd.disp of a collective at this module. -/
def Coll.dispatch (c : Coll) : Option Part := c.parts.find? fun p => p.ins.op == 0xD0

/-- The dispatch of a handle that an xd.comb matches here: the latest with its CAP, of its route table where there is one. -/
def State.matching (s : State) (ph : Nat) (t : Desc) (cap : Nat) : Option Coll :=
  let of (table : Bool) : List Coll := s.plt.colls.filter fun c => c.ph == ph && (match c.dispatch with
    | some p => p.cap == cap && (!table || p.t2.d0 == t.d0)
    | none => false)
  let last (l : List Coll) : Option Coll := l.foldl (fun (a : Option Coll) c => match a with
    | none => some c
    | some b => if b.begun ≤ c.begun then some c else a) none
  (last (of true)).or (last (of false))

/-- The rows that this member returns with an xd.comb: of each source region of the matching dispatch. -/
def State.returned (s : State) (ph : Nat) (t : Desc) (cap : Nat) : List XRegion :=
  match s.matching ph t cap with
  | some c => s.plt.regions.filter fun r => r.ph == ph && r.seq == c.seq && !r.ret
  | none => []

end Sys2Proof.Machine
end

