-- ==== Sys2Proof/Machine/Reduce.lean ====
section
/-!
DEFINITION. Reductions (R304-R309, R335): sum records at an owner and in the slots of a router, and the write of final sums
through T2.
-/

namespace Sys2Proof.Machine

/-! ## Sum packets -/

/-- A SUM packet (R303). -/
def State.sumPacket (s : State) (dst ph seq epoch : Nat) (tag : OpTag) (gtag fctx : Nat) (contrib : BitVec 64) (r : SumRec) : Packet :=
  { s.packet 0x0A 2 dst (collKey ph seq epoch 0 false) r.bytes with optag := tag, gtag := gtag, fctx := fctx, tspec := contrib.toNat }

/-- Fold the chunks of a sum record that a core sends into the Tandem digest (R340). -/
def State.foldSums (s : State) (ph : Nat) (l : List (Nat × List Elem)) : State :=
  if s.tandem = false then s
  else forAll l s fun s q => s.fold (2 ^ 63 + 2 ^ 62 + ph * 2 ^ 40 + q.1) (chunkBytes 2 q.2)

/-! ## Chunks at an owner (R304) -/

/-- A chunk that has not been started. -/
def Chunk.new (n raise : Nat) : Chunk := ⟨n, raise, 0, zeroChunk, [], 0, false, false⟩

/-- A chunk of a collective. -/
def Coll.chunk (c : Coll) (n raise : Nat) : Chunk := (c.chunks.find? fun h => h.n == n).getD (Chunk.new n raise)

/-- Set a chunk. -/
def Coll.setChunk (c : Coll) (h : Chunk) : Coll := { c with chunks := h :: c.chunks.filter fun g => g.n != h.n }

/-- The maximal held records that lie outside F. -/
def Chunk.cover (h : Chunk) : List (BitVec 64 × List Elem) :=
  let l := h.held.filter fun q => q.1 &&& h.got == 0
  l.filter fun q => !(l.any fun r => r.1 != q.1 && q.1 &&& r.1 == q.1)

/-- Add terms to a chunk. -/
def Chunk.add (h : Chunk) (contrib : BitVec 64) (e : List Elem) : Chunk :=
  { h with got := h.got ||| contrib, elems := addChunks h.elems e, predicted := (h.predicted + chunkImage e) % (2 ^ 31 - 1) }

/-- Whether F, or F with the held records outside it, covers every share; what is held is then added. -/
def Chunk.settle (h : Chunk) (all : BitVec 64) : Chunk × Nat :=
  if h.got = all then ({ h with complete := true, held := [] }, 0)
  else
    let l := h.cover
    if l.foldl (fun m q => m ||| q.1) 0 = all &&& ~~~h.got then
      ({ l.foldl (fun g q => g.add q.1 q.2) h with complete := true, held := [] }, l.length)
    else (h, 0)

/-- What a record does to a chunk: the chunk after, held records added, and whether it overlaps F. -/
def Chunk.take (h : Chunk) (all contrib : BitVec 64) (rs : Bool) (e : List Elem) : Chunk × Nat × Bool :=
  if h.complete then (h, 0, false)
  else if rs then
    let g := if h.held.any fun q => q.1 == contrib then h else { h with held := h.held ++ [(contrib, e)] }
    let r := g.settle all
    (r.1, r.2, false)
  else if h.got &&& contrib ≠ 0 then (h, 0, true)
  else
    let r := (h.add contrib e).settle all
    (r.1, r.2, false)

/-- The image sum of a completed chunk agrees with those of its records (R335). -/
def Chunk.sound (h : Chunk) : Bool := h.predicted == chunkImage h.elems

/-! ## Final sums (R193, R305) -/

/-- The part of an output window that lies inside the logical shape, as rows and columns. -/
def Part.rows (p : Part) : Nat := (p.tc.clip p.tc.whole).r1

/-- An element of a block's final sums: +∞ under the fallback. -/
def Coll.sumElem (c : Coll) (p : Part) (fb : Bool) (r cc : Nat) : Elem :=
  if fb then ⟨0, .pinf⟩ else (c.chunk (32 * blockOf p.tc + r) 0).elems.getD cc Elem.zero

/-- The fallback applies to the bracket of a part. -/
def State.partFallback (s : State) (p : Part) : Bool := match (s.ctx p.ins.x).bracket with
  | some b => b.fallback
  | none => false

/-- The rows of a block that can be written now (R305): their chunks are complete, sound and not written. Where T2 keeps one exponent
for 32 rows, all of them together. -/
def State.readyRows (s : State) (c : Coll) (p : Part) : List Nat :=
  let l := (List.range p.rows).filter fun r =>
    let h := c.chunk (32 * blockOf p.tc + r) 0
    !h.written && (s.partFallback p || (h.complete && h.sound))
  if p.t2.aux = .rows ∧ l.length < p.rows then [] else l

/-- The groups in which ready rows are written: row by row, or the whole block. -/
def Part.groups (p : Part) (rows : List Nat) : List (Nat × Nat) :=
  if p.t2.aux = .rows then (if rows = [] then [] else [(0, p.rows)]) else rows.map fun r => (r, 1)

/-- NaN elements of a window of sums. -/
def sumNans (d : Desc) (el : Nat → Nat → Elem) : List NanSeen :=
  (d.clip d.whole).cells.filterMap fun q =>
    if (el q.1 q.2).st = .nan then some ⟨0, false, d.linear q.1 q.2, d.tid, d.fmt⟩ else none

/-- What writing sums through a descriptor needs: the delayed maximum and the conversion; none for an A128 form. -/
def State.sumConv (s : State) (p : Part) (d : Desc) (t : T4) (el : Nat → Nat → Elem) :
    State × Except Flt (Option (DelayedMax × Conv)) :=
  if fmtA128 d.fmt then (s, .ok none)
  else
    let h := if !fmtScaled d.fmt then (s, .ok ⟨(0, 0), false, false⟩)
      else if p.ins.op = 0xD1 then s.outputMax p.ins p.latch d t [(p.tb, 0)]
      else s.slotMax p.ins p.latch d t p.anchor p.ins.tag
    match h with
    | (s, .error e) => (s, .error e)
    | (s, .ok h) => (s, .ok (some (h, convert d p.latch h.mant (fun r cc => (el r cc).num p.anchor) .rne noCoord)))

/-- The planes of sums in an A128 form (R71-R73); `nonfin` is whether an element of the whole output is not finite. -/
def State.sumPlanes (s : State) (p : Part) (d : Desc) (fb nonfin : Bool) (el : Nat → Nat → Elem) : List (Nat × List Byte) :=
  let w := d.clip d.whole
  let rows := (List.range w.r1).map fun r => s.rowBytes d r 0 ((List.range w.c1).map fun cc =>
    (el r cc).k.toNat % 2 ^ fmtBits d.fmt)
  let states := (List.range w.r1).map fun r =>
    let at0 := lowAddr d.d1 + d.auxOff r 0
    (at0, (List.range ((w.c1 + 3) / 4)).map fun b => BitVec.ofNat 8 ((List.range 4).foldl (fun n q =>
      n + 4 ^ q * (if 4 * b + q < w.c1 then (el r (4 * b + q)).st.code else (s.byte (at0 + b)).toNat / 4 ^ q % 4)) 0))
  rows ++ states ++ [(lowAddr d.d2, accHeader p.anchor fb nonfin (d.fmt - 8) p.ins.tag p.ins.raise p.ins.step)]

/-- The NaN elements that a part of a collective consumes as it writes its sums; those of an xd.comb are of its operands. -/
def partNans (p : Part) (d : Desc) (el : Nat → Nat → Elem) : List NanSeen :=
  if p.ins.op = 0xD1 then [] else sumNans d el

/-- NaN elements that writing sums consumes and produces. -/
def State.sumNanCount (s : State) (p : Part) (d : Desc) (t : T4) (el : Nat → Nat → Elem) : List NanSeen × List Nat :=
  match s.sumConv p d t el with
  | (_, .ok (some (_, v))) => (partNans p d el, v.nans)
  | _ => ([], [])

/-- Write final sums through a descriptor: exactly into an A128 form, otherwise converted as acc.cvt does (R193). A write that
cannot be made is a fault found after issue. -/
def State.writeSums (s : State) (p : Part) (d : Desc) (t : T4) (fb nonfin : Bool) (el : Nat → Nat → Elem) : State :=
  let i := p.ins
  match s.sumConv p d t el with
  | (s, .error e) => s.storeFault i e
  | (s, .ok none) =>
    match (d.clip d.whole).cells.find? fun q => (el q.1 q.2).st == .fin && !fitsForm (fmtBits d.fmt) (el q.1 q.2).k with
    | some q => (s.storeFault i (.operand 0 t)).raiseEv (dieOf i.x.core) 5 0x20
        [(2, i.tag.toNat), (4, i.step.toNat), (1, d.fmt - 8), (5, d.linear q.1 q.2)]
    | none => s.storeAll i .quad (s.sumPlanes p d fb nonfin el)
  | (s, .ok (some (h, v))) =>
    let n := (partNans p d el).length + v.nans.length
    let s := ((s.notePrepass i p.latch d h).putConv i .quad d v).noteConv i p.latch d v 0
    s.noteTile i.x fun b => { b with nans := b.nans + n }

/-- A write between two states met no fault at its target. -/
def State.wroteAll (s t : State) : Bool := decide (t.core.faults.length ≤ s.core.faults.length)

/-- Mark rows of a block written. -/
def Coll.wroteRows (c : Coll) (p : Part) (g : Nat × Nat) : Coll :=
  (List.range g.2).foldl (fun (c : Coll) k =>
    c.setChunk { c.chunk (32 * blockOf p.tc + g.1 + k) p.ins.raise with written := true }) c

/-- A part of a collective is complete. -/
def Coll.donePart (c : Coll) (i : Ins) : Coll :=
  { c with parts := c.parts.map fun (q : Part) => if q.ins = i then { q with done := true } else q }

/-- Write a group of rows of a block's final sums: CLC advances once for each chunk that is written, and in an all-reduce the owner
multicasts them (R197, R305). -/
def State.writeGroup (s : State) (d : PltDesc) (key : Coll) (p : Part) (g : Nat × Nat) : State :=
  match s.coll key.ph key.seq key.epoch with
  | none => s
  | some c =>
    let fb := s.partFallback p
    let el := c.sumElem p fb
    let nonfin := (p.tc.clip p.tc.whole).cells.any fun q => (el q.1 q.2).st != .fin
    let t := s.writeSums p (p.t2.rowGroup g.1 g.2) p.t2n fb nonfin fun r cc => el (g.1 + r) cc
    let done := t.modColl c fun b => b.wroteRows p g
    if s.wroteAll t = false then done
    else
      let u := done.addCleat p.ins.x.core p.clc (BitVec.ofNat 64 g.2)
      if !allReduce c.seq || d.owner (d.stripe p.tc) != s.lmn || fb || d.members.length == 1 then u
      else
        let l := (List.range g.2).map fun k => (32 * blockOf p.tc + g.1 + k, (c.chunk (32 * blockOf p.tc + g.1 + k) 0).elems)
        forAll (packSums p.ins.raise l) (u.foldSums c.ph l) fun s r =>
          s.send { s.sumPacket c.ph c.ph c.seq c.epoch c.op.tag c.gen p.fctx d.all r with mc := true }

/-- A block of which every row is written is complete: its output window is checked and dumped (R332, R451). -/
def State.finishBlock (s : State) (key : Coll) (p : Part) : State :=
  match s.coll key.ph key.seq key.epoch with
  | none => s
  | some c =>
    if (List.range p.rows).all fun r => (c.chunk (32 * blockOf p.tc + r) 0).written then
      ((s.checkWindow p.t2 (p.t2.clip p.t2.whole) true p.ins).dumpOut p.ins p.t2).modColl c fun b => b.donePart p.ins
    else s

/-- Write every row of a block that is ready. -/
def State.writeBlock (s : State) (d : PltDesc) (c : Coll) (p : Part) : State :=
  (forAll (p.groups (s.readyRows c p)) s fun s g => s.writeGroup d c p g).finishBlock c p

/-- Whether writing a block's ready rows would trap an armed context (R87, R90). -/
def State.blockTrap (s : State) (c : Coll) (p : Part) : Option NanAt :=
  if s.armed p.ins.x = false then none
  else
    let el := c.sumElem p (s.partFallback p)
    let l := (p.groups (s.readyRows c p)).map fun g => s.sumNanCount p (p.t2.rowGroup g.1 g.2) p.t2n fun r cc => el (g.1 + r) cc
    firstNan (l.flatMap Prod.fst) (l.flatMap Prod.snd) p.t2

/-- The parts of mma.rs whose final sums this module writes and has not written. -/
def State.readyParts (s : State) (d : PltDesc) (c : Coll) : List Part :=
  c.parts.filter fun p => decide (p.ins.op < 0xC8) && !p.done && s.writesHere d c p

/-- Once its attempt is sealed, write every complete row of a collective; a block that would trap waits for its commit. -/
def State.writeReady (s : State) (d : PltDesc) (c : Coll) : State :=
  if s.opSealed c.op = false then s
  else forAll (s.readyParts d c) s fun s p => match s.coll c.ph c.seq c.epoch with
    | some c => if (s.blockTrap c p).isSome then s else s.writeBlock d c p
    | none => s

/-! ## A record at an owner -/

/-- A member learns that the attempt with raise count `n` overflowed (R39, R42). Where no instruction here has computed the last anchor
tried, the one that does so reports the fallback. -/
def State.overflowed (s : State) (op : OpId) (n : Nat) : State :=
  if s.opSealed op || (s.attempt op).cause.isSome || decide (n < (s.attempt op).raise) then s
  else if n = 3 then
    let x := (s.participants op).headD ⟨0, 0⟩
    match ((s.participants op).filterMap fun x => (s.ctx x).bracket.bind Bracket.anchor).head? with
    | some anchor => s.applyFallback op anchor (s.ctx x).layer (dieOf x.core)
    | none => (s.markFallback op 0).setAttempt { s.attempt op with raise := n, fallback := some ((s.attempt op).fallback.getD none) }
  else s.replayTo op (n + 1)

/-- Chunks of a record that would newly be held (R304): those still incomplete that hold no such contribution yet. -/
def Coll.newlyHeld (c : Coll) (l : List (Nat × List Elem)) (contrib : BitVec 64) : Nat :=
  (l.filter fun q => let h := c.chunk q.1 0; !h.complete && !(h.held.any fun t => t.1 == contrib)).length

/-- Add a record's chunks at their owner; `err` is an error of the adder in an element of the first chunk. -/
def State.addRecord (s : State) (d : PltDesc) (frm : Option SpokeId) (k : Packet) (r : SumRec) (c : Coll)
    (err : Option (Nat × Nat)) : State :=
  let rs := k.spec 232 1 == 1
  let contrib := BitVec.ofNat 64 (k.spec 168 64)
  let l := (List.range r.chunks.length).map fun i => (r.first + i, r.chunks.getD i zeroChunk)
  let more := if rs then c.newlyHeld l contrib else 0
  if more ≠ 0 ∧ s.holdRoom (heldBytes * more) = false then s.holdDiscard frm k r.first
  else
    (forAll l s fun s q => match s.coll c.ph c.seq c.epoch with
      | none => s
      | some c =>
        let h := c.chunk q.1 r.raise
        let t := h.take d.all contrib rs q.2
        let g := match err with
          | some e => if q.1 = r.first ∧ h.complete = false then
              { t.1 with elems := t.1.elems.modify e.1 fun x => { x with k := x.k ^^^ BitVec.ofNat 128 e.2 } } else t.1
          | none => t.1
        let s := s.setColl (c.setChunk g)
        let s := s.count .hubPltcnt F.hubPltcnt_RSADD t.2.1
        let s := if t.2.2 then s.count .hubPltcnt F.hubPltcnt_OVLP 1 else s
        if g.complete && !h.complete && !g.sound then
          s.raiseEv 0 4 0x8002 [(2, c.ph), (2, c.seq), (4, g.n), (4, g.predicted), (4, chunkImage g.elems)]
        else s).spillUse

/-- A sum record at its owner, or the final sums of an all-reduce at a member (R304-R306). -/
def State.atOwner (s : State) (d : PltDesc) (frm : Option SpokeId) (k : Packet) (r : SumRec) (err : Option (Nat × Nat)) : State :=
  match s.coll k.ph k.seq k.epoch with
  | none => s.holdPacket frm k
  | some c =>
    if c.closed then s
    else if c.joined = false then s.holdPacket frm k
    else
      let cur := (s.attempt c.op).raise
      if r.raise < cur ∨ (cur < r.raise ∧ s.opSealed c.op = true) then s
      else
        let s := if cur < r.raise then s.replayTo c.op r.raise else s
        if r.v then s.overflowed c.op r.raise
        else if r.inf then s.overflowed c.op 3
        else
          let s := s.addRecord d frm k r c err
          match s.coll k.ph k.seq k.epoch with
          | some c => s.writeReady d c
          | none => s

/-! ## Reduction slots (R307-R309) -/

/-- Show the slots held. -/
def State.showSlots (s : State) : State :=
  let n := s.plt.slots.length
  (s.setFld .spkmSlotstat F.spkmSlotstat_INUSE n).setFld .spkmSlotstat F.spkmSlotstat_PEAK
    (max n (s.fld .spkmSlotstat F.spkmSlotstat_PEAK))

/-- Whether a slot is that of a record. -/
def RSlot.holds (r : RSlot) (k : Packet) (g : Nat) : Bool := r.ph == k.ph && r.seq == k.seq && r.epoch == k.epoch && r.group == g

/-- Set the slots. -/
def State.setSlots (s : State) (l : List RSlot) : State := ({ s with plt := { s.plt with slots := l } }).showSlots

/-- Fabric context of what a slot sends on (R290): that of this module's own part in its block group, or the Hub's. -/
def State.slotFctx (s : State) (r : RSlot) : Nat :=
  (((s.coll r.ph r.seq r.epoch).bind fun c => c.parts.find? fun p => blockOf p.tc / 4 == r.group).map Part.fctx).getD hubFctx

/-- Send the contents of a slot on (R308): first-path records, one for each owner and bitmap. -/
def State.sendSlot (s : State) (r : RSlot) : State :=
  let keys := (r.chunks.map fun q => (q.2.1, q.2.2.1)).eraseDups
  let s := forAll keys s fun s key =>
    let mine := (r.chunks.filter fun q => q.2.1 == key.1 && q.2.2.1 == key.2).map fun q => (q.1, q.2.2.2)
    let l := sortBy (fun a b => decide (a.1 ≤ b.1)) mine
    forAll (packSums r.raise l) s fun s m => s.send (s.sumPacket key.1 r.ph r.seq r.epoch r.op (b2n r.gtag) (s.slotFctx r) key.2 m)
  s.setSlots (s.plt.slots.filter fun q => q != r)

/-- The collective id of a slot (R307). -/
def State.slotId (s : State) (r : RSlot) : Nat :=
  (match s.peloton r.ph with
   | some p => p.desc.prio
   | none => 255) * 2 ^ 14 + r.ph

/-- Add a record's chunks to a slot. -/
def RSlot.add (r : RSlot) (k : Packet) (m : SumRec) (now : Nat) : RSlot :=
  let contrib := BitVec.ofNat 64 (k.spec 168 64)
  let l := (List.range m.chunks.length).map fun i => (m.first + i, m.chunks.getD i zeroChunk)
  let add (a : List (Nat × Nat × BitVec 64 × List Elem)) (q : Nat × List Elem) :=
    match a.find? fun b => b.1 == q.1 with
    | some b => (a.filter fun e => e.1 != q.1) ++ [(q.1, b.2.1, b.2.2.1 ||| contrib, addChunks b.2.2.2 q.2)]
    | none => a ++ [(q.1, k.dst, contrib, q.2)]
  { r with chunks := l.foldl add r.chunks, last := now }

/-- Whether a record overlaps what a slot holds. -/
def RSlot.overlaps (r : RSlot) (k : Packet) (m : SumRec) : Bool :=
  let contrib := BitVec.ofNat 64 (k.spec 168 64)
  r.chunks.any fun q => decide (m.first ≤ q.1 ∧ q.1 < m.first + m.chunks.length) && q.2.2.1 &&& contrib != 0

/-- A slot is complete when every chunk it holds has the terms of all shares that pass this router (DEDUCED, log entry 41). -/
def State.slotDone (s : State) (d : PltDesc) (r : RSlot) : Bool :=
  r.chunks.all fun q => q.2.2.1 == s.passing (b2n r.gtag) d q.2.1 s.lmn

/-- An empty slot for a record. -/
def RSlot.claim (k : Packet) (m : SumRec) : RSlot :=
  { ph := k.ph, seq := k.seq, epoch := k.epoch, group := m.first / 128, raise := m.raise, gtag := k.gtag == 1, op := k.optag,
    chunks := [], last := 0 }

/-- Add a record to a slot with its residue check (R309): `res` is 0 when it agrees, 1 when repeating cures it, 2 when not. -/
def State.slotAdd (s : State) (d : PltDesc) (k : Packet) (m : SumRec) (r : RSlot) (res : Fin 3) : State :=
  let s := if res = 0 then s else s.count .spkmRescnt F.spkmRescnt_REPEAT 1
  if res = 2 then
    let n := (s.plt.slots.findIdx? fun q => q == r).getD 0
    let s := (s.sendSlot r).send k
    let s := (s.count .spkmRescnt F.spkmRescnt_FAIL 1).setFld .spkmSlotstat F.spkmSlotstat_FENCED 1
    s.raiseEv 0 8 0x21 [(4, s.slotId r), (4, m.first), (1, n)]
  else
    let t := r.add k m s.time
    let s := s.count .spkmSlotcnt F.spkmSlotcnt_COMB 1
    let s := s.setSlots ((s.plt.slots.filter fun q => q != r) ++ [t])
    if s.slotDone d t then s.sendSlot t else s

/-- A first-path record makes a claim (R307). -/
def State.slotClaim (s : State) (d : PltDesc) (k : Packet) (m : SumRec) (res : Fin 3) : State :=
  let new := RSlot.claim k m
  if s.plt.slots.length < 64 then s.slotAdd d k m new res
  else
    let top := s.plt.slots.foldl (fun (a : Option RSlot) r => match a with
      | none => some r
      | some b => if s.slotId b < s.slotId r then some r else a) none
    match top with
    | some r =>
      if s.slotId new < s.slotId r then
        ((s.sendSlot r).count .spkmSlotcnt F.spkmSlotcnt_PREEMPT 1).slotAdd d k m new res
      else (s.count .spkmSlotcnt F.spkmSlotcnt_FWD 1).send k
    | none => s.send k

/-- The router claims no slots: its adder is fenced (R309), or under a self-test (R345). -/
def State.adderAway (s : State) : Bool :=
  s.flag .spkmSlotstat F.spkmSlotstat_FENCED || s.int.tests.any fun t => t.unit % 16 == 8

/-- A sum record at a router on its way (R306-R308). -/
def State.atRouter (s : State) (d : PltDesc) (k : Packet) (m : SumRec) (res : Fin 3) : State :=
  let g := m.first / 128
  if m.v then
    (s.setSlots (s.plt.slots.filter fun r =>
      !(r.ph == k.ph && r.epoch == k.epoch && r.op == k.optag && r.raise == m.raise))).send k
  else if d.slotok = false ∨ k.spec 232 1 = 1 ∨ m.inf = true ∨ s.adderAway = true ∨
      d.shares.contains s.lmn = false then s.send k
  else match s.plt.slots.find? fun r => r.holds k g with
    | none => s.slotClaim d k m res
    | some r =>
      if m.raise < r.raise then s
      else if r.raise < m.raise then (s.setSlots (s.plt.slots.filter fun q => q != r)).slotClaim d k m res
      else if r.overlaps k m then s.send k
      else s.slotAdd d k m r res

/-- PKT_SUM (R304-R309): `res` is the outcome of a slot's residue checks, `err` an error of the owner's adder. -/
def execPktSum (res : Fin 3) (err : Option (Fin 32 × BitVec 128)) (s : State) : Host.Outcome State Fault Refusal :=
  runs s fun s => match s.takePacket fun k => k.typ == 0x0A with
    | none => s
    | some (s, frm, k) => match SumRec.parse k.payload with
      | none => s.discard (frm.getD 0) .malf k
      | some r => s.accept frm k fun d s =>
        if k.mc || k.dst == s.lmn then s.atOwner d frm k r (err.map fun e => (e.1.val, e.2.toNat)) else s.atRouter d k r res

/-- SLOT_TIMEOUT (R308): a slot whose last addition lies SLOTTMO back sends its contents on. -/
def execSlotTimeout (nth : Nat) (s : State) : Host.Outcome State Fault Refusal :=
  runs s fun s => match s.plt.slots[nth]? with
    | some r => if r.last + 100 * s.fld .hubPltctl F.hubPltctl_SLOTTMO ≤ s.time then s.sendSlot r else s
    | none => s

end Sys2Proof.Machine
end

