-- ==== Sys2Proof/Machine/Links.lean ====
section
/-!
DEFINITION. The links of the Spokes: codewords (R260-R262), link control flits (R269), link retry (R270-R272), credits (R276),
equalisation and retrains (R263-R265), the timebase (R291), and links that go down (R286).
-/

namespace Sys2Proof.Machine

/-! ## Codewords -/

/-- The CRC-16 of a codeword (R260): most significant bit first. -/
def crc16 (bs : List Byte) : Nat :=
  bs.foldl (fun a b => (List.range 8).foldl (fun c _ => if 2 ^ 15 ≤ c then ((c * 2) ^^^ 0x1021) % 2 ^ 16 else c * 2) (a ^^^ (b.toNat * 256)))
    0xFFFF

/-- The die of a Spoke (R1). -/
def dieOfSpoke (p : SpokeId) : Fin 2 := ⟨p.val / 4, by omega⟩

/-- Send a link control flit. -/
def State.controlFlit (s : State) (p : SpokeId) (kind seq : Nat) (cred : List Nat) (time : Nat) : State :=
  { s with out := s.out ++ [.control p kind seq cred time] }

/-- Send a NAK that names the expected flit (R271). -/
def State.sendNak (s : State) (p : SpokeId) : State :=
  let v := s.spoke p
  ((s.setSpoke p { v with nak := true, nakAt := s.time }).controlFlit p 2 v.rxSeq [] 0).count (.spkRetry p) F.spkRetry_NAKS 1

/-- Set a link's state. -/
def State.setLink (s : State) (p : SpokeId) (v : Nat) : State := s.setFld (.spkLstat p) F.spkLstat_STATE v

/-! ## Retrains (R264) -/

/-- Flits that a Spoke resent within the last millisecond (R264). -/
def Spoke.resentIn (v : Spoke) (now : Nat) : List (Nat × Nat) := v.resent.filter fun q => decide (now < q.1 + 10 ^ 5)

/-- How many flits those are. -/
def Spoke.resentMs (v : Spoke) (now : Nat) : Nat := (v.resentIn now).foldl (fun n q => n + q.2) 0

/-- A retrain starts from the coefficients that the Spoke keeps (R263): `ask` tells the partner. Only the retrain that follows 16 resends of a flit is the one of R271. -/
def State.startRetrain (s : State) (p : SpokeId) (cause : Nat) (ask : Bool) : State :=
  if s.link p ≠ 2 then s
  else
    let v := s.spoke p
    let s := if ask then s.controlFlit p 4 0 [] 0 else s
    let s := (s.setLink p 3).count (.spkLstat p) F.spkLstat_RETRAINS 1
    let s := s.setSpoke p { v with since := s.time, waiting := true, retrained := v.retrained || cause == 2 }
    s.raiseSpoke p 0x20 [(1, p.val), (1, cause), (4, v.resentMs s.time)]

/-! ## A link goes down (R286) -/

/-- The far module of a Spoke: the neighbour in its direction, or by the reference wiring the module of the port at the far end
of a global link (R280, log entry 44). -/
def State.farModule (s : State) (p : SpokeId) : Nat :=
  let r := s.role s.gtag p
  let w := s.fld .spkmCoord F.spkmCoord_W
  let own := s.lmn % 64
  if r < 6 then
    let d := r / 2
    let c := (coordOf own d + (if r % 2 = 0 then 1 else 3)) % 4
    64 * w + own - coordOf own d * 4 ^ d + c * 4 ^ d
  else
    let port := 2 * own + (if p = 7 then 1 else 0)
    64 * s.fld .spkmGpeer (if p = 7 then F.spkmGpeer_G7 else F.spkmGpeer_G6) + (127 - port) / 2

/-- The Spoke at the far end of a link, if the far module is cabled as this one is (log entry 44). -/
def State.partnerSpoke (s : State) (p : SpokeId) : SpokeId :=
  let r := s.role s.gtag p
  if r < 6 then (s.roleSpoke s.gtag (if r % 2 = 0 then r + 1 else r - 1)).getD 0
  else if p = 6 then 7 else 6

/-- A request of the Hub, on its own fabric context (R290); it waits where no response tag is free (R274). -/
def State.hubRequest (s : State) (k : Packet) (kind : ReqKind) : State :=
  if s.tagFree = false then { s with fab := { s.fab with hubWaits := s.fab.hubWaits ++ [(k, kind)] } }
  else
    let i : Ins := { x := ⟨0, 0⟩, op := 0, words := 1, tag := 0, iaddr := 0, layer := 0, mbatch := 0, step := 0, raise := 0 }
    s.request k kind i s.gtag hubFctx 1

/-- The Hub's oldest waiting request is sent, once a tag is free. -/
def State.hubNext (s : State) : State :=
  match s.fab.hubWaits with
  | [] => s
  | q :: l => if s.tagFree then ({ s with fab := { s.fab with hubWaits := l } }).hubRequest q.1 q.2 else s

/-- Whether a packet's only next link is a Spoke's. -/
def State.onlyBy (s : State) (p : SpokeId) (k : Packet) (frm : Option SpokeId) : Bool :=
  match s.nextHops k frm with
  | [.out q _] => q == p
  | _ => false

/-- Whether a buffered packet waits for a Spoke: its only next link is that one, or one of its branches. -/
def State.waitsBy (s : State) (p : SpokeId) (k : Packet) (frm : Option SpokeId) : Bool :=
  if k.mc then (branches (s.mcHops k frm ((s.mcMembers k).filter fun m => m != s.lmn))).any fun q => q.1 == p
  else s.onlyBy p k frm

/-- Eject from the input buffers every packet whose next link is going down; a multicast packet keeps where it came from (log entry 79). -/
def State.ejectInputs (s : State) (p : SpokeId) : State × Nat :=
  (List.finRange 8).foldl (fun (r : State × Nat) q =>
    let v := r.1.spoke q
    let out := v.input.filter fun k => r.1.waitsBy p k.pkt (some q)
    let s := r.1.setSpoke q { v with input := v.input.filter (fun k => !out.contains k), owed := out.foldl owe v.owed }
    (forAll out s fun s k => s.spill p ⟨if k.pkt.mc then { k.pkt with entry := some q } else k.pkt, false, some p⟩, r.2 + out.length)) (s, 0)

/-- A Spoke goes DOWN (R286): the partner is told where the link still carries anything, packets that wait for it are spilled, slots on
their way over it are sent on (R308), and a probe leaves by another route. -/
def State.goDown (s : State) (p : SpokeId) (cause : Nat) : State :=
  if s.linkDown p then s
  else
    let slots := s.plt.slots.filter fun r => r.chunks.any fun q =>
      s.onlyBy p (s.sumPacket q.2.1 r.ph r.seq r.epoch r.op (b2n r.gtag) 0 0 ⟨q.1, r.raise, false, false, []⟩) none
    let s := if s.link p = 2 then s.controlFlit p 5 0 [] 0 else s
    let e := s.ejectInputs p
    let s := e.1.setLink p 0
    let s := s.raiseSpoke p 0x41 [(1, p.val), (1, cause), (2, e.2)]
    let s := s.setSpoke p { s.spoke p with waiting := false }
    let s := forAll slots s fun s r => s.sendSlot r
    let s := s.setSpoke p { s.spoke p with partialHead := none, partialData := [], probing := true, probeAt := s.time }
    let k := { s.packet 0x0F 6 (s.farModule p) 0 [] with tspec := (s.partnerSpoke p).val }
    s.hubRequest k (.probe p)

/-- The retry buffer of a Spoke is empty: nothing that it sent waits for an acknowledgement. -/
def State.emptyRetry (s : State) (p : SpokeId) : State :=
  let v := s.spoke p
  s.setSpoke p { v with retry := [], acked := v.txSeq, probing := false }

/-- Eject a retry buffer's packets to the spill region; `rs` marks sum records as resent (R304). -/
def State.ejectRetry (s : State) (p : SpokeId) (l : List RetryPkt) (rs : Bool) : State :=
  forAll l s fun s q =>
    let k := if rs && q.pkt.typ == 0x0A && q.pkt.tspec / 2 ^ 64 % 2 == 0 then { q.pkt with tspec := q.pkt.tspec + 2 ^ 64 } else q.pkt
    s.spill p ⟨k, false, some p⟩

/-- A probe's answer: the packets up to LASTRX have arrived, the later ones are spilled (R286 item 4). -/
def State.probeAnswered (s : State) (p : SpokeId) (lastRx : Nat) (valid : Bool) : State :=
  let v := s.spoke p
  if v.probing = false then s
  else
    let later := v.retry.filter fun q =>
      let e := q.seq + q.pkt.flits - 1
      !valid || decide (0 < (e + 2 ^ 20 - lastRx) % 2 ^ 20 ∧ (e + 2 ^ 20 - lastRx) % 2 ^ 20 ≤ 32768)
    (s.emptyRetry p).ejectRetry p later false

/-- PROBE_TIMEOUT (R286 item 5). -/
def execProbeTimeout (p : SpokeId) (s : State) : Host.Outcome State Fault Refusal :=
  runs s fun s =>
    let v := s.spoke p
    if v.probing && decide (v.probeAt + 100 * s.fld .spkmCtl F.spkmCtl_PRBTMO ≤ s.time) then
      let good := v.retry.filter fun q => idempotent q.pkt.typ
      let lost := v.retry.filter fun q => !idempotent q.pkt.typ
      let s := s.emptyRetry p
      let s := { s with fab := { s.fab with 
        reqs := s.fab.reqs.filter fun (r : Req) => r.kind != ReqKind.probe p
        hubWaits := s.fab.hubWaits.filter fun (q : Packet × ReqKind) => q.2 != ReqKind.probe p } }
      let s := s.ejectRetry p good true
      let s := s.count (.spkDisc p) F.spkDisc_UNREACH lost.length
      let s := s.raiseSpoke p 0x51 [(1, p.val), (2, good.length), (2, lost.length)]
      forAll (lost.filter fun q => q.pkt.typ == 0x08) s fun s q =>
        s.raiseEv (dieOfSpoke p) 8 0x30 [(1, p.val), (2, q.pkt.dst), (6, q.pkt.addr), (8, q.pkt.tspec % 2 ^ 64)]
    else s

/-- LINK_DOWN (R286): the link is lost. -/
def execLinkDown (p : SpokeId) (cause : BitVec 8) (s : State) : Host.Outcome State Fault Refusal :=
  runs s fun s => s.goDown p cause.toNat

/-! ## Link control flits (R269-R271) -/

/-- The partner acknowledges flits up to `seq` and returns credits. -/
def State.creditAck (s : State) (p : SpokeId) (seq : Nat) (cred : List Nat) : State :=
  let v := s.spoke p
  let left := v.retry.filter fun q => decide ((seq + 1 + 2 ^ 21 - (q.seq + q.pkt.flits)) % 2 ^ 20 > 32768)
  let moved := (seq + 1) % 2 ^ 20 != v.acked && decide ((seq + 1 + 2 ^ 20 - v.acked) % 2 ^ 20 ≤ 32768)
  let credits := (List.range 18).foldl (fun m i => m.set i (v.credits.get i 0 - cred.getD i 0)) v.credits
  s.setSpoke p { v with
    retry := left, credits := credits, acked := if moved then (seq + 1) % 2 ^ 20 else v.acked
    resends := if moved then 0 else v.resends, retrained := if moved then false else v.retrained }

/-- A NAK: every unacknowledged flit from the one named is sent again, in order. -/
def State.resend (s : State) (p : SpokeId) (seq : Nat) : State :=
  let v := s.spoke p
  let n := (v.txSeq + 2 ^ 20 - seq) % 2 ^ 20
  if 32768 < n ∨ n = 0 then s
  else
    let l := v.resentIn s.time ++ [(s.time, n)]
    let w : Spoke := { v with resent := l }
    let r : Nat := w.resentMs s.time
    let again := v.retry.filter fun q => decide ((q.seq + q.pkt.flits - 1 + 2 ^ 20 - seq) % 2 ^ 20 ≤ 32768)
    let s := s.setSpoke p { v with resends := v.resends + 1, resent := l }
    let s := s.count (.spkRetry p) F.spkRetry_FLITS n
    let s := { s with out := s.out ++ again.map fun q => .packet p q.pkt }
    if v.resends + 1 = 32 then s.goDown p 2
    else if v.resends + 1 = 16 ∧ v.retrained = false then s.startRetrain p 2 true
    else if s.fld (.spkLctl p) F.spkLctl_RTHR < r then s.startRetrain p 1 true
    else s

/-- A timestamp flit (R291): from the parent it corrects the timebase, by the offset the flit shows less half the round trip
`rtt`, in ns; another Spoke's is answered. -/
def State.timestamp (s : State) (p : SpokeId) (time rtt : Nat) : State :=
  if s.flag .spkmCtl F.spkmCtl_TROOT = false ∧ s.fld .spkmCtl F.spkmCtl_TPARENT = p.val then
    { s with fab := { s.fab with timeAdjust := 10 * ((time : Int) - s.time) + rtt / 2 } }
  else s.controlFlit p 3 0 [] s.time

/-- The round trip to the parent in ns (R291): since this module's own timestamp left. -/
def State.roundTrip (s : State) (p : SpokeId) : Nat := 10 * (s.time - ((s.spoke p).tsAt.getD s.time))

/-- A link control flit as it is received: reserved kinds are ignored. -/
def State.control (s : State) (p : SpokeId) (w : BitVec 256) : State :=
  let kind := getBits w (0, 4)
  if kind = 1 then s.creditAck p (getBits w (10, 20)) ((List.range 18).map fun i => getBits w (32 + 12 * i, 12))
  else if kind = 2 then s.resend p (getBits w (10, 20))
  else if kind = 3 then s.timestamp p (getBits w (32, 64)) (s.roundTrip p)
  else if kind = 4 then s.startRetrain p 3 false
  else if kind = 5 then s.goDown p 3
  else s

/-- CTRL_CREDIT_ACK (R269, R270, R276). -/
def execCtrlCreditAck (p : SpokeId) (seq : BitVec 20) (cred : List (BitVec 12)) (s : State) : Host.Outcome State Fault Refusal :=
  runs s fun s => s.creditAck p seq.toNat (cred.map BitVec.toNat)

/-- CTRL_NAK (R271). -/
def execCtrlNak (p : SpokeId) (seq : BitVec 20) (s : State) : Host.Outcome State Fault Refusal :=
  runs s fun s => s.resend p seq.toNat

/-- CTRL_TIMESTAMP (R291): `rtt` is the round trip in ns that the exchange measured. -/
def execCtrlTimestamp (p : SpokeId) (time : Word) (rtt : BitVec 32) (s : State) : Host.Outcome State Fault Refusal :=
  runs s fun s => s.timestamp p time.toNat rtt.toNat

/-- CTRL_RETRAIN_REQUEST (R264). -/
def execCtrlRetrainRequest (p : SpokeId) (s : State) : Host.Outcome State Fault Refusal := runs s fun s => s.startRetrain p 3 false

/-- CTRL_GOING_DOWN (R286). -/
def execCtrlGoingDown (p : SpokeId) (s : State) : Host.Outcome State Fault Refusal := runs s fun s => s.goDown p 3

/-- NAK_REPEAT (R271): 2 µs after the last NAK, while the expected flit is missing. -/
def execNakRepeat (p : SpokeId) (s : State) : Host.Outcome State Fault Refusal :=
  runs s fun s => if (s.spoke p).nak && s.link p == 2 && decide ((s.spoke p).nakAt + 200 ≤ s.time) then s.sendNak p else s

/-- TIMEBASE_EXCHANGE (R291): every 100 µs, with the parent. -/
def execTimebaseExchange (s : State) : Host.Outcome State Fault Refusal :=
  runs s fun s =>
    let p : SpokeId := Fin.ofNat _ (s.fld .spkmCtl F.spkmCtl_TPARENT)
    let early := (s.spoke p).tsAt.any fun t => decide (s.time < t + 10 ^ 4)
    if s.flag .spkmCtl F.spkmCtl_TROOT || s.link p != 2 || early then s
    else (s.setSpoke p { s.spoke p with tsAt := some s.time }).controlFlit p 3 0 [] s.time

/-- Channel of a row of the buffer allocation. -/
def rowVc (i : Nat) : Nat := if i < 4 then 0 else if i < 8 then 1 else if i < 13 then i - 6 else 7

/-- Flits of a key that a Spoke may return as credits: none on a channel on which R166 holds an item. -/
def State.returnable (s : State) (p : SpokeId) (key : Nat) : Nat :=
  let v := s.spoke p
  let vc := if key < 17 then rowVc key else key - 18
  if v.input.any fun q => s.uninstalled q.pkt.gtag && q.pkt.vc == vc then 0 else v.owed.get key 0

/-- The flits returned now for each key: at most 4,095 for a row and for the shared space. -/
def State.returns (s : State) (p : SpokeId) : List (Nat × Nat) :=
  ((List.range 17).map fun i => (i, min (s.returnable p i) 4095)) ++
  ((List.range 8).foldl (fun (a : Nat × List (Nat × Nat)) c =>
    let n := min (s.returnable p (18 + c)) (4095 - a.1)
    (a.1 + n, a.2 ++ [(18 + c, n)])) (0, [])).2

/-- LINK_CONTROL_SEND (R269): owed credits and the last flit received in order, or an idle flit. -/
def execLinkControlSend (p : SpokeId) (s : State) : Host.Outcome State Fault Refusal :=
  runs s fun s =>
    let v := s.spoke p
    if s.link p ≠ 2 then s
    else
      let l := s.returns p
      let cred := (l.take 17).map Prod.snd ++ [(l.drop 17).foldl (fun n q => n + q.2) 0]
      let left := l.foldl (fun (m : Map Nat Nat) q => if q.2 = v.owed.get q.1 0 then m.del q.1 else m.set q.1 (v.owed.get q.1 0 - q.2)) v.owed
      (s.setSpoke p { v with owed := left }).controlFlit p 1 ((v.rxSeq + 2 ^ 20 - 1) % 2 ^ 20) cred 0

/-! ## Receiving -/

/-- A whole packet has been received (R272, R268): it is buffered, or discarded where it is malformed, and its flits are then
owed back at once. -/
def State.received (s : State) (p : SpokeId) (k : Packet) : State :=
  let v := s.spoke p
  let s := s.setReg (.spkPrb p) (BitVec.ofNat 64 ((v.rxSeq + 2 ^ 20 - 1) % 2 ^ 20 + 2 ^ 20))
  let row := if k.sh then 17 else k.row
  if k.malformed then
    (s.setSpoke p { v with owed := owe v.owed ⟨k, row, none, false⟩ }).discard p .malf k
  else s.setSpoke p { v with input := v.input ++ [⟨k, row, none, false⟩] }

/-- Accept one sequenced flit. -/
def State.acceptFlit (s : State) (p : SpokeId) (w : BitVec 256) : State :=
  let v := s.spoke p
  let v := { v with rxSeq := (v.rxSeq + 1) % 2 ^ 20, nak := false }
  let s := (s.count (.spkRxf p) F.spkRxf_COUNT 1).pmuDie 0x0E (dieOfSpoke p) 1
  match v.partialHead with
  | none =>
    let k := Packet.parse w
    if k.len = 0 then (s.setSpoke p v).received p k
    else s.setSpoke p { v with partialHead := some k, partialData := [] }
  | some k =>
    let data := v.partialData ++ toBytes 32 w.toNat
    if k.len ≤ data.length then
      (s.setSpoke p { v with partialHead := none, partialData := [] }).received p { k with payload := data.take k.len }
    else s.setSpoke p { v with partialData := data }

/-- One slot of a codeword: a data flit, a header flit, or a link control flit between packets. -/
def State.slotIn (s : State) (p : SpokeId) (w : BitVec 256) : State :=
  if s.link p ≠ 2 then s
  else if (s.spoke p).partialHead.isNone ∧ getBits w (5, 5) = 0 then s.control p w
  else s.acceptFlit p w

/-- CODEWORD_RECEIVE (R260-R262, R271): the 20 flit slots, the codeword's CRC-16, what the FEC found (0 clean, 1 corrected,
2 uncorrectable), and the sequence number of its first sequenced flit (log entry 45). Flits before the one expected are discarded; a
codeword that does not hold it is discarded whole. -/
def execCodewordReceive (p : SpokeId) (slots : List (BitVec 256)) (crc : BitVec 16) (fec : Fin 3) (first : BitVec 20) (s : State) :
    Host.Outcome State Fault Refusal :=
  runs s fun s =>
    let l := (slots ++ List.replicate 20 0).take 20
    if s.link p ≠ 2 then s
    else if fec = 2 ∨ crc16 ((l.map fun w => toBytes 32 w.toNat).flatten) ≠ crc.toNat then
      (s.count (.spkFec p) F.spkFec_UNCORR 1).sendNak p
    else
      let s := if fec = 1 then s.count (.spkFec p) F.spkFec_CORR 1 else s
      let skip := ((s.spoke p).rxSeq + 2 ^ 20 - first.toNat) % 2 ^ 20
      if 20 ≤ skip then (if (s.spoke p).nak then s else s.sendNak p)
      else forAll (l.drop skip) s fun s w => s.slotIn p w

/-! ## Equalisation (R263, R265) -/

/-- Cold equalisation starts. -/
def State.equalise (s : State) (p : SpokeId) : State :=
  (s.setLink p 1).setSpoke p { s.spoke p with since := s.time, waiting := false }

/-- Equalisation or a retrain of a Spoke ends with the lanes that passed (R263): it keeps the coefficients, sends a link control flit and
is UP; the partner's flit is part of the command. -/
def State.equalised (s : State) (p : SpokeId) (lanes : BitVec 16) : State :=
    if s.link p ≠ 1 ∧ s.link p ≠ 3 then s
    else
      let took := s.time - (s.spoke p).since
      let s := s.setFld (.spkLstat p) F.spkLstat_LANEOK lanes.toNat
      let low := lanes.toNat % 256 == 255
      let high := lanes.toNat / 256 == 255
      let up (s : State) (x8 half : Nat) : State :=
        let s := ((s.setFld (.spkLstat p) F.spkLstat_X8 x8).setFld (.spkLstat p) F.spkLstat_HALF half).setLink p 2
        let s := (s.setSpoke p { s.spoke p with trained := true, waiting := false }).controlFlit p 0 0 [] 0
        s.raiseSpoke p 0x10 [(1, p.val), (1, if x8 = 1 then 8 else 16), (4, took)]
      if low && high then up s 0 0
      else if s.flag (.spkLctl p) F.spkLctl_X8OK && (low || high) then
        (up s 1 (if low then 0 else 1)).raiseSpoke p 0x11 [(1, p.val), (2, lanes.toNat)]
      else (s.setLink p 4).raiseSpoke p 0x42 [(1, p.val), (2, lanes.toNat)]

/-- Step 4 of bring-up ends once no Spoke with EN 1 is in its first equalisation; a Spoke that fails in it is reported (R373, R378). -/
def State.eqProgress (s : State) : State :=
  if s.flag .clkBrstat F.clkBrstat_EQDONE = true ∨ s.phase = 0 ∨ s.phase = 4 then s
  else if (List.finRange 8).any fun p => s.flag (.spkLctl p) F.spkLctl_EN && s.link p == 1 then s
  else
    let failed := (List.finRange 8).filter fun p => s.link p == 4
    let s := s.setFld .clkBrstat F.clkBrstat_EQDONE 1
    forAll failed s fun s p => s.raiseEv 0 1 0x03 [(1, 4), (8, 11 + p.val * 2 ^ 8)]

/-- LINK_EQUALISATION_COMPLETE (R263, R265): with the lanes that came up. -/
def execLinkEqualisationComplete (p : SpokeId) (lanes : BitVec 16) (s : State) : Host.Outcome State Fault Refusal :=
  runs s fun s => (s.equalised p lanes).eqProgress

/-- RETRAIN (R264): a write of SPKn_LCTL.RETRAIN. -/
def execRetrain (priv : Priv) (p : SpokeId) (s : State) : Host.Outcome State Fault Refusal :=
  runs s fun s => if priv = .job then s else s.startRetrain p 0 true

/-- RETRAIN_TIMEOUT (R264): the link is not UP again, retraining still or FAILED. -/
def execRetrainTimeout (p : SpokeId) (s : State) : Host.Outcome State Fault Refusal :=
  runs s fun s =>
    if (s.spoke p).waiting = true ∧ (s.spoke p).since + 100 * s.fld .spkmCtl F.spkmCtl_RTWAIT ≤ s.time then s.goDown p 1 else s

/-- A Spoke reset (R286, R292): the link goes down, and equalises again while it is enabled. -/
def State.spokeReset (s : State) (p : SpokeId) : State :=
  let s := s.goDown p 4
  let v := s.spoke p
  let s := s.setSpoke p { Spoke.reset with retry := v.retry, probing := v.probing, probeAt := v.probeAt, discs := v.discs,
                                           discAt := v.discAt, trained := v.trained }
  let s := ((s.setReg (.spkPrb p) 0).setFld .hubFwucmix (16 + p.val, 1) 0).raiseEv 0 1 0x50 [(1, 6), (1, 3)]
  if s.flag (.spkLctl p) F.spkLctl_EN then s.equalise p else s.setLink p 0

/-- SPOKE_RESET (R292). -/
def execSpokeReset (priv : Priv) (p : SpokeId) (s : State) : Host.Outcome State Fault Refusal :=
  runs s fun s => if priv = .job then s else s.spokeReset p

/-- Whether a Spoke is fenced: its id has KIND 0xB and INDEX p (R349). -/
def State.spokeFenced (s : State) (p : SpokeId) : Bool := s.int.fenced.contains (0xB + 256 * p.val)

/-- SPKn_LCTL.EN changes (R263): 1 runs cold equalisation, 0 takes the link down. A fenced Spoke stays down (R350). -/
def State.linkEnable (s : State) (p : SpokeId) (wanted : Bool) : State :=
  let en := wanted && !s.spokeFenced p
  let was := s.flag (.spkLctl p) F.spkLctl_EN
  let s := s.setFld (.spkLctl p) F.spkLctl_EN (b2n en)
  if en then (if s.link p = 0 ∨ (s.link p = 4 ∧ was = false) then s.equalise p else s)
  else ((s.goDown p 5).setLink p 0).setSpoke p { (s.goDown p 5).spoke p with waiting := false }

/-- SPOKE_LINK_ENABLE (R263). -/
def execSpokeLinkEnable (priv : Priv) (p : SpokeId) (en : Bool) (s : State) : Host.Outcome State Fault Refusal :=
  runs s fun s => if priv = .job then s else s.linkEnable p en

end Sys2Proof.Machine
end

