-- ==== Sys2Proof/Machine/Fused.lean ====
section
/-!
DEFINITION. The fused products (R192-R194, R298, R302, R317, R319, R320): mma.rs and its contribution, ag.mma and the gather
cache, and gathered data as it arrives.
-/

namespace Sys2Proof.Machine

/-! ## What fused instructions share -/

/-- Operand faults of word 1 (R192, R198): PH names the open bracket's peloton, and CLC a cleat of the context's range. -/
def State.fusedFaults (s : State) (x : CtxId) (w : Word1) (acc : Bool) : List Flt :=
  let ph := w.ph.toNat
  let mine := match (s.ctx x).bracket with
    | some b => b.op.ph == ph
    | none => false
  if (acc && !mine) || !s.openHandle ph || !s.cleatOk x w.clc.val 1 then [Flt.operand 0 0] else []

/-- The GTAG of a fused instruction (R161): that of the tile of its part, where it issues again, or of the tile that starts now. -/
def State.fusedGen (s : State) (i : Ins) : Nat :=
  let mine (p : Part) : Bool := p.ins.x == i.x && p.ins.iaddr == i.iaddr && p.ins.op == i.op && !p.done
  ((s.plt.colls.flatMap Coll.parts).find? mine |>.map fun p => p.latch.gen % 2).getD s.gtag

/-- A fused instruction under a new epoch waits until every collective of the old one is over here (R317). -/
def State.epochWaits (s : State) (ph epoch : Nat) : Bool :=
  s.plt.colls.any fun c => c.ph == ph && c.epoch != epoch && c.joined && !c.closed

/-- The faults of the local planes of a window (R10, R154). -/
def State.localFaults (s : State) (x : CtxId) (d : Desc) (t : T4) (hdr write : Bool) : List Flt :=
  let w := d.clip d.whole
  let one (g : Word) (q : Nat × Nat) : Option Flt :=
    if g.toNat / 2 ^ 48 ≠ 0 then some (.addr g.toNat) else s.rangeFault x g q.1 q.2 write
  ((d.elemOffs w).filterMap (one d.d0) ++ (d.auxOffs w).filterMap (one d.d1) ++
    (if hdr && d.hasHdr then (one d.d2 (0, 16)).toList else [])).map fun f => f.of t

/-- A fused instruction meets its collective: it joins it, or its signature must agree with that of the collective
(R300-R302). `f` follows with the collective as it then stands. -/
def State.meet (s : State) (i : Ins) (d : PltDesc) (w : Word1) (op : OpId) (sig : Nat) (need : Bool)
    (f : Coll → State → State) : State :=
  let ph := w.ph.toNat
  let seq := w.seq.toNat
  let c := (s.coll ph seq d.epoch).getD (Coll.heard ph seq d.epoch)
  let c := if c.closed then Coll.heard ph seq d.epoch else c
  let go (s : State) : State := match s.coll ph seq d.epoch with
    | some c => f c s
    | none => s
  if c.joined = false then go (s.joinColl d { c with op := op, opcode := i.op, sig := sig, need := need, gen := s.fusedGen i })
  else if c.sig ≠ sig then
    (s.abortColl c 2).raiseEv 0 8 0x11 [(2, ph), (2, seq), (2, i.x.core.val), (8, c.sig), (8, sig)]
  else go s

/-- The signature of an accumulating fused instruction. -/
def fusedSig (i : Ins) (d : PltDesc) (w : Word1) (f : ProdF) (k fmt : Nat) (t : Desc) : Nat :=
  signature i.op f.amode.val f.rnd.val fmt w.ph.toNat w.seq.toNat i.tag k t.tid d.epoch t.lrows t.lcols d.dhash

/-! ## mma.rs (R193) -/

/-- The faults of T2 of an mma.rs with SEND. -/
def State.sendFaults (s : State) (i : Ins) (d : PltDesc) (w : Word1) (tc : T4) : List Flt :=
  let t := s.tile i.x tc
  let o := s.tile i.x w.t2
  let writes := allReduce w.seq.toNat || d.owner (d.stripe t) == s.lmn
  let sent := match s.coll w.ph.toNat w.seq.toNat d.epoch with
    | some c => !c.closed && c.sent.contains (blockOf t)
    | none => false
  s.descFaults o w.t2 writes (!fmtA128 o.fmt) false ++
  (if sent || decide (11 ≤ o.fmt) || o.tr || o.rows != t.rows || o.cols != t.cols then [Flt.operand 0 w.t2] else []) ++
  (if writes then s.localFaults i.x o w.t2 true true else [])

/-- The chunks of a contribution: the rows of a slot's window (R298). -/
def State.contribution (s : State) (c : Fin 256) (ad : A3) (t : Desc) : List (Nat × List Elem) :=
  let w := t.clip t.whole
  (List.range w.r1).map fun r => (32 * blockOf t + r,
    (List.range 32).map fun cc => if cc < w.c1 then s.slotElem c ad (32 * r + cc) else Elem.zero)

/-- Send a slot as this module's contribution to a block (R193, R298, R302). -/
def State.sendBlock (s : State) (i : Ins) (d : PltDesc) (w : Word1) (ad : A3) (ta tb tc : T4) (f : ProdF) (q : AccOp) (c : Coll) :
    State :=
  let t := s.tile i.x tc
  let b := blockOf t
  let fb := match (s.ctx i.x).bracket with
    | some b => b.fallback
    | none => false
  let l := s.contribution i.x.core ad t
  let recs := if fb then [infRecord (32 * b) q.b.raise] else packSums q.b.raise l
  let s := s.foldSums c.ph l
  let fctx := (s.freeFctx i.x.core).getD noFctx
  let pkts := recs.map fun r => s.sumPacket (d.owner (d.stripe t)) c.ph c.seq c.epoch i.tag (q.l.gen % 2) fctx (d.held s.lmn) r
  let p : Part :=
    { ins := { i with raise := q.b.raise }, serial := q.b.serial, anchor := q.anchor, latch := q.l, rnd := q.rnd, k := q.k,
      ta := s.tile i.x ta, tb := s.tile i.x tb, tc := t, t2 := s.tile i.x w.t2, t2n := w.t2, clc := w.clc, cap := 0,
      fctx := fctx, arrived := 0, formed := true, done := false }
  let c := { c with parts := c.parts ++ [p], sent := c.sent ++ [b], waiting := c.waiting ++ pkts }
  let s := (s.setColl c).showFctx
  let s := if f.free then s.emptySlot i.x.core ad else s
  if c.go then s.release d c else s

/-- AMODE is one that the operand pair allows (R29). -/
def amodeBad (pair : Pair) (amode : Nat) : List Flt :=
  if ((pairInfo pair).gran.isSome ∧ amode = 1) ∨ ((pairInfo pair).gran.isNone ∧ amode = 0) then [Flt.operand 0 0] else []

/-- Fix the anchor of the attempt of a context's bracket (R174). -/
def State.fixAnchor (s : State) (x : CtxId) (anchor : Int) : State :=
  s.noteTile x fun b => { b with anchor := if b.fallback then b.anchor else some anchor }

/-- mma.rs with EMASK 0: no product. The slot is EMPTY or of the same attempt, and the attempt's anchor is computed and compared as for
any accumulating instruction (R29-R32, R174, R193); a start that R32 refuses leads to the fallback. -/
def State.sendOnly (s : State) (i : Ins) (pair : Pair) (ad : A3) (ta tb tc : T4) (f : ProdF) (extra : List Flt)
    (done : AccOp → State → State) : State :=
  let x := i.x
  let d := s.tile x tc
  let k := s.prodK x f
  let faults := s.accFaults i ad false ++ s.descFaults d tc false false false ++ amodeBad pair f.amode.val ++ extra ++
    s.entryFaults i f.amode.val f.rnd.val d k
  match firstFault faults, (s.ctx x).bracket with
  | some e, _ => s.fault i e
  | none, none => s.fault i (.operand 0 0)
  | none, some br =>
    let l := s.newLatch x
    match s.productAnchor i l pair ta tb f.amode.val k with
    | (s, .error e) => s.fault i e
    | (s, .ok n) => match attemptAnchor br n.anchor with
      | .error e => s.fault i e
      | .ok none =>
        let q : AccOp := ⟨i, br, l, ad, false, lastAnchor br n.anchor, k, .rne, d, 0⟩
        done q ((s.startTile x).applyFallback br.op q.anchor i.layer (dieOf x.core))
      | .ok (some anchor) =>
        let s := forAll n.pre (s.startTile x) fun s e => s.notePrepass i l e.1 e.2
        done ⟨i, br, l, ad, false, anchor, k, roundMode f.rnd.val l k, d, 0⟩ (s.fixAnchor x anchor)

/-- Run an mma.rs. -/
def State.reduceScatter (s : State) (i : Ins) (pair : Pair) (ad : A3) (ta tb tc : T4) (f : ProdF) (w : Word1) : State :=
  match firstFault (s.fusedFaults i.x w true), s.descFor (s.fusedGen i) w.ph.toNat, (s.ctx i.x).bracket with
  | none, some d, some b =>
    if s.epochWaits w.ph.toNat d.epoch || (f.send && (s.freeFctx i.x.core).isNone) then s.stall i
    else
      let extra := if f.send then s.sendFaults i d w tc else []
      let done (q : AccOp) (s : State) : State :=
        let sig := fusedSig i d w f q.k (s.tile i.x w.t2).fmt q.tc
        (s.meet i d w b.op sig false fun c s => if f.send then s.sendBlock i d w ad ta tb tc f q c else s).advance i
      if f.emask = 0 then s.sendOnly i pair ad ta tb tc f extra done else s.product i pair ad ta tb tc f extra done
  | some e, _, _ => s.fault i e
  | _, _, _ => s.fault i (.operand 0 0)

/-- mma.rs.pair aD, tA, tB, tC (R193): CAP is reserved. -/
def execMmaRs (a : At) (pair : Pair) (ad : A3) (ta tb tc : T4) (f : ProdF) (tag : OpTag) (w1 : Word1) (s : State) :
    Host.Outcome State Fault Refusal :=
  execIns a (0xC0 + pairCode pair) 2 tag (prodBad f true false true || w1.cap != 0)
    (fun i s => s.reduceScatter i pair ad ta tb tc f w1) s

/-! ## Packed shards (R319) -/

/-- The stripes of a gathered tensor that a share owns, in order. -/
def shardStripes (d : PltDesc) (g : Desc) (share : Nat) : List Nat :=
  (List.range (((if d.sdim then g.lcols else g.lrows) + 31) / 32)).filter fun r => r % d.nshare == share

/-- Rows and columns of a stripe. -/
def stripeShape (d : PltDesc) (g : Desc) (r : Nat) : Nat × Nat :=
  if d.sdim then (g.lrows, min 32 (g.lcols - 32 * r)) else (min 32 (g.lrows - 32 * r), g.lcols)

/-- Element bytes of a part of a tensor, laid out densely. -/
def denseElems (g : Desc) (q : Nat × Nat) : Nat := q.1 * fmtBytes g.fmt q.2

/-- Auxiliary rows and bytes per auxiliary row of a part of a tensor. -/
def auxShape (g : Desc) (q : Nat × Nat) : Nat × Nat :=
  match g.aux with
  | .none => (0, 0)
  | .rows => ((q.1 + 31) / 32, q.2)
  | _ => (q.1, g.aux.bytes q.2)

/-- Auxiliary bytes of a part of a tensor. -/
def denseAux (g : Desc) (q : Nat × Nat) : Nat := (auxShape g q).1 * (auxShape g q).2

/-- Bytes of a share's packed shard: its stripes' elements, their auxiliary bytes, the header (log entry 42). -/
def shardBytes (d : PltDesc) (g : Desc) (share : Nat) : Nat :=
  let l := (shardStripes d g share).map (stripeShape d g)
  let n := l.foldl (fun n q => n + denseElems g q + denseAux g q) 0 + (if g.hasHdr then 16 else 0)
  (n + 31) / 32 * 32

/-- Bytes of the packed shards of all shares. -/
def shardSizes (d : PltDesc) (g : Desc) : List Nat := (List.range d.nshare).map (shardBytes d g)

/-- The packed shard of a share, read from T2's planes, in which the stripes of this member follow one another from row, or
column, `base` on. -/
def State.packShard (s : State) (d : PltDesc) (t g : Desc) (base share : Nat) : List Byte :=
  let l := (shardStripes d g share).map (stripeShape d g)
  let starts := (l.foldl (fun (a : Nat × List (Nat × Nat × Nat)) q =>
    (a.1 + (if d.sdim then q.2 else q.1), a.2 ++ [(a.1, q.1, q.2)])) (base, [])).2
  let elems := starts.map fun q => (List.range q.2.1).map fun r =>
    let row := if d.sdim then r else q.1 + r
    let col := if d.sdim then q.1 else 0
    s.bytes (lowAddr t.d0 + row * t.pitch + fmtOff t.fmt col) (fmtBytes t.fmt q.2.2)
  let auxs := starts.map fun q => (List.range (auxShape g (q.2.1, q.2.2)).1).map fun r =>
    let row := (if d.sdim then 0 else q.1) + (if g.aux = .rows then 32 * r else r)
    let col := if d.sdim then q.1 else 0
    s.bytes (lowAddr t.d1 + t.auxOff row col) (auxShape g (q.2.1, q.2.2)).2
  let b := elems.flatten.flatten ++ auxs.flatten.flatten ++ (if g.hasHdr then s.bytes (lowAddr t.d2) 16 else [])
  b ++ List.replicate (shardBytes d g share - b.length) 0

/-- First rows, or columns, of this member's shares in T2. -/
def shardBases (d : PltDesc) (g : Desc) (m : Nat) : List (Nat × Nat) :=
  ((d.sharesOf m).foldl (fun (a : Nat × List (Nat × Nat)) i =>
    let n := ((shardStripes d g i).map fun r => if d.sdim then (stripeShape d g r).2 else (stripeShape d g r).1).foldl (· + ·) 0
    (a.1 + n, a.2 ++ [(i, a.1)])) (0, [])).2

/-! ## The gather cache (R319, R320) -/

/-- The entry of a collective. -/
def State.gatherEntry (s : State) (ph seq : Nat) : Option GEntry :=
  s.plt.cache.find? fun e => e.ph == ph && e.seq == seq && e.inUse

/-- Bytes of an entry. -/
def GEntry.bytes (e : GEntry) : Nat := e.sizes.foldl (· + ·) 0

/-- A place for `n` bytes beside the entries of a list. -/
def cachePlace (cap n : Nat) (l : List GEntry) : Option Nat :=
  (0 :: l.map fun e => e.at_ + e.bytes).find? fun a =>
    decide (a + n ≤ cap) && l.all fun e => decide (a + n ≤ e.at_ ∨ e.at_ + e.bytes ≤ a)

/-- Find a place, releasing the oldest kept entries first. -/
def makePlace (cap n : Nat) : Nat → List GEntry → Option (Nat × List GEntry)
  | 0, _ => none
  | fuel + 1, l => match cachePlace cap n l with
    | some a => some (a, l)
    | none => match l.findIdx? fun e => !e.inUse with
      | some k => makePlace cap n fuel (l.eraseIdx k)
      | none => none

/-- The kept entry that serves a collective (R320). -/
def State.keptEntry (s : State) (d : PltDesc) (ph tid planes : Nat) (step : BitVec 32) : Option GEntry :=
  if d.jts1 then s.plt.cache.find? fun e =>
    e.ph == ph && e.tid == tid && e.planes == planes && e.step == step && !e.inUse else none

/-- Shares of an entry that are whole. -/
def Coll.wholeShares (c : Coll) (sizes : List Nat) : List Nat :=
  (List.range sizes.length).filter fun i =>
    ((c.shards.filter fun q => q.1 == i).foldl (fun n q => n + q.2.2) 0) == sizes.getD i 0

/-- Address of a byte of a share in the gather cache. -/
def GEntry.addr (e : GEntry) (d : PltDesc) (share off : Nat) : Nat :=
  d.gbase + e.at_ + (e.sizes.take share).foldl (· + ·) 0 + off

/-- The GATH packets of this member's shards (R303, R319). -/
def State.gathPackets (s : State) (i : Ins) (d : PltDesc) (w : Word1) (t g : Desc) (gen fctx : Nat) : List (Nat × Packet) :=
  ((shardBases d g s.lmn).map fun q =>
    let b := s.packShard d t g q.2 q.1
    (packetPieces 0 b.length).map fun p =>
      let k := s.packet 0x0B 2 0 (collKey w.ph.toNat w.seq.toNat d.epoch 0 false) ((b.drop p.1).take p.2)
      (q.1, { k with optag := i.tag, gtag := gen, fctx := fctx, tspec := q.1 + p.1 / 32 * 2 ^ 8 })).flatten

/-- Push shards once GO is held: to every member that needs them (R320), this one included. -/
def State.pushShards (s : State) (d : PltDesc) (c : Coll) (l : List Packet) : State :=
  let needy := d.members.filter fun m => m != s.lmn && d.held m &&& c.needmap != 0
  let far (s : State) (k : Packet) : State :=
    if needy = [] then s
    else if needy.length + 1 = d.members.length then s.send { k with dst := c.ph, mc := true }
    else forAll needy s fun s m => s.send { k with dst := m }
  forAll l s fun s k =>
    let s := far s k
    if d.held s.lmn &&& c.needmap ≠ 0 then
      { s with fab := { s.fab with ejected := s.fab.ejected ++ [(none, { k with dst := s.lmn })] } }
    else s

/-- Write the gathered operand into its window from the gather cache (R194). -/
def State.fillGathered (s : State) (d : PltDesc) (e : GEntry) (g : Desc) : State :=
  let w := g.clip g.whole
  let full := if d.sdim then (g.lrows, 32) else (32, g.lcols)
  let place (lr lc : Nat) : Nat × Nat × Nat × Nat × (Nat × Nat) :=
    let st := if d.sdim then lc / 32 else lr / 32
    (st % d.nshare, st / d.nshare, if d.sdim then lr else lr % 32, if d.sdim then lc % 32 else lc, stripeShape d g st)
  let code (r c : Nat) : Nat :=
    let q := place (g.rowoff + r) (g.coloff + c)
    let off := q.2.1 * denseElems g full + q.2.2.1 * fmtBytes g.fmt q.2.2.2.2.2 + fmtOff g.fmt q.2.2.2.1
    s.codeAt g.fmt (e.addr d q.1 off) (q.2.2.2.1 % 2 == 1)
  let elemTotal (sh : Nat) : Nat := ((shardStripes d g sh).map fun r => denseElems g (stripeShape d g r)).foldl (· + ·) 0
  let auxTotal (sh : Nat) : Nat := ((shardStripes d g sh).map fun r => denseAux g (stripeShape d g r)).foldl (· + ·) 0
  let auxByte (r c : Nat) : Byte :=
    let q := place (g.rowoff + r) (g.coloff + c)
    let row := if g.aux = .rows then q.2.2.1 / 32 else q.2.2.1
    let col := if g.aux = .rows then q.2.2.2.1 else g.aux.bytes (q.2.2.2.1 + 1) - 1
    s.byte (e.addr d q.1 (elemTotal q.1 + q.2.1 * denseAux g full + row * (auxShape g q.2.2.2.2).2 + col))
  let rows := (List.range w.r1).map fun r => s.rowBytes g r 0 ((List.range w.c1).map (code r))
  let per := match g.aux with
    | .rows => 1
    | .a128 => 4
    | _ => 32
  let auxs := match g.aux with
    | .none => []
    | .rows => (List.range ((w.r1 + 31) / 32)).map fun b =>
        (lowAddr g.d1 + g.auxOff (32 * b) 0, (List.range w.c1).map fun c => auxByte (32 * b) c)
    | _ => (List.range w.r1).map fun r =>
        (lowAddr g.d1 + g.auxOff r 0, (List.range ((w.c1 + per - 1) / per)).map fun b => auxByte r (per * b))
  let hdr := if g.hasHdr then [(lowAddr g.d2, s.bytes (e.addr d 0 (elemTotal 0 + auxTotal 0)) 16)] else []
  forAll (rows ++ auxs ++ hdr) s fun s q => (s.writeMem .spoke q.1 q.2).1

/-! ## ag.mma (R194) -/

/-- Operand faults of an ag.mma's gather: T2 holds the operand's format, all ag.mma of the collective name the same planes, and
the tensor fits the cache. -/
def State.agFaults (s : State) (i : Ins) (d : PltDesc) (w : Word1) (g : Desc) (gn : T4) : List Flt :=
  let t := s.tile i.x w.t2
  let other := match s.coll w.ph.toNat w.seq.toNat d.epoch with
    | some c => !c.closed && c.parts.any fun p => p.t2.d0 != t.d0 || p.t2.d1 != t.d1 || p.t2.d2 != t.d2
    | none => false
  s.descFaults t w.t2 true false true ++ s.descFaults g gn true false false ++
  (if other || t.fmt != g.fmt || t.smode != g.smode || d.gbase == 0 ||
      decide (d.gsize * 2 ^ 20 < (shardSizes d g).foldl (· + ·) 0) then [Flt.operand 0 w.t2] else []) ++
  s.localFaults i.x t w.t2 true false ++ g.cassetteFaults i.x.core gn (g.clip g.whole) true

/-- A part of an instruction that issues again is the one it registered. -/
def Part.of (i : Ins) (serial : Nat) (p : Part) : Bool := p.ins.x == i.x && p.ins.iaddr == i.iaddr && p.serial == serial && !p.done

/-- The gather of a collective at this module: its place in the cache, or the kept entry; none while nothing can be released. -/
def State.gatherPlace (s : State) (i : Ins) (d : PltDesc) (w : Word1) (t g : Desc) : Option (State × Bool) :=
  let ph := w.ph.toNat
  if (s.gatherEntry ph w.seq.toNat).isSome then some (s, false)
  else match s.keptEntry d ph g.tid t.d0.toNat i.step with
    | some e =>
      some ({ s with plt := { s.plt with cache := (s.plt.cache.filter fun f => f != e) ++ [{ e with seq := w.seq.toNat, inUse := true }] } }, true)
    | none => match makePlace (d.gsize * 2 ^ 20) ((shardSizes d g).foldl (· + ·) 0) (s.plt.cache.length + 1) s.plt.cache with
      | none => none
      | some (a, l) =>
        let e : GEntry := { ph := ph, seq := w.seq.toNat, tid := g.tid, planes := t.d0.toNat, at_ := a, sizes := shardSizes d g,
                            step := i.step, inUse := true }
        some ({ s with plt := { s.plt with cache := l ++ [e] } }, false)

/-- Register an ag.mma with its collective: CLC counts the shares that have arrived. -/
def State.registerGather (s : State) (i : Ins) (b : Bracket) (w : Word1) (ta tb tc : T4) (c : Coll) : State :=
  if c.parts.any (Part.of i b.serial) then s
  else
    let n := match s.gatherEntry c.ph c.seq with
      | some e => (c.wholeShares e.sizes).length
      | none => 0
    let p : Part :=
      { ins := i, serial := b.serial, anchor := 0, latch := s.newLatch i.x, rnd := .rne, k := 0, ta := s.tile i.x ta,
        tb := s.tile i.x tb, tc := s.tile i.x tc, t2 := s.tile i.x w.t2, t2n := w.t2, clc := w.clc, cap := 0,
        fctx := (s.freeFctx i.x.core).getD noFctx, arrived := n, formed := false, done := false }
    (s.setColl { c with parts := c.parts ++ [p] }).showFctx.addCleat i.x.core w.clc (BitVec.ofNat 64 n)

/-- The part of an instruction is complete. -/
def State.donePart (s : State) (i : Ins) (serial : Nat) (c : Coll) : State :=
  s.modColl c fun b => { b with parts := b.parts.map fun (p : Part) => if Part.of i serial p then { p with formed := true, done := true } else p }

/-- Run an ag.mma: it joins, pushes this member's shards, waits for every shard, and multiplies. -/
def State.gatherMma (s : State) (i : Ins) (pair : Pair) (ad : A3) (ta tb tc : T4) (f : ProdF) (w : Word1) : State :=
  match firstFault (s.fusedFaults i.x w true), s.descFor (s.fusedGen i) w.ph.toNat, (s.ctx i.x).bracket with
  | none, some d, some b =>
    let gn := if f.ga then ta else tb
    let g := s.tile i.x gn
    let t := s.tile i.x w.t2
    let k := (s.sreg i.x f.sk).toNat % 2 ^ 32
    match firstFault (s.agFaults i d w g gn) with
    | some e => s.fault i e
    | none =>
      let mine := (s.plt.colls.flatMap Coll.parts).find? (Part.of i b.serial)
      if s.epochWaits w.ph.toNat d.epoch || (mine.isNone && (s.freeFctx i.x.core).isNone) then s.stall i
      else match s.gatherPlace i d w t g with
        | none => s.stall i
        | some (s, kept) =>
          let sizes := shardSizes d g
          let whole : List (Nat × Nat × Nat) := (List.range sizes.length).map fun j => (j, 0, sizes.getD j 0)
          let s := s.meet i d w b.op (fusedSig i d w f k t.fmt (s.tile i.x tc)) (!kept) fun c s =>
            (s.modColl c fun c => if kept then { c with shards := whole } else c)
          match s.coll w.ph.toNat w.seq.toNat d.epoch with
          | none => s.stall i
          | some c =>
            if c.closed then s.stall i
            else
              let s := s.registerGather i b w ta tb tc c
              let c := (s.coll w.ph.toNat w.seq.toNat d.epoch).getD c
              let s := if c.go ∧ c.sent = [] then
                  let fctx := ((c.parts.find? (Part.of i b.serial)).map Part.fctx).getD noFctx
                  (s.setColl { c with sent := [1] }).pushShards d c ((s.gathPackets i d w t g c.gen fctx).map Prod.snd)
                else s
              let c := (s.coll w.ph.toNat w.seq.toNat d.epoch).getD c
              if (c.wholeShares sizes).length = sizes.length then
                match s.gatherEntry c.ph c.seq with
                | none => s.stall i
                | some e => (s.fillGathered d e g).product i pair ad ta tb tc f [] fun _ s => (s.donePart i b.serial c).advance i
              else s.stall i
  | some e, _, _ => s.fault i e
  | _, _, _ => s.fault i (.operand 0 0)

/-- ag.mma.pair aD, tA, tB, tC (R194): CAP is reserved. -/
def execAgMma (a : At) (pair : Pair) (ad : A3) (ta tb tc : T4) (f : ProdF) (tag : OpTag) (w1 : Word1) (s : State) :
    Host.Outcome State Fault Refusal :=
  execIns a (0xC8 + pairCode pair) 2 tag (prodBad f false true false || w1.cap != 0)
    (fun i s => s.gatherMma i pair ad ta tb tc f w1) s

/-- PKT_GATH (R194, R319): gathered data lands in the gather cache; CLC advances once for each share that becomes whole. -/
def execPktGath (s : State) : Host.Outcome State Fault Refusal :=
  runs s fun s => match s.takePacket fun k => k.typ == 0x0B with
    | none => s
    | some (s, frm, k) => s.accept frm k fun d s => match s.coll k.ph k.seq k.epoch with
      | none => s.holdPacket frm k
      | some c =>
        if c.closed then s
        else if c.joined = false then s.holdPacket frm k
        else match s.gatherEntry k.ph k.seq with
          | none => s
          | some e =>
            let share := k.spec 168 6
            let off := 32 * k.spec 176 30
            let size := e.sizes.getD share 0
            if size < off + k.payload.length ∨ (c.shards.any fun q => q.1 == share && q.2.1 == off) = true ∨
                (c.wholeShares e.sizes).contains share = true then s
            else
              let s := (s.writeMem .spoke (e.addr d share off) k.payload).1
              let c := { c with shards := c.shards ++ [(share, off, k.payload.length)] }
              if (c.wholeShares e.sizes).contains share = false then s.setColl c
              else
                let live := c.parts.filter fun p => decide (0xC8 ≤ p.ins.op ∧ p.ins.op < 0xD0)
                let c := { c with parts := c.parts.map fun (p : Part) => { p with arrived := p.arrived + 1 } }
                forAll live (s.setColl c) fun s p => s.addCleat p.ins.x.core p.clc 1

end Sys2Proof.Machine
end

