-- ==== Sys2Proof/Machine/Exchange.lean ====
section
/-!
DEFINITION. The expert exchange (R195, R196, R318): xd.disp and xd.comb, the rows and the DONE notices they send, and the sums
that xd.comb forms once its rows have returned.
-/

namespace Sys2Proof.Machine

/-! ## Packets -/

/-- An XROW packet (R303). -/
def State.xrow (s : State) (dst ph seq epoch : Nat) (tag : OpTag) (gen fctx row src : Nat) (ret : Bool)
    (b : List Byte) : Packet :=
  { s.packet 0x0C 4 dst (collKey ph seq epoch 0 false) b with
    optag := tag, gtag := gen, fctx := fctx, tspec := row % 2 ^ 32 + src * 2 ^ 32 + b2n ret * 2 ^ 38 }

/-- A DONE notice (R303, R318). -/
def State.doneNotice (s : State) (dst ph seq epoch : Nat) (tag : OpTag) (gen rows src : Nat) : Packet :=
  { s.packet 0x09 1 dst (collKey ph seq epoch noticeDone false) [] with
    optag := tag, gtag := gen, fctx := hubFctx, tspec := rows % 2 ^ 32 + src * 2 ^ 32 }

/-- Send packets of a collective, or keep them until GO (R301). -/
def State.sendColl (s : State) (d : PltDesc) (c : Coll) (l : List Packet) : State :=
  let c := { c with waiting := c.waiting ++ l }
  let s := s.setColl c
  if c.go then s.release d c else s

/-! ## Source regions at a receiver -/

/-- A region of a source at this module. -/
def State.region (s : State) (ph seq src : Nat) : XRegion :=
  (s.plt.regions.find? fun r => r.ph == ph && r.seq == seq && r.src == src && !r.ret).getD ⟨ph, seq, src, false, [], none, false⟩

/-- Set a region. -/
def State.setRegion (s : State) (r : XRegion) : State :=
  { s with plt := { s.plt with regions := (s.plt.regions.filter fun q =>
      !(q.ph == r.ph && q.seq == r.seq && q.src == r.src && q.ret == r.ret)) ++ [r] } }

/-- The unwritten tail rows of a source's region read as zeros. -/
def State.zeroTails (s : State) (d : PltDesc) (t : Desc) (cap : Nat) (r : XRegion) : State :=
  forAll (List.range d.perShare) s fun s j =>
    let base := (j * d.nshare + r.src) * cap
    let n := (r.rows.filter fun q => decide (base ≤ q ∧ q < base + cap)).length
    forAll (List.range (cap - n)) s fun s k => s.putRow t (base + n + k) (List.replicate t.rowLen 0)

/-- A region that has all its rows is complete: CLC advances and its tails are filled (R318). -/
def State.settleRegion (s : State) (d : PltDesc) (c : Coll) (r : XRegion) : State :=
  match c.dispatch with
  | none => s.setRegion r
  | some p =>
    if r.complete ∨ r.need ≠ some r.rows.length then s.setRegion r
    else
      let s := (s.setRegion { r with complete := true }).zeroTails d p.tb p.cap r
      let s := s.addCleat p.ins.x.core p.clc 1
      if (List.range d.nshare).all fun q => (s.region c.ph c.seq q).complete then
        (s.modColl c fun b => { b with closed := true }).count .hubPltcnt F.hubPltcnt_COLL 1
      else s

/-! ## xd.disp (R195) -/

/-- Operand faults of an xd.disp. -/
def State.dispFaults (s : State) (i : Ins) (d : PltDesc) (w : Word1) (ta tb : T4) : List Flt :=
  let a := s.tile i.x ta
  let b := s.tile i.x tb
  let t := s.tile i.x w.t2
  let shape := decide (t.fmt ≠ 6 ∨ t.cols % 2 ≠ 0 ∨ t.cols < 2 ∨ 16 < t.cols ∨ t.rows ≠ a.rows ∨ a.fmt ≠ b.fmt ∨
    a.smode ≠ b.smode ∨ a.cols ≠ b.cols) || fmtA128 a.fmt || a.smode == 1 || a.smode == 3 || a.tr || b.tr || t.tr
  let many := d.members.any fun m => decide (1 < (d.sharesOf m).length)
  s.descFaults a ta true false false ++ s.descFaults b tb true false false ++ s.descFaults t w.t2 true false false ++
  (if shape || many then [Flt.operand 0 0] else []) ++ s.localFaults i.x a ta false false ++ s.localFaults i.x b tb false true ++
  s.localFaults i.x t w.t2 false false

/-- Dispatch: rows beyond capacity are dropped and reported, the others leave for the members that hold their experts. -/
def State.sendRows (s : State) (i : Ins) (d : PltDesc) (w : Word1) (ta : T4) (c : Coll) (p : Part) : State :=
  let a := s.tile i.x ta
  let t := s.tile i.x w.t2
  let cap := w.cap.toNat
  let share := (d.sharesOf s.lmn).headD 0
  let drop := (s.choices t).filter fun c => decide (cap ≤ c.i)
  let s := s.count (.xddrop i.x.core) F.xddrop_COUNT drop.length
  let s := match drop with
    | [] => s
    | q :: _ => s.raiseEv (dieOf i.x.core) 4 0x61
        [(2, i.tag.toNat), (4, i.step.toNat), (1, i.mbatch.toNat), (4, drop.length), (4, q.expert)]
  let rows := (s.kept t cap).map fun q =>
    (q.expert / d.perShare, s.xrow (d.shares.getD (q.expert / d.perShare) 0) c.ph c.seq c.epoch i.tag (p.latch.gen % 2) p.fctx
      (d.recvRow share cap q) share false (s.rowImage a q.row))
  let done := (List.range d.nshare).map fun r =>
    s.doneNotice (d.shares.getD r 0) c.ph c.seq c.epoch i.tag (p.latch.gen % 2) ((rows.filter fun q => q.1 == r).length) share
  s.sendColl d c (rows.map Prod.snd ++ done)

/-- An xd.disp joins its collective, whose source regions are new, and sends its rows. Its operation is its own (R195: it is not
accumulating). -/
def State.startDispatch (s : State) (i : Ins) (d : PltDesc) (w : Word1) (ta : T4) (a b t : Desc) : State :=
  let op : OpId := ⟨i.tag, i.mbatch, i.step, w.ph.toNat, some i.x⟩
  let sig := signature i.op 0 0 t.fmt w.ph.toNat w.seq.toNat i.tag w.cap.toNat b.tid d.epoch b.lrows b.lcols d.dhash
  let begun := match s.coll w.ph.toNat w.seq.toNat d.epoch with
    | some c => c.joined && !c.closed
    | none => false
  let s := if begun then s else { s with plt := { s.plt with regions := s.plt.regions.filter fun r =>
    !(r.ph == w.ph.toNat && r.seq == w.seq.toNat) } }
  let p : Part :=
    { ins := i, serial := 0, anchor := 0, latch := (s.ctx i.x).latch, rnd := .rne, k := 0, ta := a, tb := b,
      tc := Desc.zero, t2 := t, t2n := w.t2, clc := w.clc, cap := w.cap.toNat, fctx := (s.freeFctx i.x.core).getD noFctx,
      arrived := 0, formed := true, done := false }
  s.meet i d w op sig false fun c s =>
    let c := { c with parts := c.parts ++ [p] }
    (s.setColl c).showFctx.sendRows i d w ta c p

/-- Run an xd.disp. -/
def State.dispatch (s : State) (i : Ins) (ta tb : T4) (w : Word1) : State :=
  match firstFault (s.fusedFaults i.x w false), s.descFor (s.fusedGen i) w.ph.toNat with
  | none, some d =>
    match firstFault (s.dispFaults i d w ta tb) with
    | some e => s.fault i e
    | none =>
      let a := s.tile i.x ta
      let b := s.tile i.x tb
      let t := s.tile i.x w.t2
      match s.readRanges .pump (t.ranges (t.clip t.whole) true ++ a.ranges (a.clip a.whole) false) with
      | (s, some q) => s.fault i (.data q)
      | (s, none) =>
        if (s.choices t).any fun c => decide (d.nexp ≤ c.expert) then s.fault i (.operand 0 w.t2)
        else if s.epochWaits w.ph.toNat d.epoch || (s.freeFctx i.x.core).isNone then s.stall i
        else
          let share := (d.sharesOf s.lmn).headD 0
          s.guardNan i (s.dispNans a t w.cap.toNat) (s.dispMade d a b t share w.cap.toNat) b fun s =>
            (((s.tileStarts i [a, t, b] none (.plain 0 0)).dumpWindow 1 i a).startDispatch i d w ta a b t).advance i
  | some e, _ => s.fault i e
  | none, none => s.fault i (.operand 0 0)

/-- FUNC of xd.disp and xd.comb holds AMODE, RND and SK only (R192). -/
def exchangeBad (f : ProdF) : Bool := f.amode.val == 3 || f.emask != 0 || f.z || f.ga || f.send || f.free

/-- xd.disp tA, tB (R195): CAP is 1-65,535. -/
def execXdDisp (a : At) (ta tb : T4) (f : ProdF) (tag : OpTag) (w1 : Word1) (s : State) : Host.Outcome State Fault Refusal :=
  execIns a 0xD0 2 tag (exchangeBad f || w1.cap == 0) (fun i s => s.dispatch i ta tb w1) s

/-! ## xd.comb (R196) -/

/-- Operand faults of an xd.comb. -/
def State.combFaults (s : State) (i : Ins) (d : PltDesc) (w : Word1) (ta tb tc : T4) (f : ProdF) (k : Nat) : List Flt :=
  let a := s.tile i.x ta
  let b := s.tile i.x tb
  let o := s.tile i.x tc
  let t := s.tile i.x w.t2
  let bad := match (s.ctx i.x).bracket with
    | none => true
    | some br => i.tag == 0 || br.op.tag != i.tag
  let shape := decide (t.fmt ≠ 6 ∨ t.cols % 2 ≠ 0 ∨ t.cols < 2 ∨ 16 < t.cols ∨ o.rows ≠ t.rows ∨ a.fmt ≠ 6 ∨ b.fmt ≠ 6 ∨
    a.cols ≠ b.cols ∨ o.cols ≠ b.cols ∨ 8 ≤ o.fmt ∨ k ≠ t.topk ∨ f.amode.val = 0) || a.tr || b.tr || o.tr || t.tr
  let many := d.members.any fun m => decide (1 < (d.sharesOf m).length)
  (if bad || shape || many then [Flt.operand 0 0] else []) ++ s.descFaults a ta true false false ++
  s.descFaults b tb true false false ++ s.descFaults o tc true true false ++ s.descFaults t w.t2 true false false ++
  s.entryFaults i f.amode.val f.rnd.val o k ++ s.localFaults i.x a ta false false ++ s.localFaults i.x b tb false true ++
  s.localFaults i.x o tc true true ++ s.localFaults i.x t w.t2 false false

/-- Return the expert output rows of every source of the matching dispatch to it (R196): each travels under its receive-buffer row, and
its source knows the choice it belongs to (log entry 43). -/
def State.returnRows (s : State) (i : Ins) (d : PltDesc) (w : Word1) (ta : T4) (c : Coll) (p : Part) : State :=
  let a := s.tile i.x ta
  let share := (d.sharesOf s.lmn).headD 0
  let pkts := (s.returned c.ph p.t2 w.cap.toNat).flatMap fun r => r.rows.map fun row =>
    s.xrow (d.shares.getD r.src 0) c.ph c.seq c.epoch i.tag (p.latch.gen % 2) p.fctx row share true (s.rowImage a row)
  s.sendColl d c pkts

/-- Whether every kept choice of an xd.comb has its row. -/
def State.allReturned (s : State) (c : Coll) (p : Part) : Bool :=
  (s.kept p.t2 p.cap).all fun q => c.shards.any fun h => h.2.1 == q.row * p.t2.topk + q.k

/-- The terms of an output element of an xd.comb. -/
def State.combTerms (s : State) (p : Part) (l : List Choice) (r cc : Nat) : List (Num × Nat) :=
  (l.filter fun q => q.row == r).map fun q =>
    ((s.elemVal p.t2 r (2 * q.k + 1)).num.mul (s.elemVal p.tb (r * p.t2.topk + q.k) cc).num, q.k)

/-- Chunks that hold the sums of an xd.comb: row r, columns 32b on, in chunk r * ceil(COLS/32) + b. -/
def combChunk (d : Desc) (r cc : Nat) : Nat := r * ((d.cols + 31) / 32) + cc / 32

/-- Form the sums of an xd.comb whose rows have all returned: overflow is found here, before the seal. -/
def State.combine (s : State) (c : Coll) (p : Part) : State :=
  let i := p.ins
  match (s.ctx i.x).bracket with
  | none => s
  | some b =>
    let y := p.tb
    match s.readRanges .quad (y.ranges (y.clip y.whole) true ++ p.t2.ranges (p.t2.clip p.t2.whole) true) with
    | (s, some q) => s.storeFault i (.data q)
    | (s, none) =>
      let explicit := match s.opEntry i.x i.tag with
        | some e => e.amode == 2
        | none => false
      let h : State × Except Flt (Int × List (Desc × DelayedMax)) :=
        if explicit then (s, .ok (s.explicitAnchor i, []))
        else match s.inputMax i p.latch p.t2 p.t2n with
          | (s, .error e) => (s, .error e)
          | (s, .ok ha) => match s.inputMax i p.latch y 0 with
            | (s, .error e) => (s, .error e)
            | (s, .ok hb) =>
              let m (q : Mant) : Int := if q.1 = 0 then -149 else clog2Mag q.1 q.2
              (s, .ok (autoAnchor (m ha.mant) (m hb.mant) p.k, [(p.t2, ha), (y, hb)]))
      match h with
      | (s, .error e) => s.storeFault i e
      | (s, .ok (a0, pre)) => match attemptAnchor b a0 with
        | .error e => s.storeFault i e
        | .ok none => (s.applyFallback b.op (lastAnchor b a0) i.layer (dieOf i.x.core)).modColl c fun c =>
            { c with parts := c.parts.map fun (q : Part) => if q.ins = i then { q with anchor := lastAnchor b a0, formed := true } else q }
        | .ok (some anchor) =>
          let q : AccOp := ⟨i, b, p.latch, 0, true, anchor, p.k, p.rnd, p.tc, 15⟩
          let l := s.kept p.t2 p.cap
          let w := p.tc.clip p.tc.whole
          let res := w.cells.map fun e => (e, q.sum ⟨0, p.tc.linear e.1 e.2, s.combTerms p l e.1 e.2⟩)
          match res.find? fun e => e.2.ovf with
          | some e => s.overflow i b anchor (p.tc.linear e.1.1 e.1.2)
          | none =>
            let s := forAll pre s fun s e => s.notePrepass i p.latch e.1 e.2
            let s := s.count (.xrndcnt i.x.core) F.xrndcnt_COUNT (res.foldl (fun n e => n + e.2.rounded) 0)
            let put (c : Coll) (e : (Nat × Nat) × Sum) : Coll :=
              let n := combChunk p.tc e.1.1 e.1.2
              let h := c.chunk n i.raise
              c.setChunk { h with complete := true, elems := h.elems.set (e.1.2 % 32) ⟨BitVec.ofInt 128 e.2.k, e.2.st⟩ }
            let s := s.noteTile i.x fun b => { b with anchor := some anchor }
            s.modColl c fun c =>
              let c := res.foldl put c
              { c with parts := c.parts.map fun (q : Part) => if q.ins = i then { q with anchor := anchor, formed := true } else q }

/-- Form the sums of every xd.comb of a collective that has its rows. -/
def State.combineReady (s : State) (c : Coll) : State :=
  forAll (c.parts.filter fun p => p.ins.op == 0xD1 && !p.formed && s.allReturned c p) s fun s p => s.combine c p

/-- Run an xd.comb. -/
def State.expertCombine (s : State) (i : Ins) (ta tb tc : T4) (f : ProdF) (w : Word1) : State :=
  match firstFault (s.fusedFaults i.x w true), s.descFor (s.fusedGen i) w.ph.toNat, (s.ctx i.x).bracket with
  | none, some d, some b =>
    let k := (s.sreg i.x f.sk).toNat % 2 ^ 32
    let a := s.tile i.x ta
    let o := s.tile i.x tc
    let t := s.tile i.x w.t2
    match firstFault (s.combFaults i d w ta tb tc f k) with
    | some e => s.fault i e
    | none =>
      if s.epochWaits w.ph.toNat d.epoch || (s.freeFctx i.x.core).isNone then s.stall i
      else match s.readRanges .quad (t.ranges (t.clip t.whole) true ++ a.ranges (a.clip a.whole) false) with
        | (s, some q) => s.fault i (.data q)
        | (s, none) =>
          let s := (s.tileStarts i [a, t, o] none (.plain 0 0)).dumpWindow 1 i a
          let l := (s.ctx i.x).latch
          let p : Part :=
            { ins := i, serial := b.serial, anchor := 0, latch := l, rnd := roundMode f.rnd.val l k, k := k, ta := a,
              tb := s.tile i.x tb, tc := o, t2 := t, t2n := w.t2, clc := w.clc, cap := w.cap.toNat,
              fctx := (s.freeFctx i.x.core).getD noFctx, arrived := 0, formed := false, done := false }
          (s.meet i d w b.op (fusedSig i d w f k t.fmt o) false fun c s =>
            let c := { c with parts := c.parts ++ [p] }
            let s := (s.setColl c).showFctx.returnRows i d w ta c p
            match s.coll c.ph c.seq c.epoch with
            | some c => s.combineReady c
            | none => s).advance i
  | some e, _, _ => s.fault i e
  | _, _, _ => s.fault i (.operand 0 0)

/-- xd.comb tA, tB, tC (R196). -/
def execXdComb (a : At) (ta tb tc : T4) (f : ProdF) (tag : OpTag) (w1 : Word1) (s : State) : Host.Outcome State Fault Refusal :=
  execIns a 0xD1 2 tag (exchangeBad f || w1.cap == 0) (fun i s => s.expertCombine i ta tb tc f w1) s

/-- An element of the sums of an xd.comb: +∞ under the fallback. -/
def Coll.combElem (c : Coll) (p : Part) (fb : Bool) (r cc : Nat) : Elem :=
  if fb then ⟨0, .pinf⟩ else (c.chunk (combChunk p.tc r cc) 0).elems.getD (cc % 32) Elem.zero

/-- The NaN elements that an xd.comb consumes. -/
def State.combSeen (s : State) (c : Coll) (p : Part) : List NanSeen :=
  if s.partFallback p then [] else s.combNans p.ta p.t2 p.tb p.cap ((s.returned c.ph p.t2 p.cap).flatMap XRegion.rows)

/-- Write the sums of an xd.comb through tC (R196): CLC advances once for every 32 output rows that are written (R197). -/
def State.writeComb (s : State) (c : Coll) (p : Part) : State :=
  let fb := s.partFallback p
  let el := c.combElem p fb
  let nonfin := (p.tc.clip p.tc.whole).cells.any fun q => (el q.1 q.2).st != .fin
  let seen := (s.combSeen c p).length
  let s := s.noteTile p.ins.x fun b => { b with nans := b.nans + seen }
  let s := forAll (List.range ((p.rows + 31) / 32)) s fun s g =>
    let t := s.writeSums p (p.tc.rowGroup (32 * g) (min 32 (p.tc.rows - 32 * g))) 0 fb nonfin fun r cc => el (32 * g + r) cc
    if s.wroteAll t then t.addCleat p.ins.x.core p.clc 1 else t
  (s.dumpOut p.ins p.tc).modColl c fun b => b.donePart p.ins

/-- Whether writing an xd.comb would trap an armed context: a NaN that it consumed comes first (R89). -/
def State.combTrap (s : State) (c : Coll) (p : Part) : Option NanAt :=
  if s.armed p.ins.x = false then none
  else
    let n := s.sumNanCount p p.tc 0 (c.combElem p (s.partFallback p))
    firstNan (s.combSeen c p ++ n.1) n.2 p.tc

/-! ## Rows and DONE notices as they arrive -/

/-- A dispatched row at its receiver. -/
def State.takeRow (s : State) (d : PltDesc) (k : Packet) (c : Coll) : State :=
  match c.dispatch with
  | none => s
  | some p =>
    let r := s.region k.ph k.seq (k.spec 200 6)
    let row := k.spec 168 32
    let s := s.putRow p.tb row k.payload
    s.settleRegion d c { r with rows := if r.rows.contains row then r.rows else r.rows ++ [row] }

/-- A returned row at its source: the choice that was sent to that row of that expert share. -/
def State.takeReturn (s : State) (d : PltDesc) (k : Packet) (c : Coll) : State :=
  let row := k.spec 168 32
  let share := (d.sharesOf s.lmn).headD 0
  let hit (p : Part) : Option Choice := (s.kept p.t2 p.cap).find? fun q =>
    q.expert / d.perShare == k.spec 200 6 && d.recvRow share p.cap q == row
  match (c.parts.filter fun p => p.ins.op == 0xD1 && !p.formed).findSome? fun p => (hit p).map fun q => (p, q) with
  | none => s
  | some (p, q) =>
    let at_ := q.row * p.t2.topk + q.k
    let s := s.putRow p.tb at_ k.payload
    let c := { c with shards := if c.shards.any fun h => h.2.1 == at_ then c.shards else c.shards ++ [(0, at_, 1)] }
    (s.setColl c).combineReady c

/-- PKT_XROW (R195, R196): rows are written into the receive or return buffer. -/
def execPktXrow (s : State) : Host.Outcome State Fault Refusal :=
  runs s fun s => match s.takePacket fun k => k.typ == 0x0C with
    | none => s
    | some (s, frm, k) => s.accept frm k fun d s => match s.coll k.ph k.seq k.epoch with
      | none => s.holdPacket frm k
      | some c =>
        if c.closed then s
        else if c.joined = false then s.holdPacket frm k
        else if k.spec 206 1 = 1 then s.takeReturn d k c else s.takeRow d k c

/-- NOTICE_DONE (R318): the row count of a source region. -/
def execNoticeDone (s : State) : Host.Outcome State Fault Refusal :=
  runs s fun s => match s.takePacket fun k => k.typ == 0x09 && k.kind == noticeDone with
    | none => s
    | some (s, frm, k) => s.accept frm k fun d s => match s.coll k.ph k.seq k.epoch with
      | none => s.holdPacket frm k
      | some c =>
        if c.closed then s
        else if c.joined = false then s.holdPacket frm k
        else s.settleRegion d c { s.region k.ph k.seq (k.spec 200 6) with need := some (k.spec 168 32) }

end Sys2Proof.Machine
end

