-- ==== Sys2Proof/Machine/Commit.lean ====
section
/-!
DEFINITION. The commit of an attempt (R88, R90, R175, R305, R341), the notices of collectives and attempts (R301, R310, R312), and
the timeouts of R313.
-/

namespace Sys2Proof.Machine

/-! ## Commit -/

/-- The parts of collectives that a bracket waits for, with their collectives. -/
def State.openParts (s : State) (x : CtxId) (serial : Nat) : List (Coll × Part) :=
  (s.plt.colls.map fun c => (c.parts.filter fun p => p.ins.x == x && p.serial == serial && s.partOpen c p).map fun p => (c, p)).flatten

/-- The NaN that a sealed attempt meets as its sums are written, if its context is armed. -/
def State.commitTrap (s : State) (d : PltDesc) (q : Coll × Part) : Option NanAt :=
  if q.2.ins.op = 0xD1 then (if q.2.formed || s.partFallback q.2 then s.combTrap q.1 q.2 else none)
  else if q.2.ins.op < 0xC8 ∧ q.2.done = false ∧ s.writesHere d q.1 q.2 = true then s.blockTrap q.1 q.2
  else none

/-- Write what a sealed attempt can write. -/
def State.writeParts (s : State) (d : PltDesc) (l : List (Coll × Part)) : State :=
  forAll l s fun s q =>
    if q.2.ins.op = 0xD1 then (if q.2.formed || s.partFallback q.2 then s.writeComb q.1 q.2 else s)
    else match s.coll q.1.ph q.1.seq q.1.epoch with
      | some c => s.writeReady d c
      | none => s

/-- A participant's last one on this module has committed: the collectives of the operation are over here, and gathered entries
are released or kept for the step (R319, R320). -/
def State.closeColls (s : State) (op : OpId) : State :=
  if s.participants op ≠ [] then s
  else
    let mine := s.plt.colls.filter fun c => c.op == op && c.joined && !c.closed
    let keys := mine.map fun c => (c.ph, c.seq)
    let keep := match s.peloton op.ph with
      | some p => p.desc.jts1
      | none => false
    let cache := s.plt.cache.filterMap fun (e : GEntry) =>
      if keys.contains (e.ph, e.seq) ∧ e.inUse = true then (if keep then some { e with inUse := false } else none) else some e
    let s := { s with plt := { s.plt with
      colls := s.plt.colls.map fun (c : Coll) => if c.op = op ∧ c.joined = true then { c with closed := true } else c
      attempts := s.plt.attempts.filter fun a => a.op != op
      cache := cache } }
    forAll mine (s.count .hubPltcnt F.hubPltcnt_COLL mine.length) fun s c => s.traceColl c 3

/-- What a Tandem mismatch leads to (R342): the first starts a rerun with FINE set; in that rerun the operation whose digests differ
again is the culprit, of which a second rerun captures every tile. The step service holds for the REWIND once the step is over. -/
def State.localise (s : State) (fine : Option OpTag) : State :=
  if s.int.rerun = 0 then { s with int := { s.int with rerun := 1, rerunStep := s.svcStep } }
  else match fine with
    | some t =>
      if s.int.rerun = 1 then
        { s with int := { s.int with rerun := 2, culprit := some t }, svc := { s.svc with stop := some (s.svcStep, 4) } }
      else s
    | none => s

/-- A step that is run again ends (R342): where the rerun with FINE set met no mismatch, the error was transient and names no unit; the
rerun that captures the culprit's tiles is over. -/
def State.rerunEnds (s : State) : State :=
  if s.int.rerun = 0 ∨ s.svcStep < s.int.rerunStep ∨ s.svc.stop.isSome then s
  else { s with int := { s.int with rerun := 0, culprit := none } }

/-- A Tandem comparison group ends (R341): each die's digest is recorded, and unequal ones are reported. `bad` is whether a hardware
error made the dies' results differ. The event names no unit and no die: its source 136 is that of Yalar-0's controller (DESIGN CHOICE,
log entry 75). -/
def State.endGroup (s : State) (fine : Option OpTag) (bad : Bool) : State :=
  let s := if bad then s.astray else s
  let a := s.int.digest
  let b := s.int.digest1
  let s := ((s.setReg .intTddig0 a).setReg .intTddig1 b).count .intTdcnt F.intTdcnt_GROUPS 1
  let s := { s with int := { s.int with digest := 0, digest1 := 0 } }
  if a = b then (if fine.isSome then s else s.rerunEnds)
  else
    let tag : List (Nat × Nat) := match fine with
      | some t => [(2, t.toNat)]
      | none => []
    ((s.count .intTdcnt F.intTdcnt_MIS 1).raiseEv 0 4 0x8012
      (List.flatten [[(4, s.svcStep), (1, b2n fine.isSome)], tag, [(8, a.toNat), (8, b.toNat)]])).localise fine

/-- A comparison group ends at each commit (R341): FINE is set, or the first rerun of a mismatch runs with it set (R342). -/
def State.fineGroups (s : State) : Bool := s.flag .intTdctl F.intTdctl_FINE || s.int.rerun == 1

/-- A participant commits (R175): NaNs are counted, slots dumped, the bracket closes and cleat CL advances. -/
def State.commitNow (s : State) (x : CtxId) (b : Bracket) (cl : Cleat) (sig : Bool) : State :=
  let i := { s.ins x 0x9D 1 b.op.tag with raise := b.raise }
  let s := (s.count (.fncnt x.core x.n) F.fncnt_COUNT b.nans).tally fun c => { c with nans := c.nans + b.nans }
  let s := forAll b.wrote.eraseDups s fun s w =>
    let l := s.lateWatchers w.ins 3
    if s.slotEmpty x.core w.slot || l == [] then s else s.dump l 3 w.ins s.lmn w.out (s.slotDump x.core w.slot)
  let s := (s.noteRaise x b.op.tag b.raise).setBracket x none
  let s := (s.trace 4 i ((s.time - b.begun) % 2 ^ 32)).advance i
  let s := if sig then s.addCleat x.core cl 1 else s
  let s := s.closeColls b.op
  if s.tandem && s.fineGroups then s.endGroup (some b.op.tag) false else s

/-- An instruction of a bracket beside its collectives has not completed: its tile runs, a transfer or a fill of it does, a signal of it
is held, or an access of its context is unanswered (R175). Streams go on. -/
def State.bracketBusy (s : State) (x : CtxId) (serial : Nat) : Bool :=
  (s.ctx x).run.isSome || (s.core.bg.any fun g => g.x == x && g.bracket == some serial && !g.kind.isStream) ||
  (s.core.signals.any fun h => h.x == x && h.bracket == some serial) ||
  s.fab.reqs.any fun r => r.x == x && (r.kind.isScalar || r.kind == .fused)

/-- Try to commit: a sealed attempt writes its final sums, and commits once everything of it is complete. -/
def State.tryCommit (s : State) (x : CtxId) : State :=
  match (s.ctx x).bracket with
  | none => s
  | some b => match b.ended with
    | none => s
    | some (cl, sig) =>
      if (s.ctx x).wait ≠ some .opEnd ∨ s.ctxState x ≠ 2 ∨ b.aborted = true ∨ b.sealed = false ∨ s.opSealed b.op = false then s
      else
        let d := (s.descFor (s.opGen b.op) b.op.ph).getD
          { axes := 0, sdim := false, slotok := false, jts1 := false, nshare := 1, epoch := 0, prio := 0, nexp := 0, gbase := 0,
            gsize := 0, shares := [], dhash := 0 }
        let l := s.openParts x b.serial
        match l.findSome? fun q => (s.commitTrap d q).map fun a => (q.2.ins, a) with
        | some (i, a) =>
          let pc := s.pc x
          (s.nanTrap i a).setPc x pc
        | none =>
          let s := s.writeParts d l
          if s.openParts x b.serial ≠ [] ∨ s.bracketBusy x b.serial = true then s
          else match (s.ctx x).bracket with
            | some b => s.commitNow x b cl sig
            | none => s

/-- ATTEMPT_COMMIT (R175). -/
def execAttemptCommit (x : CtxId) (s : State) : Host.Outcome State Fault Refusal := runs s fun s => s.tryCommit x

/-! ## Notices -/

/-- The operation that a SEAL, REPLAY or ABORT notice names. -/
def Packet.op (k : Packet) : OpId := ⟨k.optag, BitVec.ofNat 8 (k.spec 170 8), BitVec.ofNat 32 (k.spec 194 32), k.ph, none⟩

/-- Take a notice of a kind. -/
def State.onNotice (s : State) (kind : Nat) (f : Option SpokeId → Packet → State → State) : State :=
  match s.takePacket fun k => k.typ == 0x09 && k.kind == kind with
  | none => s
  | some (s, frm, k) => f frm k s

/-- NOTICE_JOIN (R301): compared with this member's signature, or held until it joins. -/
def execNoticeJoin (s : State) : Host.Outcome State Fault Refusal :=
  runs s fun s => s.onNotice noticeJoin fun frm k s => s.accept frm k fun d s =>
    let c := (s.coll k.ph k.seq k.epoch).getD (Coll.heard k.ph k.seq k.epoch)
    let c := if c.closed then Coll.heard k.ph k.seq k.epoch else c
    let j : Join := ⟨k.src, k.spec 168 64, k.addr.testBit 42⟩
    let c := { c with joins := (c.joins.filter fun q => q.lmn != k.src) ++ [j] }
    (s.setColl c).tryJoin d c

/-- NOTICE_GO (R301): this module holds GO, and the collective's packets leave. -/
def execNoticeGo (s : State) : Host.Outcome State Fault Refusal :=
  runs s fun s => s.onNotice noticeGo fun frm k s => s.accept frm k fun d s => match s.coll k.ph k.seq k.epoch with
    | some c => if c.joined && !c.closed then s.holdGo d c (BitVec.ofNat 64 (k.spec 168 64)) else s
    | none => s

/-- Note the highest SEALED of a member (R310). -/
def Attempt.noteSeal (a : Attempt) (q : SealOf) : Attempt :=
  { a with seals := match a.seals.find? fun r => r.lmn == q.lmn with
      | none => a.seals ++ [q]
      | some r => if r.sealed < q.sealed then (a.seals.filter fun t => t.lmn != q.lmn) ++ [q] else a.seals }

/-- NOTICE_SEAL (R310): of the attempt that this module runs, or of the one it has yet to begin. -/
def execNoticeSeal (s : State) : Host.Outcome State Fault Refusal :=
  runs s fun s => s.onNotice noticeSeal fun frm k s =>
    if (s.pelotonFor k.gtag k.ph).isNone then s.discard (frm.getD 0) .foreign k
    else
      let a := s.attempt k.op
      let n := k.spec 168 2
      let q : SealOf := ⟨k.src, k.spec 178 8, k.spec 186 8⟩
      if a.cause.isSome then s
      else if n = a.raise then (s.setAttempt (a.noteSeal q)).refreshSealed k.op
      else if a.raise < n ∧ s.participants k.op = [] then s.setAttempt (Attempt.noteSeal (Attempt.new k.op n) q)
      else s

/-- NOTICE_REPLAY (R39, R40, R42): this member stops the attempt and starts again, or the fallback applies. -/
def execNoticeReplay (s : State) : Host.Outcome State Fault Refusal :=
  runs s fun s => s.onNotice noticeReplay fun frm k s =>
    if (s.pelotonFor k.gtag k.ph).isNone then s.discard (frm.getD 0) .foreign k else s.overflowed k.op (k.spec 168 2)

/-- NOTICE_ABORT (R312): participants that do not hold the attempt sealed abandon it. -/
def execNoticeAbort (s : State) : Host.Outcome State Fault Refusal :=
  runs s fun s => s.onNotice noticeAbort fun frm k s =>
    if (s.pelotonFor k.gtag k.ph).isNone then s.discard (frm.getD 0) .foreign k else s.abortOp k.op (k.spec 226 8)

/-- JOIN until GO, and GO from the root until commit (R310): the collective and its notice. -/
def State.collNotices (s : State) : List (Coll × Packet) :=
  s.plt.colls.filterMap fun c => match s.peloton c.ph with
    | some p =>
      if c.closed || !c.up then none
      else if s.lmn = p.desc.root then
        (if c.go && decide (p.desc.members.length ≠ 1) then some (c, { s.notice c.ph c noticeGo false c.needmap.toNat with mc := true }) else none)
      else if c.go then none
      else some (c, s.notice (s.parent c.gen p.desc s.lmn p.desc.root) c noticeJoin (c.need || c.joins.any fun j => j.need) c.sig)
    | none => none

/-- The operations under a peloton handle with a bracket here. -/
def State.openOpIds (s : State) : List OpId :=
  ((s.core.ctxs.filterMap fun (q : CtxId × Ctx) => q.2.bracket.map Bracket.op).filter fun op =>
    op.ph != 0 && s.others op.ph != []).eraseDups

/-- A notice of an operation as this module repeats it. -/
def State.opNotice (s : State) (op : OpId) (kind raise sealed nloc cause : Nat) : Packet :=
  { s.packet 0x09 1 op.ph (collKey op.ph 0 (((s.peloton op.ph).map fun p => p.desc.epoch).getD 0) kind false) [] with
    mc := true, optag := op.tag, gtag := s.opGen op, fctx := hubFctx, tspec := attemptSpec op raise sealed nloc cause }

/-- SEAL until commit, and REPLAY and ABORT while another member may run the attempt they end (R310, log entry 81): a REPLAY until the
next attempt is sealed here, an ABORT while an aborted bracket is left here. -/
def State.opNotices (s : State) : List (OpId × Packet) :=
  s.openOpIds.flatMap fun op =>
    let a := s.attempt op
    let o := s.ownSeal op
    let mine : List (OpId × Packet) := match a.mine with
      | some (kind, v) =>
        if kind = noticeAbort then [(op, s.opNotice op noticeAbort a.raise 0 0 v)]
        else if s.opSealed op || a.cause.isSome then [] else [(op, s.opNotice op noticeReplay v 0 0 0)]
      | none => []
    (if o.1 = 0 then [] else [(op, s.opNotice op noticeSeal a.raise o.1 o.2 0)]) ++ mine

/-- The notices that this module repeats (R310), each with the time of the last one and the note of a new one. -/
def State.notices (s : State) : List (Packet × Nat × (State → State)) :=
  (s.collNotices.map fun q => (q.2, q.1.noted, fun t => t.modColl q.1 fun b => { b with noted := t.time })) ++
  (s.opNotices.map fun q => (q.2, (s.attempt q.1).noted, fun t => t.noteSent q.1))

/-- NOTICE_REPEAT (R310): the `nth` notice whose event has not come is sent again, 50 µs after the last time. -/
def execNoticeRepeat (nth : Nat) (s : State) : Host.Outcome State Fault Refusal :=
  runs s fun s => match s.notices[nth]? with
    | some q => if s.time < q.2.1 + 5000 then s else q.2.2 (s.send q.1)
    | none => s

/-! ## Timeouts (R313) -/

/-- Shares whose contributions or seals have not come. -/
def State.missingShares (s : State) (d : PltDesc) (c : Coll) : Nat :=
  let silent := d.members.filter fun m => m != s.lmn &&
    (if c.go then !((s.attempt c.op).seals.any fun q => q.lmn == m && q.sealed == q.nloc)
     else decide (m ∈ s.children c.gen d s.lmn) && !(c.joins.any fun j => j.lmn == m))
  ((silent.map d.held).foldl (· ||| ·) 0).toNat

/-- Event 0x08:0x0012. -/
def State.collTimeout (s : State) (d : PltDesc) (c : Coll) : State :=
  s.raiseEv 0 8 0x12 [(2, c.ph), (2, c.seq), (2, c.op.tag.toNat), (8, s.missingShares d c), (1, b2n (s.opSealed c.op))]

/-- JOIN_TIMEOUT (R313, cause 3): a member still waits for GO JTMO after its JOIN. -/
def execJoinTimeout (ph : BitVec 14) (seq : BitVec 16) (s : State) : Host.Outcome State Fault Refusal :=
  runs s fun s => match s.descFor s.gtag ph.toNat with
    | none => s
    | some d => match s.coll ph.toNat seq.toNat d.epoch with
      | none => s
      | some c =>
        if c.joined && !c.go && !c.closed && decide (c.begun + 100 * s.fld .hubPltctl F.hubPltctl_JTMO ≤ s.time) then
          (s.collTimeout d c).abortColl c 3
        else s

/-- COMPLETION_TIMEOUT (R313, cause 4): a seal or chunk is missing CTMO after GO. -/
def execCompletionTimeout (ph : BitVec 14) (seq : BitVec 16) (s : State) : Host.Outcome State Fault Refusal :=
  runs s fun s => match s.descFor s.gtag ph.toNat with
    | none => s
    | some d => match s.coll ph.toNat seq.toNat d.epoch with
      | none => s
      | some c =>
        if c.go && !c.closed && decide (c.goAt + 100 * s.fld .hubPltctl F.hubPltctl_CTMO ≤ s.time) then
          let t := s.collTimeout d c
          if s.opSealed c.op then t else t.abortColl c 4
        else s

end Sys2Proof.Machine
end

