-- ==== Sys2Proof/Machine/Halts.lean ====
section
/-!
DEFINITION. How a context halts and is reset (R145, R159, R177), at once or when what has started is over.
-/

namespace Sys2Proof.Machine

/-- A stream that has come so far: it ends when nothing of it is left. -/
def State.setStream (s : State) (g : Bg) (t : Stream) : State :=
  if t.completed = t.n ∨ (t.stopped = true ∧ t.started = t.completed) then s.endBg g.id
  else s.modBg g.id fun h => { h with kind := .stream t }

/-- Stop streams of a context that satisfy a test: transfers in flight complete and no more start (R145). -/
def State.stopStreams (s : State) (x : CtxId) (p : Bg → Bool) : State :=
  forAll (s.core.bg.filter fun g => g.x == x && p g) s fun s g => match g.kind with
    | .stream t => s.setStream g { t with stopped := true }
    | _ => s

/-- A context is at an instruction boundary: no response holds the instruction it issued. -/
def State.atBoundary (s : State) (x : CtxId) : Bool :=
  match (s.ctx x).wait with
  | some (.reply _) => false
  | _ => true

/-- A context halts: its streams stop, and the instruction it waits in executes again when it resumes. -/
def State.haltNow (s : State) (x : CtxId) : State :=
  let s := s.stopStreams x fun _ => true
  (s.setCtx x { s.ctx x with wait := none, owed := 0, why := 0 }).setCtxState x 4

/-- HALT (R159, R145): at the next instruction boundary; of a context that has been handed over, once the Hub returns it. -/
def State.haltCtx (s : State) (x : CtxId) : State :=
  if s.isMoved x = true ∨ s.atBoundary x = false then s.setCtx x { s.ctx x with owed := 3 } else s.haltNow x

/-- What a unit has accepted and not started is discarded (R159): the fills of a pump.cache and the reads of a gather start when they end
(log entry 76). -/
def State.dropUnstarted (s : State) (x : CtxId) : State :=
  { s with core := { s.core with bg := s.core.bg.filter fun g => !(g.x == x && match g.kind with
      | .cache _ _ => true
      | .gather _ _ _ _ => true
      | _ => false) } }

/-- The open bracket of a context that is reset is aborted at every participant (R177). -/
def State.abortOpen (s : State) (x : CtxId) : State :=
  match (s.ctx x).bracket with
  | none => s
  | some b =>
    let s := if b.aborted then s
      else ((s.abortAll b.op 5).abortCtx x).raiseEv 0 8 0x13 [(2, b.op.ph), (2, b.op.tag.toNat), (2, x.core.val), (1, x.n.val)]
    s.setBracket x none

/-- Nothing that a context has started runs any more: no tile, no access that waits for its response, no transfer. -/
def State.settled (s : State) (x : CtxId) : Bool :=
  s.atBoundary x && (s.ctx x).run.isNone && !(s.core.bg.any fun g => g.x == x)

/-- RESET ends (R159): the context is idle and unloaded. -/
def State.resetNow (s : State) (x : CtxId) : State :=
  let s := { s with core := { s.core with faults := s.core.faults.filter fun f => f.x != x } }
  let s := s.setCtx x { s.ctx x with wait := none, run := none, table := [], owed := 0 }
  (s.setFld (.ctxCfg x.core x.n) F.ctxCfg_LOADED 0).setCtxState x 0

/-- RESET (R159): its streams stop, its open bracket is aborted, what has not started is discarded, and what has started completes first. Of a
context that has been handed over, it acts once the Hub returns it. -/
def State.resetCtx (s : State) (x : CtxId) : State :=
  if s.isMoved x then s.setCtx x { s.ctx x with owed := 6 }
  else
    let s := ((s.stopStreams x fun _ => true).dropUnstarted x).abortOpen x
    if s.settled x then s.resetNow x else s.setCtx x { s.ctx x with owed := 6 }

/-- RESET of a context by the Hub's own work (a cluster restart, a rewind, the end of a plan): it ends at once, and a transfer that has
started still completes (DESIGN CHOICE, log entry 76). -/
def State.resetHard (s : State) (x : CtxId) : State :=
  (((s.stopStreams x fun _ => true).dropUnstarted x).abortOpen x).resetNow x

/-- A HALT or RESET that could not act acts now, if it can (R159). -/
def State.payOwed (s : State) (x : CtxId) : State :=
  let o := (s.ctx x).owed
  if o = 3 then s.haltCtx x else if o = 6 then s.resetCtx x else s

end Sys2Proof.Machine
end

