-- ==== Sys2Proof/Machine/Pump.lean ====
section
/-!
DEFINITION. The descriptor instructions that touch no memory (R141, R142), the Pump's background work (R143-R146, R250,
R251), the Sprocket path's gather (R254, R255), and faults found in the background (R138, R146).
-/

namespace Sys2Proof.Machine

/-! ## tget, tput, tadv -/

/-- tget s[SA], tS, W (R141). -/
def execTget (a : At) (sa : R5) (ts : T4) (w : Fin 8) (tag : OpTag) (s : State) : Host.Outcome State Fault Refusal :=
  execIns a 0x62 1 tag false (fun i s => (s.setSreg i.x sa ((s.tile i.x ts).word w)).advance i) s

/-- tput tD, W, s[SA] (R141). -/
def execTput (a : At) (td : T4) (w : Fin 8) (sa : R5) (tag : OpTag) (s : State) : Host.Outcome State Fault Refusal :=
  execIns a 0x63 1 tag false (fun i s => (s.setTile i.x td ((s.tile i.x td).setWord w (s.sreg i.x sa))).advance i) s

/-- tadv tD, s[SA], DIR (R142, R144): an advance that breaks a condition of the table is an operand fault. -/
def execTadv (a : At) (td : T4) (sa : R5) (dir : Bool) (tag : OpTag) (s : State) : Host.Outcome State Fault Refusal :=
  execIns a 0x64 1 tag false (fun i s => match (s.tile i.x td).advance (s.sreg i.x sa).toInt dir true with
    | some d => (s.setTile i.x td d).advance i
    | none => s.fault i (.operand 0 td)) s

/-! ## tcopy -/

/-- The operand fault of naming cleats outside a context's range (R198). -/
def State.cleatFaults (s : State) (x : CtxId) (cl len : Nat) : List Flt :=
  if s.cleatOk x cl len then [] else [Flt.operand 0 0]

/-- Issue a tcopy (R143): faults of its descriptors are precise, those of its transfer are found in the background. -/
def State.tcopy (s : State) (i : Ins) (td ts : T4) (cl : Cleat) : State :=
  let d := s.tile i.x td
  let t := s.tile i.x ts
  match firstFault (s.agreeFaults d t td ts ++ s.cleatFaults i.x cl.val 1) with
  | some f => s.fault i f
  | none =>
    match s.pumpFree i.x.core, s.takeFctx i.x.core (s.isFar d t) with
    | true, some fc =>
      let (s, g) := s.addBg i (.tcopy d t) td ts cl fc
      match s.startMove g 0 d t with
      | (s, some f) => (s.bgFault g f).advance i
      | (s, none) => s.advance i
    | _, _ => s.stall i

/-- tcopy tD, tS, CL (R143). -/
def execTcopy (a : At) (td ts : T4) (cl : Cleat) (tag : OpTag) (s : State) : Host.Outcome State Fault Refusal :=
  execIns a 0x65 1 tag false (fun i s => s.tcopy i td ts cl) s

/-- TCOPY_COMPLETE (R143): the `nth` tcopy of a context has finished, and adds 1 to its cleat. -/
def execTcopyComplete (x : CtxId) (nth : Nat) (s : State) : Host.Outcome State Fault Refusal :=
  runs s fun s => State.payOwed (match s.nthBg x nth BgKind.isCopy with
    | none => s
    | some g => match g.kind with
      | .tcopy d t => match s.finishMove g 0 d t with
        | .waits s => s
        | .faulted s f => s.bgFault g f
        | .finished s => (s.endBg g.id).bgCleat g
      | _ => s) x

/-! ## pump.stream -/

/-- The windows of transfer `i` of a stream (R143); none where an offset leaves its field. -/
def Stream.windows (t : Stream) (i : Nat) : Option (Desc × Desc) :=
  match t.ts.advance (i * (if t.dir then t.ts.cols else t.ts.rows) : Nat) t.dir true,
      t.td.advance (i * (if t.dir then t.td.cols else t.td.rows) : Nat) t.dir true with
  | some src, some dst =>
    let o : Word := BitVec.ofNat 64 (i % (t.depth + 1)) * t.sb
    some ({ dst with d0 := t.td.d0 + o, d1 := t.td.d1 + o }, src)
  | _, _ => none

/-- Issue a pump.stream (R143): CL must be even, and N at most 2^32 − 1. -/
def State.pumpStream (s : State) (i : Ins) (td ts : T4) (sa sb : R5) (dir : Bool) (depth : Nat) (cl : Cleat) : State :=
  let d := s.tile i.x td
  let t := s.tile i.x ts
  let n := (s.sreg i.x sa).toNat
  match firstFault (s.agreeFaults d t td ts ++ s.cleatFaults i.x cl.val 2 ++
      (if 2 ^ 32 ≤ n then [Flt.operand 0 0] else [])) with
  | some f => s.fault i f
  | none =>
    if n = 0 then s.advance i
    else match s.pumpFree i.x.core, s.takeFctx i.x.core (s.isFar d t) with
    | true, some fc =>
      let k : Stream := { td := d, ts := t, n := n, sb := s.sreg i.x sb, dir := dir, depth := depth,
                          d0 := s.cleat i.x.core (Fin.ofNat _ (cl.val + 1)), started := 0, completed := 0, stopped := false }
      (s.addBg i (.stream k) td ts cl fc).1.advance i
    | _, _ => s.stall i

/-- pump.stream tD, tS, s[SA], s[SB], DIR, DEPTH, CL (R143). -/
def execPumpStream (a : At) (td ts : T4) (sa sb : R5) (dir : Bool) (depth : Fin 16) (cl : Cleat) (tag : OpTag) (s : State) :
    Host.Outcome State Fault Refusal :=
  execIns a 0x66 1 tag (cl.val % 2 == 1) (fun i s => s.pumpStream i td ts sa sb dir depth.val cl) s

/-- The credit of transfer i: cleat[CL + 1] − d0 ≥ i − DEPTH (R143). -/
def State.hasCredit (s : State) (g : Bg) (t : Stream) : Bool :=
  waitHolds (s.cleat g.x.core (Fin.ofNat _ (g.cl.val + 1))) t.d0 (BitVec.ofInt 64 ((t.started : Int) - t.depth))

/-- The next transfer of a stream fails as it starts: the stream stops, and earlier transfers complete (R146). -/
def State.failStart (s : State) (g : Bg) (t : Stream) (f : Flt) : State :=
  if f.code = 15 then s else (s.noteBgFault g f).setStream g { t with stopped := true }

/-- PUMP_TRANSFER_START (R143): the `nth` stream of a context starts its next transfer, once its credit shows a free
buffer. -/
def execPumpTransferStart (x : CtxId) (nth : Nat) (s : State) : Host.Outcome State Fault Refusal :=
  runs s fun s => State.payOwed (match s.nthBg x nth BgKind.isStream with
    | none => s
    | some g => match g.kind with
      | .stream t =>
        if t.stopped ∨ t.n ≤ t.started ∨ s.hasCredit g t = false then s
        else match t.windows t.started with
          | none => s.failStart g t (.operand 0 g.tsn)
          | some (d, u) => match s.startMove g t.started d u with
            | (s, some f) => s.failStart g t f
            | (s, none) => s.setStream g { t with started := t.started + 1 }
      | _ => s) x

/-- PUMP_TRANSFER_COMPLETE (R143): the oldest transfer in flight of a stream completes and adds 1 to cleat CL. -/
def execPumpTransferComplete (x : CtxId) (nth : Nat) (s : State) : Host.Outcome State Fault Refusal :=
  runs s fun s => State.payOwed (match s.nthBg x nth BgKind.isStream with
    | none => s
    | some g => match g.kind with
      | .stream t =>
        if t.started ≤ t.completed then s
        else match t.windows t.completed with
          | none => s.bgFault g (.operand 0 g.tsn)
          | some (d, u) => match s.finishMove g t.completed d u with
            | .waits s => s
            | .faulted s f => s.bgFault g f
            | .finished s =>
              let g := ((s.core.bg.find? fun h => h.id == g.id).getD g)
              (s.setStream g { t with completed := t.completed + 1 }).bgCleat g
      | _ => s) x

/-- pump.stop CL (R145). -/
def execPumpStop (a : At) (cl : Cleat) (tag : OpTag) (s : State) : Host.Outcome State Fault Refusal :=
  execIns a 0x67 1 tag false (fun i s => match firstFault (s.cleatFaults i.x cl.val 1) with
    | some f => s.fault i f
    | none => (s.stopStreams i.x fun g => g.cl == cl).advance i) s

/-! ## pump.cache -/

/-- The addresses of the planes of a window, as global address, offset and length. -/
def Desc.planeRanges (d : Desc) : List (Word × Nat × Nat) :=
  (d.parts (d.clip d.whole) true).map fun q => (d.plane q.1, q.2)

/-- pump.cache tS, CL (R250): issue. -/
def execPumpCache (a : At) (ts : T4) (cl : Cleat) (tag : OpTag) (s : State) : Host.Outcome State Fault Refusal :=
  execIns a 0x68 1 tag false (fun i s =>
    let t := s.tile i.x ts
    match firstFault (s.descFaults t ts true false false ++ s.cleatFaults i.x cl.val 1) with
    | some f => s.fault i f
    | none => if s.pumpFree i.x.core = false then s.stall i else (s.addBg i (.cache t []) ts ts cl noFctx).1.advance i) s

/-- Is this background work a pump.cache? -/
def BgKind.isCache : BgKind → Bool
  | .cache _ _ => true
  | _ => false

/-- The fault of the window of a pump.cache: at another module or in the control window it is an address fault (R250). -/
def State.cacheFaults (s : State) (x : CtxId) (t : Desc) (ts : T4) : List Flt :=
  let l := t.parts (t.clip t.whole) true
  lowestFirst (l.filterMap fun q =>
    if 0 < q.2.2 ∧ 2 ^ 62 ≤ (t.plane q.1).toNat then
      some (t.elemAt q.1 q.2.1, (Flt.addr ((t.plane q.1).toNat + q.2.1)).of ts)
    else none) ++ s.windowFault x t ts l false

/-- A fetched line of a pump.cache ends (R251): installed, unless a write overtook its fill and the one after it. -/
def State.endFill (s : State) (k : Fin 16) (beaten : List Nat) (a : Nat) : State :=
  if 2 ≤ (beaten.filter fun b => b == a).length then s.count (.cluCcmiss k) F.cluCcmiss_COUNT 1 else s.install k a

/-- PUMP_CACHE_COMPLETE (R250, R251): the fills of the `nth` pump.cache of a context end, each of a whole line, and again of a line
whose fill a write overtook; its cleat advances. -/
def execPumpCacheComplete (x : CtxId) (nth : Nat) (s : State) : Host.Outcome State Fault Refusal :=
  runs s fun s => State.payOwed (match s.nthBg x nth BgKind.isCache with
    | none => s
    | some g => match g.kind with
      | .cache t beaten =>
        let k := clusterOf x.core
        match firstFault (s.cacheFaults x t g.tsn) with
        | some f => s.bgFault g f
        | none =>
          let lines := linesOf (t.planeRanges.map fun q => (lowAddr q.1 + q.2.1, q.2.2))
          let fills := lines.filter (ownDram k)
          match s.readRanges .pump ((fills ++ fills.filter beaten.contains).map fun a => (a, 128)) with
          | (s, some p) => s.bgFault g ((s.dataFault [(t, g.tsn, t.clip t.whole)] p).of g.tsn)
          | (s, none) => ((forAll lines s fun s a => s.endFill k beaten a).endBg g.id).bgCleat g
      | _ => s) x

/-! ## sprk.gather -/

/-- Is this background work a gather? -/
def BgKind.isGather : BgKind → Bool
  | .gather _ _ _ _ => true
  | _ => false

/-- The operand faults of a gather (R255). -/
def gatherBad (d t : Desc) : List Flt :=
  let n := fmtBytes d.fmt d.cols
  if d.fmt ≠ t.fmt ∨ d.smode ≠ t.smode ∨ d.cols ≠ t.cols ∨ (d.smode ≠ 0 ∧ d.smode ≠ 2) ∨ n % 32 ≠ 0 ∨ 4096 < n
  then [Flt.operand 0 0] else []

/-- sprk.gather tD, tS, s[SA], CL with ZPAD (R254, R255): issue. -/
def execSprkGather (a : At) (td ts : T4) (sa : R5) (cl : Cleat) (zpad : Bool) (tag : OpTag) (s : State) :
    Host.Outcome State Fault Refusal :=
  execIns a 0x69 1 tag false (fun i s =>
    let d := s.tile i.x td
    let t := s.tile i.x ts
    let idx := s.sreg i.x sa
    let faults := s.descFaults d td true false false ++ s.descFaults t ts true false false ++ gatherBad d t ++
      s.cleatFaults i.x cl.val 1 ++ (if idx.toNat % 4 ≠ 0 then [Flt.align idx.toNat] else [])
    match firstFault faults with
    | some f => s.fault i f
    | none => (s.addBg i (.gather d t idx.toNat zpad) td ts cl noFctx).1.advance i) s

/-- The source row of row `r` of a gather: none for a row of zeros. -/
def State.gatherRow (s : State) (t : Desc) (idx : Nat) (r : Nat) : Option Nat :=
  let v := ofBytes (s.bytes (idx + 4 * r) 4)
  if v < t.rowoff ∨ t.lrows ≤ v then none else some (v - t.rowoff)

/-- Whether an index of a gather is outside the table and no padding (R255). -/
def State.gatherOut (s : State) (t : Desc) (idx : Nat) (zpad : Bool) (r : Nat) : Bool :=
  let v := ofBytes (s.bytes (idx + 4 * r) 4)
  !(zpad && v == 0xFFFFFFFF) && decide (v < t.rowoff ∨ t.rowoff + t.rows ≤ v)

/-- The addresses of a gather (R254): its destination lies in the core's Cassette, its table in DRAM, its indices in local
memory. -/
def State.gatherFaults (s : State) (g : Bg) (d t : Desc) (idx : Nat) : List Flt :=
  let l := t.parts (t.clip t.whole) true
  d.cassetteFaults g.x.core g.tdn (d.clip d.whole) true ++
  lowestFirst (l.filterMap fun q =>
    if 0 < q.2.2 ∧ 0x020000000000 ≤ (t.plane q.1).toNat + q.2.1 then
      some (t.elemAt q.1 q.2.1, (Flt.addr ((t.plane q.1).toNat + q.2.1)).of g.tsn)
    else none) ++ s.windowFault g.x t g.tsn l false ++
  (s.rangeFault g.x (BitVec.ofNat 64 idx) 0 (4 * (d.clip d.whole).r1) false).toList ++
  (if 2 ^ 48 ≤ idx then [Flt.addr idx] else [])

/-- The bytes that a gather reads from its table, row by row. -/
def gatherReads (d t : Desc) (row : Nat → Option Nat) : List (Nat × Nat) :=
  let w := d.clip d.whole
  let c1 := (needed d t).c1
  ((List.range w.r1).filterMap row).flatMap fun r =>
    let v : Span := ⟨r, r + 1, 0, c1⟩
    (t.elemOffs v).map (fun q => (lowAddr t.d0 + q.1, q.2)) ++ (t.auxOffs v).map fun q => (lowAddr t.d1 + q.1, q.2)

/-- SPRK_GATHER_COMPLETE (R255): every row of the `nth` gather of a context is written, and its cleat advances. -/
def execSprkGatherComplete (x : CtxId) (nth : Nat) (s : State) : Host.Outcome State Fault Refusal :=
  runs s fun s => State.payOwed (match s.nthBg x nth BgKind.isGather with
    | none => s
    | some g => match g.kind with
      | .gather d t idx zpad =>
        let rows := List.range (d.clip d.whole).r1
        match firstFault (s.gatherFaults g d t idx) with
        | some f => s.bgFault g f
        | none => match (s.sprocketReads (clusterOf x.core) [(idx, 4 * rows.length)]).readRange .sprocket idx (4 * rows.length) with
          | (s, some p) => s.bgFault g (.data p)
          | (s, none) =>
            if rows.any (s.gatherOut t idx zpad) then s.bgFault g (.operand 0 g.tsn)
            else
              let row := s.gatherRow t idx
              let reads := gatherReads d t row
              match (s.sprocketReads (clusterOf x.core) reads).readRanges .sprocket reads with
              | (s, some p) => s.bgFault g ((Flt.data p).of g.tsn)
              | (s, none) =>
                let plan := movePlan d t row fun p o => (s.byte (lowAddr (t.plane p) + o)).toNat
                ((s.applyMove g 0 .sprocket d plan).endBg g.id).bgCleat g
      | _ => s) x

/-! ## Faults found after issue (R138, R146) -/

/-- The oldest fault of a context found after issue halts it at its next instruction boundary, with ASYNC set. A context that
does not run or wait only records it. -/
def State.takeAsync (s : State) (x : CtxId) (store : Bool) : State :=
  if s.atBoundary x = false then s
  else match s.core.faults.findIdx? fun f => f.x == x && f.store == store with
    | none => s
    | some k => match s.core.faults[k]? with
      | none => s
      | some a =>
        let s := { s with core := { s.core with faults := s.core.faults.eraseIdx k } }
        let f : Flt := ⟨a.code % 16, a.code / 16, a.value.toNat, a.treg⟩
        if s.ctxState x ∈ [1, 2, 3, 5] then s.haltFault x f a.op a.tag a.layer a.mbatch a.iaddr true
        else
          let s := s.faultRecord x f a.op a.tag a.layer a.mbatch a.iaddr true
          s.raiseEv (dieOf x.core) 4 0x40 (s.faultItems x)

/-- STORE_TARGET_FAULT (R138). -/
def execStoreTargetFault (x : CtxId) (s : State) : Host.Outcome State Fault Refusal := runs s fun s => s.takeAsync x true

/-- BACKGROUND_TRANSFER_FAULT (R146). -/
def execBackgroundTransferFault (x : CtxId) (s : State) : Host.Outcome State Fault Refusal :=
  runs s fun s => s.takeAsync x false

end Sys2Proof.Machine
end

