-- ==== Sys2Proof/Machine/Flow.lean ====
section
/-!
DEFINITION. Control flow and fences (R139, R140), and the context commands (R149-R151, R159, R203).
-/

namespace Sys2Proof.Machine

/-! ## Branches -/

/-- OFF words after an address, modulo 2^64 (R139). -/
def branchTo (a : Word) (imm : Imm) : Nat := (a + 8 * imm.signExtend 64).toNat

/-- Take a branch (R140): a target that is no multiple of 8, or lies outside every EXEC window, faults at the branch. `link`
is what the branch writes. -/
def State.branch (s : State) (i : Ins) (target : Nat) (link : State → State) : State :=
  if target % 8 ≠ 0 then s.fault i (.align target)
  else if s.execWindow i.x.core target = false then s.fault i (.addr target)
  else (((link s).setPc i.x target).setCtxState i.x 1).setWait i.x none

/-- br (R139). -/
def execBr (a : At) (imm : Imm) (s : State) : Host.Outcome State Fault Refusal :=
  execIns a 0x40 1 0 false (fun i s => s.branch i (branchTo (BitVec.ofNat 64 i.iaddr) imm) id) s

/-- call (R139). -/
def execCall (a : At) (rd : R5) (imm : Imm) (s : State) : Host.Outcome State Fault Refusal :=
  execIns a 0x41 1 0 false (fun i s => s.branch i (branchTo (BitVec.ofNat 64 i.iaddr) imm) fun s =>
    s.setSreg i.x rd (BitVec.ofNat 64 (i.iaddr + 8))) s

/-- jr (R139). -/
def execJr (a : At) (ra : R5) (imm : Imm) (s : State) : Host.Outcome State Fault Refusal :=
  execIns a 0x42 1 0 false (fun i s => s.branch i (branchTo (s.sreg i.x ra) imm) id) s

/-- loop (R139): RA = 0 is illegal. -/
def execLoop (a : At) (ra : R5) (imm : Imm) (s : State) : Host.Outcome State Fault Refusal :=
  execIns a 0x43 1 0 (ra == 0) (fun i s =>
    let v := s.sreg i.x ra - 1
    if v = 0 then (s.setSreg i.x ra v).advance i
    else s.branch i (branchTo (BitVec.ofNat 64 i.iaddr) imm) fun s => s.setSreg i.x ra v) s

/-! ## halt, trap, fences -/

/-- The cleats of a context's range, with their values (R203). -/
def State.rangeCleats (s : State) (x : CtxId) : List (Cleat × Word) :=
  (List.range (s.fld (.clr x.core x.n) F.clr_COUNT)).map fun k =>
    let n : Cleat := Fin.ofNat _ (s.fld (.clr x.core x.n) F.clr_BASE + k)
    (n, s.cleat x.core n)

/-- Compare a task's cleats with their values at START (R203). -/
def State.compareCleats (s : State) (x : CtxId) : State :=
  match (s.ctx x).startCleats.find? fun q => s.cleat x.core q.1 != q.2 with
  | none => s
  | some q =>
    let r : Reg := .clstat x.core
    let s := s.setFld r (x.n.val, 1) 1
    let s := (s.setFld r F.clstat_FIRST q.1.val).setFld r F.clstat_CTX x.n.val
    s.raiseEv (dieOf x.core) 4 0x60 [(2, x.core.val), (1, x.n.val), (1, q.1.val), (8, q.2.toNat), (8, (s.cleat x.core q.1).toNat)]

/-- halt (R139, R203): waits for earlier work, stops the context's streams and waits for their transfers in flight; then the
program has ended. -/
def execHalt (a : At) (s : State) : Host.Outcome State Fault Refusal :=
  execIns a 0x44 1 0 false (fun i s =>
    if s.quietT i.x = false then s.stall i
    else
      let s := s.stopStreams i.x fun _ => true
      if s.core.bg.any fun g => g.x == i.x then s.stall i
      else
        let s := ((s.compareCleats i.x).advance i).setCtxState i.x 0
        if (s.ctx i.x).planned then s.tally fun c => { c with last := s.time } else s) s

/-- trap (R139): IMM, zero-extended, goes to CTXn_FLT2. -/
def execTrap (a : At) (imm : Imm) (s : State) : Host.Outcome State Fault Refusal :=
  execIns a 0x45 1 0 false (fun i s => s.fault i (.software imm.toNat)) s

/-- fence.m (R139). -/
def execFenceM (a : At) (s : State) : Host.Outcome State Fault Refusal :=
  execIns a 0x46 1 0 false (fun i s => if s.quietM i.x then s.advance i else s.stall i) s

/-- fence.t (R139). -/
def execFenceT (a : At) (s : State) : Host.Outcome State Fault Refusal :=
  execIns a 0x47 1 0 false (fun i s => if s.quietT i.x then s.advance i else s.stall i) s

/-! ## LOAD (R149-R151) -/

/-- The value of `n` bytes of memory. -/
def State.num (s : State) (a n : Nat) : Nat := ofBytes (s.bytes a n)

/-- The offset of the first field of a program header that breaks R149. -/
def State.badHeader (s : State) (h : Nat) : Option Nat :=
  let len := s.num (h + 12) 4
  if s.num h 4 ≠ 0x31534959 then some 0
  else if s.num (h + 4) 2 ≠ 1 then some 4
  else if s.num (h + 6) 2 ≠ 0 then some 6
  else if s.num (h + 8) 4 % 8 ≠ 0 then some 8
  else if len % 8 ≠ 0 ∨ len < 8 ∨ 2 ^ 28 < len then some 12
  else if s.num (h + 16) 4 % 8 ≠ 0 ∨ len ≤ s.num (h + 16) 4 then some 16
  else if s.num (h + 20) 4 % 32 ≠ 0 then some 20
  else if 65535 < s.num (h + 24) 4 then some 24
  else if s.num (h + 28) 4 ≠ 0 then some 28
  else if s.num (h + 40) 24 ≠ 0 then some 40
  else none

/-- An entry of an operation table (R150). -/
def State.tableEntry (s : State) (a : Nat) : OpEntry :=
  let w := s.num a 32
  { tag := BitVec.ofNat 16 w, amode := w / 2 ^ 16 % 4, rnd := w / 2 ^ 18 % 4, anchor := signed 12 (w / 2 ^ 32 % 2 ^ 12),
    tid := w / 2 ^ 64 % 2 ^ 24, k := w / 2 ^ 96 % 2 ^ 32, lrows := w / 2 ^ 128 % 2 ^ 32, lcols := w / 2 ^ 160 % 2 ^ 32 }

/-- Whether an entry breaks R150; `prev` is the op tag before it. -/
def State.badEntry (s : State) (a prev : Nat) : Bool :=
  let w := s.num a 32
  let e := s.tableEntry a
  decide (e.tag.toNat ≤ prev) || e.amode == 3 || w / 2 ^ 20 % 2 ^ 12 != 0 || w / 2 ^ 44 % 2 ^ 20 != 0 ||
  w / 2 ^ 88 % 2 ^ 8 != 0 || w / 2 ^ 192 != 0 || (e.amode != 2 && e.anchor != 0) || e.k == 0 || e.lrows == 0 || e.lcols == 0 ||
  decide (2 ^ 40 ≤ e.lrows * e.lcols)

/-- The first entry of a table that breaks R150: its address. -/
def State.badTable (s : State) (a n : Nat) : Option Nat :=
  ((List.range n).find? fun k => s.badEntry (a + 32 * k) (if k = 0 then 0 else s.num (a + 32 * (k - 1)) 2)).map
    fun k => a + 32 * k

/-- Whether an address lies in a window that allows a context to read it (R151, R154): a privilege-1 context is not limited. -/
def State.inWindow (s : State) (x : CtxId) (q : Nat) : Bool :=
  s.privOf x != .job || (!s.inPannier q && s.windowOk x.core q false)

/-- The first address of [a, a + n) that lies in no window that allows a context to read it. -/
def State.noRead (s : State) (x : CtxId) (a n : Nat) : Option Nat := (probes a n).find? fun q => !s.inWindow x q

/-- The first address of [a, a + n) that a context may not read so or that lies outside every EXEC window. -/
def State.noFetch (s : State) (x : CtxId) (a n : Nat) : Option Nat :=
  (probes a n).find? fun q => !s.inWindow x q || !s.execWindow x.core q

/-- An entry disagrees with the entry for its op tag in another loaded context of the same job (R151). -/
def State.disagrees (s : State) (x : CtxId) (job : Word) (e : OpEntry) : Bool :=
  s.core.ctxs.any fun p => p.1 != x && s.flag (.ctxCfg p.1.core p.1.n) F.ctxCfg_LOADED && p.2.job == job &&
    p.2.table.any fun q => q.tag == e.tag && q != e

/-- A refused LOAD: DETAIL, the op tag and address of its record, and the job. -/
structure LoadRefusal where
  detail : Nat
  tag : OpTag
  value : Nat
  job : Nat

/-- A LOAD is refused (R151): the context stays idle, and is unloaded. Where the header could not be read, JOB of the event is 0 (log entry
75). -/
def State.refuseLoad (s : State) (x : CtxId) (r : LoadRefusal) : State :=
  let s := (s.setCtx x { s.ctx x with table := [] }).setFld (.ctxCfg x.core x.n) F.ctxCfg_LOADED 0
  let image := s.fld (.ctxCfg x.core x.n) F.ctxCfg_IMAGE * 64
  let s := s.faultRecord x ⟨4, r.detail, r.value, 0⟩ 0 r.tag 0 0 image false
  s.raiseEv (dieOf x.core) 4 0x41 [(2, x.core.val), (1, x.n.val), (1, r.detail), (8, r.job)]

/-- Read [a, a + n) for LOAD: the address that cannot be read. -/
def State.loadRead (s : State) (x : CtxId) (a n : Nat) : State × Option Nat :=
  match (probes a n).find? fun q => !s.populated (s.privOf x) q with
  | some q => (s, some q)
  | none => s.readRange .core a n

/-- LOAD (R151, R126). Where the header was not read, JOB of the event is 0 (DESIGN CHOICE, log entry 75). -/
def State.load (s : State) (x : CtxId) : State :=
  let h := s.fld (.ctxCfg x.core x.n) F.ctxCfg_IMAGE * 64
  if s.flag (.coreCstat x.core) F.coreCstat_USABLE = false then s.refuseLoad x ⟨1, 0, 0, 0⟩
  else match s.loadRead x h 64 with
    | (s, some a) => s.refuseLoad x ⟨6, 0, a, 0⟩
    | (s, none) =>
      let job := s.num (h + 32) 8
      let tab := h + s.num (h + 20) 4
      let n := s.num (h + 24) 4
      let code := h + s.num (h + 8) 4
      let len := s.num (h + 12) 4
      match s.loadRead x tab (if n ≤ 65535 then 32 * n else 0) with
      | (s, some a) => s.refuseLoad x ⟨6, 0, a, job⟩
      | (s, none) => match s.badHeader h with
        | some o => s.refuseLoad x ⟨2, 0, h + o, job⟩
        | none => match s.badTable tab n with
          | some a => s.refuseLoad x ⟨2, (s.tableEntry a).tag, a, job⟩
          | none => match (s.noFetch x code len).or (s.noRead x tab (32 * n)) with
            | some a => s.refuseLoad x ⟨3, 0, a, job⟩
            | none =>
              let table := (List.range n).map fun k => s.tableEntry (tab + 32 * k)
              match table.findIdx? (s.disagrees x (BitVec.ofNat 64 job)) with
              | some k => s.refuseLoad x ⟨4, (s.tableEntry (tab + 32 * k)).tag, tab + 32 * k, job⟩
              | none =>
                let s := s.setCtx x { s.ctx x with sreg := [], pred := [], tile := [], layer := 0, mbatch := 0,
                                                   job := BitVec.ofNat 64 job, table := table, run := none }
                (s.setPc x (code + s.num (h + 16) 4)).setFld (.ctxCfg x.core x.n) F.ctxCfg_LOADED 1

/-! ## The other commands (R159) -/

/-- START (R159, R203): a loaded idle context runs from its PC; the values of its cleat range are recorded. -/
def State.start (s : State) (x : CtxId) : State :=
  let s := s.setCtx x { s.ctx x with startCleats := s.rangeCleats x, wait := none, owed := 0 }
  (s.startTile x).setCtxState x 1

/-- A halted context runs on; one whose attempt was aborted only waits in op.end (log entry 21). -/
def State.runOn (s : State) (x : CtxId) : State :=
  match (s.ctx x).bracket with
  | some b => if b.aborted then (s.setCtxState x 2).setWait x (some .opEnd) else s.setCtxState x 1
  | none => s.setCtxState x 1

/-- SKIP (R159): PC moves past the instruction at PC, two words for the opcodes 0xC0-0xDF (R134). -/
def State.skipCtx (s : State) (x : CtxId) : State :=
  let op := (s.byte (s.pc x)).toNat
  (s.setPc x (s.pc x + (if 0xC0 ≤ op ∧ op ≤ 0xDF then 16 else 8))).runOn x

/-- A wake cause for a cluster whose clock stands (R363, R366): its time, and whether it satisfied a wait. -/
def State.noteWake (s : State) (k : Fin 16) (wait : Bool) : State :=
  if (s.pstate k = 1 ∨ s.pstate k = 2) ∧ s.pow.wakeAt.has k = false then
    { s with pow := { s.pow with wakeAt := s.pow.wakeAt.set k (s.time, wait) } }
  else s

/-- A command to a context (R159): ignored in a state that does not allow it. -/
def State.command (s : State) (x : CtxId) (cmd : Nat) : State :=
  let s := if 1 ≤ cmd ∧ cmd ≤ 5 then s.noteWake (clusterOf x.core) false else s
  let st := s.ctxState x
  let loaded := s.flag (.ctxCfg x.core x.n) F.ctxCfg_LOADED
  if cmd = 1 then (if st = 0 then s.load x else s)
  else if cmd = 2 then
    (if s.privOf x = .job ∧ s.phase ≠ 3 then s.kickRefuse 0 x.core.val
     else if st = 0 ∧ loaded = true then s.start x else s)
  else if cmd = 3 then (if st = 1 ∨ st = 2 ∨ st = 3 ∨ st = 5 then s.haltCtx x else s)
  else if cmd = 4 then (if st = 4 then s.runOn x else s)
  else if cmd = 5 then (if st = 4 then s.skipCtx x else s)
  else if cmd = 6 then s.resetCtx x
  else s

/-- A command as a register write carries it: a write of CTXn_CMD from privilege 2 is ignored (R160). -/
def execCommand (p : Priv) (x : CtxId) (cmd : Nat) (s : State) : Host.Outcome State Fault Refusal :=
  runs s fun s => if p = .job then s else s.command x cmd

/-- CTX_LOAD (R151). -/
def execCtxLoad (p : Priv) (x : CtxId) (s : State) : Host.Outcome State Fault Refusal := execCommand p x 1 s

/-- CTX_START (R159). -/
def execCtxStart (p : Priv) (x : CtxId) (s : State) : Host.Outcome State Fault Refusal := execCommand p x 2 s

/-- CTX_HALT (R159). -/
def execCtxHalt (p : Priv) (x : CtxId) (s : State) : Host.Outcome State Fault Refusal := execCommand p x 3 s

/-- CTX_RESUME (R159). -/
def execCtxResume (p : Priv) (x : CtxId) (s : State) : Host.Outcome State Fault Refusal := execCommand p x 4 s

/-- CTX_SKIP (R159). -/
def execCtxSkip (p : Priv) (x : CtxId) (s : State) : Host.Outcome State Fault Refusal := execCommand p x 5 s

/-- CTX_RESET (R159). -/
def execCtxReset (p : Priv) (x : CtxId) (s : State) : Host.Outcome State Fault Refusal := execCommand p x 6 s

/-- ctxc (R139, R153): IMM[31:3] must be 0; a privilege fault at privilege 2. -/
def execCtxc (a : At) (ra : R5) (imm : Imm) (s : State) : Host.Outcome State Fault Refusal :=
  execIns a 0x48 1 0 (decide (8 ≤ imm.toNat)) (fun i s =>
    if s.privOf i.x = .job then s.fault i .privilege
    else (s.advance i).command ⟨i.x.core, Fin.ofNat _ (s.sreg i.x ra).toNat⟩ imm.toNat) s

/-! ## Slot ownership (R97) -/

/-- A changed slot owner takes effect (R97): the slot becomes EMPTY. -/
def State.settleOwner (s : State) (c : Fin 256) (i : A3) : State :=
  if s.core.owners.has ⟨c, i⟩ = false ∨ s.slotBusy c i = true then s
  else
    let old := s.slotOwner c i
    let s := { s with core := { s.core with owners := s.core.owners.del ⟨c, i⟩ } }
    if old = s.slotOwner c i then s else s.emptySlot c i

/-- SQACC changes to `v`: each changed slot takes its new owner once its tile in flight is over (R97). -/
def State.setOwners (s : State) (c : Fin 256) (v : Word) : State :=
  let s := forAll (List.finRange 8) s fun s i =>
    if getBits v (2 * i.val, 2) = s.fld (.coreSqacc c) (2 * i.val, 2) then s
    else { s with core := { s.core with owners := s.core.owners.set ⟨c, i⟩ (s.slotOwner c i) } }
  let s := s.setReg (.coreSqacc c) v
  forAll (List.finRange 8) s fun s i => s.settleOwner c i

/-- SQACC_OWNER_CHANGE (R97). -/
def execSqaccOwnerChange (c : Fin 256) (slot : A3) (s : State) : Host.Outcome State Fault Refusal :=
  runs s fun s => s.settleOwner c slot

end Sys2Proof.Machine
end

