-- ==== Sys2Proof/Machine/Handover.lean ====
section
/-!
DEFINITION. Handover of a core's tiles to siblings (R122, R322), the module mode (R116, R117) and the die bridge (R115). A
handover changes no bit of any result: the moved context goes on, carried by its sibling, and shows state 5 while it runs.
-/

namespace Sys2Proof.Machine

/-! ## Handover -/

/-- The contexts of a core. -/
def ctxsOf (c : Fin 256) : List CtxId := (List.finRange 4).map fun n => ⟨c, n⟩

/-- A handover of a core is complete: every moved context has a sibling (R122). -/
def State.handoverDone (s : State) (c : Fin 256) (reason : Nat) : State :=
  let dests := s.moved.filterMap fun m => if m.x.core = c then m.dest else none
  let s := (s.count (.cluHandcnt (clusterOf c)) F.cluHandcnt_COUNT 1).tally fun q => { q with
    handovers := q.handovers + 1, flags := if reason = 2 then q.flags ||| 128 else q.flags }
  let s := s.traceHand c ((dests.map fun (y : CtxId) => y.core.val).headD 0) (reason + 1)
  s.raiseEv (dieOf c) 4 0x20 (((2, c.val) :: (dests.map fun (y : CtxId) => (2, y.core.val)).eraseDups) ++ [(1, reason), (4, s.fld .hubSvcstat F.hubSvcstat_STEP)])

/-- The slots that a context uses: those it owns that are not EMPTY (R97). -/
def State.usedSlots (s : State) (x : CtxId) : List A3 :=
  (List.finRange 8).filter fun i => s.slotOwner x.core i == x.n && !s.slotEmpty x.core i

/-- A context's tiles leave its core (R122, steps 1 and 2): its slots are stored in full, and one that was running waits for a sibling in
state 5. -/
def State.moveOut (s : State) (x : CtxId) (reason : Nat) : State :=
  let l := s.usedSlots x
  let stored := l.map fun i => (i, s.slot x.core i, s.reg (.coreAtstat x.core i))
  let s := forAll l s fun s i => s.emptySlot x.core i
  let s := { s with moved := s.moved ++ [{ x := x, dest := none, stored := stored, reason := reason, at_ := s.time }] }
  if s.ctxState x = 1 then s.setCtxState x 1 else s

/-- Whether a context of a core has tiles left that a handover moves. -/
def State.hasTiles (s : State) (x : CtxId) : Bool :=
  !s.isMoved x && decide (s.ctxState x = 1 ∨ s.ctxState x = 2 ∨ s.ctxState x = 3)

/-- Every tile in progress of a core that is handed over has ended, and every moved context has a sibling: its handover is complete. -/
def State.handoverCheck (s : State) (c : Fin 256) (reason : Nat) : State :=
  if s.core.handAsked.has c || s.moved.any fun m => m.x.core == c && m.dest.isNone then s else s.handoverDone c reason

/-- A handover (R122): every context of the core that has tiles left moves, one with a tile in progress when that ends. A core that has nothing
to move is handed over at once (log entry 77). -/
def State.handOver (s : State) (c : Fin 256) (reason : Nat) : State :=
  let l := (ctxsOf c).filter s.hasTiles
  let now := l.filter fun x => (s.ctx x).run.isNone
  let late := l.filter fun x => (s.ctx x).run.isSome
  let s := forAll now s fun s x => s.moveOut x reason
  let s := if late = [] then s else { s with core := { s.core with handAsked := s.core.handAsked.set c reason } }
  s.handoverCheck c reason

/-- A tile of a context has ended while its core is handed over (R122): the context moves, and the core issues again once none of its contexts
has a tile in progress. -/
def State.atTileBoundary (s : State) (x : CtxId) : State :=
  if s.core.handAsked.has x.core = false then s
  else
    let reason := s.core.handAsked.get x.core 0
    let s := if s.hasTiles x then s.moveOut x reason else s
    if (ctxsOf x.core).any fun y => s.hasTiles y && (s.ctx y).run.isSome then s
    else ({ s with core := { s.core with handAsked := s.core.handAsked.del x.core } }).handoverCheck x.core reason

/-- TILE_END (R105): a tile of a context ends, with `bad` an engine whose contribution differs from its copy's: the lower engine of a checked pair
(R337), or in Tandem mode the engine whose contribution Yalar-1's copy disagrees with (R342). What waits for it acts (R122, R159). -/
def execTileEnd (x : CtxId) (bad : Option (Fin 4)) (s : State) : Host.Outcome State Fault Refusal :=
  runs s fun s =>
    if (s.ctx x).run.isNone ∨ s.clockStands x = true ∨ s.waitsSibling x = true then s
    else ((s.endTile x bad).atTileBoundary x).payOwed x

/-- Whether a core can take tiles: it accepts work and its own are not moved away. -/
def State.canTake (s : State) (c : Fin 256) : Bool :=
  s.coreRuns c && !(s.moved.any fun m => m.x.core == c) && !s.core.handAsked.has c

/-- The free slots that a context owns (R122). -/
def State.freeSlots (s : State) (y : CtxId) : List A3 :=
  (List.finRange 8).filter fun i => s.slotOwner y.core i == y.n && s.slotEmpty y.core i

/-- The sibling context that takes a moved context's tiles, with a free slot for every slot that it stored, and at least one: in the core's
cluster, or where no core of it can take tiles in another cluster of the die (R122). -/
def State.siblingFor (s : State) (m : Moved) : Option CtxId :=
  let x := m.x
  let near := (List.finRange 256).filter fun c => c != x.core && clusterOf c == clusterOf x.core && s.canTake c
  let far := (List.finRange 256).filter fun c => clusterOf c != clusterOf x.core && dieOf c == dieOf x.core && s.canTake c
  let cores := if near = [] then far else near
  ((cores.map ctxsOf).flatten).find? fun y => decide (max 1 m.stored.length ≤ (s.freeSlots y).length) &&
    !(s.moved.any fun m => m.dest == some y)

/-- A stored slot is loaded again. -/
def State.loadSlot (s : State) (c : Fin 256) (i : A3) (v : Slot) (r : Word) : State := (s.setReg (.coreAtstat c i) r).setSlot c i v

/-- A moved context gets its sibling, which loads the stored slots, and goes on from its next K segment (R122). Its instructions keep naming
their slots by its own numbers (log entry 78). -/
def State.assignMoved (s : State) (nth : Nat) : State :=
  match (s.moved.filter fun m => m.dest.isNone)[nth]? with
  | none => s
  | some m => match s.siblingFor m with
    | none => s
    | some y =>
      let s := forAll (m.stored.zip (s.freeSlots y)) s fun s q =>
        (s.loadSlot y.core q.2 q.1.2.1 q.1.2.2).loadSlot m.x.core q.1.1 q.1.2.1 q.1.2.2
      let s := { s with moved := s.moved.map fun (q : Moved) => if q.x = m.x then { q with dest := some y } else q }
      s.handoverCheck m.x.core m.reason

/-- The tiles of a context return from its sibling, whose slots that it loaded become free. -/
def State.returnSlots (s : State) (m : Moved) : State :=
  match m.dest with
  | none => forAll m.stored s fun s q => s.loadSlot m.x.core q.1 q.2.1 q.2.2
  | some y => forAll ((s.usedSlots y).take m.stored.length) s fun s i => s.emptySlot y.core i

/-- The tiles of a core return to it. -/
def State.handBack (s : State) (c : Fin 256) : State :=
  let l := s.moved.filter fun m => m.x.core == c
  let s := forAll l s fun s m => s.returnSlots m
  let s := { s with moved := s.moved.filter fun m => m.x.core != c, core := { s.core with handAsked := s.core.handAsked.del c } }
  forAll (l.map Moved.x) s fun s x => if s.ctxState x = 5 then (s.setCtxState x 1).payOwed x else s.payOwed x

/-- HANDOVER (R122): 0 an in-field test, 1 a fence, 2 lateness. -/
def execHandover (c : Fin 256) (reason : Fin 3) (s : State) : Host.Outcome State Fault Refusal := runs s fun s => s.handOver c reason.val

/-- HANDOVER_TILE_ASSIGN (R122). -/
def execHandoverTileAssign (nth : Nat) (s : State) : Host.Outcome State Fault Refusal := runs s fun s => s.assignMoved nth

/-- LATENESS_HANDOVER (R322): the core was late in each of the two previous steps, and eight cores of its cluster have ended
their last tile of the step. -/
def execLatenessHandover (c : Fin 256) (s : State) : Host.Outcome State Fault Refusal :=
  runs s fun s =>
    let ended := (List.finRange 16).filter fun j =>
      let o := coreOf (clusterOf c) j
      s.flag (.coreCstat o) F.coreCstat_USABLE && (ctxsOf o).all fun x => s.ctxState x == 0 || s.ctxState x == 4
    if s.svc.late2.contains c = true ∧ 8 ≤ ended.length then s.handOver c 2 else s

/-! ## Module mode -/

/-- Contexts that are not idle. -/
def State.residents (s : State) : Nat :=
  (List.finRange 256).foldl (fun n c => n + ((ctxsOf c).filter fun x => s.ctxState x != 0).length) 0

/-- Whether a cluster of a die has a usable core. -/
def State.dieUsable (s : State) (d : Fin 2) : Bool :=
  (List.finRange 256).any fun c => dieOf c == d && s.flag (.coreCstat c) F.coreCstat_USABLE

/-- A mode change is refused (R117): 1 a job is resident, 2 Yalar-1 has no usable core, 3 R234 forbids it. -/
def State.modeReject (s : State) (mode reason : Nat) : State :=
  (s.setFld .hubModstat F.hubModstat_REJ 1).raiseEv s.primDie 4 0x30 [(1, mode), (1, reason), (2, s.residents)]

/-- A write of HUB_MODCTL.MODE (R117): when the mode changes, Yalar-1's DRAM loses its contents. -/
def State.setMode (s : State) (tandem : Bool) : State :=
  if s.tandem = tandem then s.setFld .hubModctl F.hubModctl_MODE (b2n tandem)
  else if s.resident then s.modeReject (b2n tandem) 1
  else if tandem = true ∧ s.dieUsable 1 = false then s.modeReject 1 2
  else if tandem = true ∧ s.dramSize 1 < s.dramSize 0 then s.modeReject 1 3
  else
    let s := (s.setFld .hubModctl F.hubModctl_MODE (b2n tandem)).setFld .hubModstat F.hubModstat_MODE (b2n tandem)
    let lo := 2 ^ 40
    { s with stores := .lose lo (lo + 2 ^ 40) s.free :: s.stores, free := s.free + 1
             rim := s.rim.filter fun q => decide (¬ (lo ≤ 32 * q.1 ∧ 32 * q.1 < lo + 2 ^ 40)) }

/-- MODE_CHANGE (R117). -/
def execModeChange (priv : Priv) (tandem : Bool) (s : State) : Host.Outcome State Fault Refusal :=
  runs s fun s => if priv = .job then s else s.setMode tandem

/-! ## The die bridge -/

/-- Outcomes of a bridge flit that waits to be sent again. -/
def State.bridgeTry (s : State) (die seq n : Nat) : State :=
  let rest := s.pow.bridgeFails.filter fun q => !(q.1 == die && q.2.1 == seq)
  { s with pow := { s.pow with bridgeFails := if n = 0 then rest else (die, seq, n) :: rest } }

/-- A bridge flit is received (R115): corrected, or requested again; the third failure of one flit in a row stops the bridge. Direction in the
event is the receiving die (log entry 75). -/
def State.bridgeFlit (s : State) (die vc seq : Nat) (e : BitVec 288) : State :=
  if s.flag .hubBrgcnt F.hubBrgcnt_DOWN then s
  else match rimDecode e with
    | .clean => s.bridgeTry die seq 0
    | .corrected _ => (s.count .hubBrgcnt F.hubBrgcnt_CORR 1).bridgeTry die seq 0
    | .uncorrectable =>
      let n := ((s.pow.bridgeFails.find? fun q => q.1 == die && q.2.1 == seq).map fun q => q.2.2).getD 0 + 1
      let s := (s.count .hubBrgcnt F.hubBrgcnt_RETRY 1).bridgeTry die seq n
      if n < 3 then s
      else (s.setFld .hubBrgcnt F.hubBrgcnt_DOWN 1).raiseEv (Fin.ofNat _ die) 4 0x22 [(1, die), (1, vc), (3, seq)]

/-- BRIDGE_FLIT_RECEIVE (R115). -/
def execBridgeFlitReceive (die : Fin 2) (vc : Fin 8) (seq : BitVec 20) (errors : BitVec 288) (s : State) :
    Host.Outcome State Fault Refusal :=
  runs s fun s => s.bridgeFlit die.val vc.val seq.toNat errors

end Sys2Proof.Machine
end

