-- ==== Sys2Proof/Machine/Hold.lean ====
section
/-!
DEFINITION. The step report (R403), and how the step service ends a running step (R313 cause 6, R401).
-/

namespace Sys2Proof.Machine

/-! ## Writes to host memory -/

/-- Whether the module may send requests to the host: the link is up, bus mastering is enabled and the endpoint is not in D3hot
(R382, R390). -/
def State.canMaster (s : State) : Bool := s.host.up && s.host.master && !s.host.d3hot

/-- Write bytes at a host bus address, where the module may. -/
def State.toHost (s : State) (a : Nat) (bs : List Byte) : State :=
  if s.canMaster then { s with out := s.out ++ [.hostWrite a bs] } else s

/-! ## The step report -/

/-- The contexts of the plan. -/
def State.planCtxs (s : State) : List CtxId :=
  match s.svc.plan with
  | some p => p.ctxs.map PlanCtx.x
  | none => []

/-- FLAGS of a step report. -/
def State.reportFlags (s : State) : Nat :=
  let c := s.svc.cnt
  c.flags ||| (if s.core.seeded = [] then 0 else 2) ||| (if c.snap = 0 then 0 else 8) ||| (if c.replays = 0 then 0 else 16) |||
    (if c.fallbacks = 0 then 0 else 32) ||| (if c.traps = 0 then 0 else 64)

/-- The module's mean of a count over its 256 cores (R322). -/
def coreMean (m : Map (Fin 256) Nat) : Nat := m.foldl (fun n q => n + q.2) 0 / 256

/-- The 256 bytes of a step report (R403). -/
def State.report (s : State) (status cause : Nat) : List Byte :=
  let c := s.svc.cnt
  let events : List Byte := (List.range 8).flatMap fun k => toBytes 4 (min (c.events.get (k + 1) 0) (2 ^ 32 - 1))
  List.flatten
    [toBytes 8 s.svcStep, toBytes 1 status, toBytes 1 cause, toBytes 2 s.reportFlags, toBytes 4 (s.fld .hubGenlive F.hubGenlive_GEN),
     toBytes 8 c.start, toBytes 8 c.last, toBytes 4 c.replays, toBytes 4 c.fallbacks, toBytes 4 c.handovers,
     toBytes 4 (s.fld .hubSnapstat F.hubSnapstat_STEP), toBytes 8 c.nans, toBytes 4 (coreMean c.waitIn), toBytes 4 (coreMean c.waitCr),
     events, List.replicate 152 0, toBytes 8 (s.svcStep + 2 ^ 63)]

/-- Write the report of the step (R403): its last word last, then source 194. -/
def State.writeReport (s : State) (status cause : Nat) : State :=
  match s.svc.plan with
  | none => s
  | some p =>
    let a := p.rptbase + 256 * (s.svcStep % p.rptcount)
    let r := s.report status cause
    ((s.toHost a (r.take 248)).toHost (a + 248) (r.drop 248)).edge 0 194

/-! ## Ending a step -/

/-- The operations with an open bracket here. -/
def State.openOps (s : State) : List OpId :=
  (s.core.ctxs.filterMap fun q => match q.2.bracket with
    | some b => if b.aborted then none else some b.op
    | none => none).eraseDups

/-- Abort every open attempt and every collective in progress, with cause 6 (R313). -/
def State.abortAttempts (s : State) : State :=
  let s := forAll s.openOps s fun s op => s.abortAll op 6
  forAll (s.plt.colls.filter fun c => c.joined && !c.closed) s fun s c => if s.opSealed c.op then s else s.abortColl c 6

/-- The step service ends the running step with cause 6 (R313, R401), and reports it. -/
def State.endStep (s : State) (status cause : Nat) : State :=
  let s := s.abortAttempts
  if s.svc.active = false then s
  else
    let s := s.writeReport status cause
    { s with svc := { s.svc with active := false, startMem := none, abandoned := true, ended := s.time } }

end Sys2Proof.Machine
end

