-- ==== Sys2Proof/Machine/Fences.lean ====
section
/-!
DEFINITION. Unit ids (R349) and what fencing a unit does, by its kind (R119, R123, R350).
-/

namespace Sys2Proof.Machine

/-! ## Unit ids -/

/-- KIND of a unit id. -/
def unitKind (u : Word) : Nat := getBits u (0, 4)

/-- INDEX of a unit id. -/
def unitIndex (u : Word) : Nat := getBits u (8, 8)

/-- SUB of a unit id. -/
def unitSub (u : Word) : Nat := getBits u (16, 2)

/-- A unit id of a kind and an index. -/
def unitId (kind index sub : Nat) : Word := BitVec.ofNat 64 (kind % 16 + index % 256 * 2 ^ 8 + sub % 4 * 2 ^ 16)

/-- Whether a word is the id of a unit (R349): a kind that is not reserved, an index in its range, 0 elsewhere. -/
def unitOk (u : Word) : Bool :=
  let k := unitKind u
  let i := unitIndex u
  getBits u (4, 4) == 0 && getBits u (43, 21) == 0 && (k == 1 || unitSub u == 0) && (k == 0xA || getBits u (18, 25) == 0) &&
  (if k = 0 then false else if k ≤ 5 then true else if k ≤ 7 then decide (i < 16) else if k = 8 then i == 0
   else if k ≤ 0xA then decide (i < 24) && decide (getBits u (23, 6) < 48) else k == 0xB && decide (i < 8))

/-- The core of a unit of kinds 1 to 5. -/
def unitCore (u : Word) : Option (Fin 256) := if 1 ≤ unitKind u ∧ unitKind u ≤ 5 then some (Fin.ofNat _ (unitIndex u)) else none

/-- The die that holds a unit. -/
def unitDie (u : Word) : Fin 2 :=
  let k := unitKind u
  let i := unitIndex u
  if k ≤ 5 then dieOf (Fin.ofNat _ i) else if k ≤ 7 then dieOfCluster (Fin.ofNat _ i)
  else if k = 8 then 0 else if k ≤ 0xA then Fin.ofNat _ (i / 12) else Fin.ofNat _ (i / 4)

/-- Whether a unit is fenced. -/
def State.isFenced (s : State) (u : Word) : Bool := s.int.fenced.contains u.toNat

/-! ## Effects -/

/-- Fenced clusters of Yalar-1: those without a usable core. -/
def State.deadClusters (s : State) : Nat :=
  ((List.range 8).filter fun k => s.fld (.cluCstat (Fin.ofNat _ (8 + k))) F.cluCstat_COREOK == 0).foldl (fun n k => n + 2 ^ k) 0

/-- Yalar-1 may have lost its last usable core in Tandem mode (R119). -/
def State.tandemLoss (s : State) (c : Fin 256) : State :=
  if s.tandem = true ∧ dieOf c = 1 ∧ s.dieUsable 1 = false then
    let s := s.raiseEv 1 4 0x31 [(1, s.deadClusters), (4, s.svcStep)]
    (s.endStep 1 4).svcHold 4
  else s

/-- The failed units of a core, for event 0x04:0x0011: engines in bits 3-0, then vector unit, Backpedal path, Cassette, core. -/
def State.failedUnits (s : State) (c : Fin 256) : Nat :=
  let r : Reg := .coreCstat c
  let bad (k : Nat) : Nat := b2n (s.isFenced (unitId k c.val 0))
  (15 - s.fld r F.coreCstat_ENGOK) + 16 * (1 - s.fld r F.coreCstat_VECOK) + 32 * (1 - s.fld r F.coreCstat_BPOK) + 64 * bad 4 + 128 * bad 5

/-- A core becomes unusable (R123, R350). -/
def State.coreLost (s : State) (c : Fin 256) : State :=
  if s.flag (.coreCstat c) F.coreCstat_USABLE = false then s
  else
    let s := s.setFld (.coreCstat c) F.coreCstat_USABLE 0
    let s := s.setFld (.cluCstat (clusterOf c)) (c.val % 16, 1) 0
    let s := s.raiseEv (dieOf c) 4 0x11 [(2, c.val), (1, s.failedUnits c)]
    (s.handOver c 1).tandemLoss c

/-- An engine is fenced (R123): its core goes on DEGRADED, unless the engine it is paired with is fenced too. -/
def State.engineLost (s : State) (c : Fin 256) (e : Nat) : State :=
  let r : Reg := .coreCstat c
  let s := s.setFld r (e, 1) 0
  if s.fld r (e ^^^ 1, 1) = 0 then s.coreLost c
  else
    let was := s.flag r F.coreCstat_DEGRADED
    let s := (s.setFld r F.coreCstat_DEGRADED 1).setFld (.corePairctl c) F.corePairctl_ACTIVE 0
    if was then s else s.raiseEv (dieOf c) 4 0x10 [(2, c.val), (1, e)]

/-- A cluster is fenced (R350): its cores are unusable, its cache installs nothing and its scratch does not exist. -/
def State.clusterLost (s : State) (k : Fin 16) : State :=
  let s := forAll (List.finRange 16) s fun s j => s.coreLost (coreOf k j)
  let s := s.tracePower k 4 0
  let s := s.setReg (.cluDrlstat k) (putBits (putBits (s.reg (.cluDrlstat k)) F.cluDrlstat_PSTATE 4) F.cluDrlstat_RATE 2)
  { s with core := { s.core with cache := s.core.cache.filter fun l => l.k != k } }

/-- The row that a unit id of kind 0xA names. -/
def unitRow (u : Word) : RowJob :=
  { d := Fin.ofNat _ (unitIndex u / 12), m := Fin.ofNat _ (unitIndex u), pc := getBits u (18, 5), bank := getBits u (23, 6),
    row := getBits u (29, 14), why := 3 }

/-- The effect of a fence by the unit's kind (R350), on a unit that has been tested. -/
def State.fenceEffect (s : State) (u : Word) : State :=
  let k := unitKind u
  let c : Fin 256 := Fin.ofNat _ (unitIndex u)
  if k = 1 then s.engineLost c (unitSub u)
  else if k = 2 then (s.setFld (.coreCstat c) F.coreCstat_VECOK 0).coreLost c
  else if k = 3 then (s.setFld (.coreCstat c) F.coreCstat_BPOK 0).coreLost c
  else if k = 4 ∨ k = 5 then s.coreLost c
  else if k = 6 then s.setFld (.cluCstat (Fin.ofNat _ (unitIndex u))) F.cluCstat_CRKOK 0
  else if k = 7 then s.clusterLost (Fin.ofNat _ (unitIndex u))
  else if k = 8 then s.setFld .spkmSlotstat F.spkmSlotstat_FENCED 1
  else if k = 0xA then s.wantRow (unitRow u)
  else if k = 0xB then s.linkEnable (Fin.ofNat _ (unitIndex u)) false
  else s

/-- Whether a unit's effect waits for its bring-up test: a core's or a cluster's unit before that cluster has been tested, a row
before its die's memory test (R352). -/
def State.untested (s : State) (u : Word) : Bool :=
  let k := unitKind u
  let clu : Fin 16 := if k ≤ 5 then clusterOf (Fin.ofNat _ (unitIndex u)) else Fin.ofNat _ (unitIndex u)
  if k ≤ 7 then !s.pow.tested.contains clu
  else if k = 0xA then s.fld (.memCfg (unitDie u)) F.memCfg_NSTK == 0
  else false

/-- Fence a unit (R348, R350): it stays fenced until module reset. -/
def State.fence (s : State) (u : Word) (verdict cause : Nat) : State :=
  if s.isFenced u then s
  else
    let s := { s with int := { s.int with fenced := s.int.fenced ++ [u.toNat] } }
    let s := s.count .intStcnt F.intStcnt_FENCED 1
    let s := s.raiseEv (unitDie u) 4 0x8021 [(8, u.toNat), (1, verdict), (1, cause)]
    if s.untested u then s else s.fenceEffect u

end Sys2Proof.Machine
end

