-- ==== Sys2Proof/Machine/Upkeep.lean ====
section
/-!
DEFINITION. Upkeep of the stores: refresh (R242), scrubbing (R243-R245, R334), runtime row repair (R247), scratch ways (R252),
and the switch of pair checking (R336).
-/

namespace Sys2Proof.Machine

/-! ## Pair checking -/

/-- PAIRCTL.EN is written (R336): ACTIVE follows on a core that is not DEGRADED, and slots 4-7 become EMPTY when EN becomes 1. -/
def State.setPairs (s : State) (c : Fin 256) (en : Bool) : State :=
  let was := s.flag (.corePairctl c) F.corePairctl_EN
  let s := s.setFld (.corePairctl c) F.corePairctl_EN (b2n en)
  let s := s.setFld (.corePairctl c) F.corePairctl_ACTIVE (b2n (en && !s.flag (.coreCstat c) F.coreCstat_DEGRADED))
  if en && !was then forAll [(4 : A3), 5, 6, 7] s fun s i => s.emptySlot c i else s

/-- PAIR_CHECKING_ENABLE (R336). -/
def execPairCheckingEnable (priv : Priv) (c : Fin 256) (en : Bool) (s : State) : Host.Outcome State Fault Refusal :=
  runs s fun s => if priv = .job then s else s.setPairs c en

/-! ## Scratch ways -/

/-- First address of a cluster's scratch (R9, R252). -/
def scratchBase (k : Fin 16) : Nat := 0xE00000000000 + k.val * 0x03000000

/-- A fresh number for an occasion on which contents are lost. -/
def State.lose (s : State) (lo hi : Nat) : State :=
  { s with stores := .lose lo hi s.free :: s.stores, free := s.free + 1,
           rim := s.rim.filter fun q => decide (¬ (lo ≤ 32 * q.1 ∧ 32 * q.1 < hi)) }

/-- A range is filled with zeros, with valid check bytes. -/
def State.zeroRange (s : State) (lo hi : Nat) : State :=
  { s with stores := .zero lo hi :: s.stores, rim := s.rim.filter fun q => decide (¬ (lo ≤ 32 * q.1 ∧ 32 * q.1 < hi)) }

/-- Keep, of each set of a cluster's cache, the `ways` most recently used lines: which lines lie in the ways that become scratch the spec
leaves open (DESIGN CHOICE, log entry 86). -/
def State.shrinkCache (s : State) (k : Fin 16) (ways : Nat) : State :=
  let keep (l : List CacheLine) : List CacheLine :=
    l.reverse.foldl (fun r q =>
      if q.k = k ∧ ways ≤ (r.filter fun (p : CacheLine) => p.k == k && p.line / 128 % 16384 == q.line / 128 % 16384).length then r
      else q :: r) []
  { s with core := { s.core with cache := keep s.core.cache } }

/-- SCRW changes (R252): new scratch holds zero, ways that leave scratch lose their contents, lines in ways that become scratch
are dropped. -/
def State.setScratch (s : State) (k : Fin 16) (w : Nat) : State :=
  let old := s.fld (.cluCccfg k) F.cluCccfg_SCRW
  let s := s.setFld (.cluCccfg k) F.cluCccfg_SCRW w
  let b := scratchBase k
  if old < w then (s.zeroRange (b + old * 2 ^ 24) (b + w * 2 ^ 24)).shrinkCache k (24 - 8 * w)
  else if w < old then s.lose (b + w * 2 ^ 24) (b + old * 2 ^ 24)
  else s

/-- SCRATCH_WAYS_CHANGE (R252). -/
def execScratchWaysChange (priv : Priv) (k : Fin 16) (value : BitVec 2) (s : State) : Host.Outcome State Fault Refusal :=
  runs s fun s => if priv = .job then s else s.setScratch k value.toNat

/-! ## Refresh -/

/-- DRAM_REFRESH (R242): a refresh command of a stack in use; the interval of its band runs from it. -/
def execDramRefresh (d : Fin 2) (m : Fin 12) (s : State) : Host.Outcome State Fault Refusal :=
  runs s fun s =>
    if s.flag (.stkStat d m) F.stkStat_USABLE = true ∧ s.flag (.stkStat d m) F.stkStat_SREF = false then
      { s with keep := { s.keep with refresh := s.keep.refresh.set (d, m) s.time } }
    else s

/-! ## Scrubbing -/

/-- SLOW (R243): PERIOD asks for more than 480 GB/s. -/
def State.showSlow (s : State) (d : Fin 2) : State :=
  s.setFld (.memScrstat d) F.memScrstat_SLOW (b2n (decide (480000000000 * s.fld (.memScrctl d) F.memScrctl_PERIOD < s.dramSize d)))

/-- Errors appear in a stored word. -/
def State.upset (s : State) (w : Nat) (e : BitVec 288) : State :=
  if e = 0 then s
  else
    let v := s.rim.get w 0 ^^^ e
    { s with rim := if v = 0 then s.rim.del w else s.rim.set w v }

/-- The scrubber passes the last word of a checked block: it compares the block's CRC (R334). -/
def State.scrubBlock (s : State) (d : Fin 2) (a : Nat) : State :=
  if s.flag .intCkctl F.intCkctl_CKSCRUB = false ∨ a % 4096 ≠ 4064 then s
  else
    let b := a / 4096 * 4096
    match s.validEntry b with
    | none => s
    | some e =>
      let s := (s.count .intCkcnt F.intCkcnt_VERIF 1).background 3 16 0 0
      let crc := crc32c (s.bytes b 4096)
      if crc = e % 2 ^ 32 then s
      else (s.count .intCkcnt F.intCkcnt_MIS 1).raiseEv d 4 0x8001 [(6, b), (1, 1), (1, User.scrub.code), (16, e), (4, crc)]

/-- One step of a die's scrubber (R243, R244), on a word that has come to hold the errors `e`. -/
def State.scrubStep (s : State) (d : Fin 2) (e : BitVec 288) : State :=
  let pos := s.fld (.memScrpos d) F.memScrpos_POS
  let size := s.dramSize d
  if s.flag (.memScrctl d) F.memScrctl_EN = false ∨ s.flag (.memScrstat d) F.memScrstat_PAUSED = true ∨ size = 0 then s
  else
    let pos := if pos < size then pos else 0
    let a := d.val * 2 ^ 40 + pos
    let s := (s.upset (a / 32) e).showSlow d
    let bad := s.rim.get (a / 32) 0
    let r := (s.dramBytes 0x0A a 32).readWord .scrub (a / 32)
    let s := (r.1.background 0 (32 + (match rimDecode bad with
      | .corrected _ => 32
      | _ => 0)) 0 0).scrubBlock d a
    let n := s.keep.pass.get d (0, 0)
    let n := match rimDecode bad with
      | .clean => n
      | .corrected _ => (n.1 + 1, n.2)
      | .uncorrectable => (n.1, n.2 + 1)
    if pos + 32 < size then
      { s.setFld (.memScrpos d) F.memScrpos_POS (pos + 32) with keep := { s.keep with pass := s.keep.pass.set d n } }
    else
      let s := (s.setFld (.memScrpos d) F.memScrpos_POS 0).count (.memScrpos d) F.memScrpos_PASSES 1
      let s := { s with keep := { s.keep with pass := s.keep.pass.set d (0, 0) } }
      s.raiseEv d 2 0x60 [(1, d.val), (3, s.fld (.memScrpos d) F.memScrpos_PASSES), (4, n.1), (4, n.2)]

/-- SCRUB_STEP (R243). -/
def execScrubStep (d : Fin 2) (upset : BitVec 288) (s : State) : Host.Outcome State Fault Refusal :=
  runs s fun s => s.scrubStep d upset

/-- A cached line's word comes to hold errors, which the scrub meets (R240, R241). -/
def State.scrubLine (s : State) (l : CacheLine) (e : BitVec 288) : State :=
  let m := { l with errs := l.errs ^^^ e }
  ({ s with core := { s.core with cache := s.core.cache.map fun q => if q = l then m else q } }).meetLine m

/-- One step of a cluster's scrub (R245): its Cassettes, then its scratch, then its cached lines, and again. -/
def State.scrubCluster (s : State) (k : Fin 16) (e : BitVec 288) : State :=
  if s.pstate k ≠ 0 then s
  else
    let scr := s.fld (.cluCccfg k) F.cluCccfg_SCRW * 2 ^ 19
    let lines := s.core.cache.filter fun l => l.k == k
    let total := 2 ^ 20 + scr + 4 * lines.length
    let p := s.keep.cluPos.get k 0 % total
    let s := { s with keep := { s.keep with cluPos := s.keep.cluPos.set k ((p + 1) % total) } }
    if p < 2 ^ 20 then
      let a := cassetteBase (coreOf k (Fin.ofNat _ (p / 2 ^ 16))) + 32 * (p % 2 ^ 16)
      ((s.upset (a / 32) e).readWord .scrub (a / 32)).1
    else if p < 2 ^ 20 + scr then
      let a := scratchBase k + 32 * (p - 2 ^ 20)
      ((s.upset (a / 32) e).readWord .scrub (a / 32)).1
    else match lines[(p - 2 ^ 20 - scr) / 4]? with
      | some l => s.scrubLine l e
      | none => s

/-- SCRUB_CLUSTER_STEP (R245). -/
def execScrubClusterStep (k : Fin 16) (upset : BitVec 288) (s : State) : Host.Outcome State Fault Refusal :=
  runs s fun s => s.scrubCluster k upset

/-! ## Row repair -/

/-- Spare rows that a bank has left. -/
def State.sparesLeft (s : State) (r : RowJob) : Nat := 16 - s.keep.spares.get (r.d, r.m, r.pc, r.bank) 0

/-- Map a row to a spare row of its bank: the counts of MEMd_STKn_RPR and the map. -/
def State.mapRow (s : State) (r : RowJob) (runtime : Bool) : State :=
  let k := (r.d, r.m, r.pc, r.bank)
  let s := { s with keep := { s.keep with
    spares := s.keep.spares.set k (s.keep.spares.get k 0 + 1)
    mapped := (r.d, r.m, r.pc, r.bank, r.row) :: s.keep.mapped } }
  let s := s.count (.stkRpr r.d r.m) F.stkRpr_ROWS 1
  let s := if runtime then s.count (.stkRpr r.d r.m) F.stkRpr_RUNTIME 1 else s
  s.setFld (.stkRpr r.d r.m) F.stkRpr_MINSPARE (min (s.fld (.stkRpr r.d r.m) F.stkRpr_MINSPARE) (s.sparesLeft r))

/-- Copy one flawed word of a row to its spare: corrected as a reader corrects it, or unchanged and logged (R247). -/
def State.copyWord (s : State) (d : Fin 2) (w : Nat) : State :=
  match rimDecode (s.rim.get w 0) with
  | .clean => s.takeWord w (s.rim.get w 0)
  | .corrected rest => (s.takeWord w rest).corrected w
  | .uncorrectable =>
    let a := 32 * w % 2 ^ 40
    let s := s.count (.stkUncorr d (s.stackOf d a)) F.stkUncorr_COUNT 1
    s.setReg (.memUelog d) (putBits (putBits (putBits (s.reg (.memUelog d)) F.memUelog_ADDR (32 * w % 2 ^ 40)) F.memUelog_SRC 3)
      F.memUelog_VALID 1)

/-- Repair a row at runtime (R247). What was corrected in the row before, or by the copy, asks for no second repair (log entry 48). -/
def State.repairRow (s : State) (r : RowJob) : State :=
  let s := { s with keep := { s.keep with rows := s.keep.rows.filter fun q => !q.same r } }
  if s.sparesLeft r = 0 then s.raiseEv r.d 2 0x21 [(1, r.m.val), (1, r.pc), (1, r.bank), (2, r.row)]
  else
    let words := (s.rim.map Prod.fst).filter fun w =>
      decide (32 * w / 2 ^ 40 = r.d.val) && (s.rowOf r.d (32 * w % 2 ^ 40) 0).same r
    let s := forAll words s fun s w => s.copyWord r.d w
    let s := { s with keep := { s.keep with
      rows := s.keep.rows.filter fun q => !q.same r
      corrected := s.keep.corrected.filter fun q =>
        !(decide (32 * q.1 / 2 ^ 40 = r.d.val) && (s.rowOf r.d (32 * q.1 % 2 ^ 40) 0).same r) } }
    let s := (s.mapRow r true).background 1 4096 0 0
    s.raiseEv r.d 2 0x20 [(1, r.m.val), (1, r.pc), (1, r.bank), (2, r.row), (1, r.why), (1, s.sparesLeft r)]

/-- ROW_REPAIR (R247): the Hub repairs the stack's row that has waited longest. -/
def execRowRepair (d : Fin 2) (m : Fin 12) (s : State) : Host.Outcome State Fault Refusal :=
  runs s fun s => match s.keep.rows.find? fun r => r.d == d && r.m == m with
    | some r => s.repairRow r
    | none => s

/-- A write of MEMd_STKn_RPRCMD (R257): with GO 1 the named row is to be repaired. -/
def State.repairCommand (s : State) (d : Fin 2) (m : Fin 12) (v : Word) : State :=
  let bank := getBits v F.stkRprcmd_BANK
  if getBits v F.stkRprcmd_GO = 0 ∨ 48 ≤ bank ∨ s.flag (.stkStat d m) F.stkStat_USABLE = false then s
  else s.wantRow { d := d, m := m, pc := getBits v F.stkRprcmd_PC, bank := bank, row := getBits v F.stkRprcmd_ROW, why := 2 }

/-- REPAIR_COMMAND (R257). -/
def execRepairCommand (priv : Priv) (d : Fin 2) (m : Fin 12) (value : Word) (s : State) : Host.Outcome State Fault Refusal :=
  runs s fun s => if priv = .job then s else s.repairCommand d m value

end Sys2Proof.Machine
end

