-- ==== Sys2Proof/Machine/Power.lean ====
section
/-!
DEFINITION. The Cadence clock (R356), cluster rates (R359, R360), Freewheel (R361-R364), P2 and its shadow (R365, R366), P3
(R367), and the input-power actions (R369, R372).
-/

namespace Sys2Proof.Machine

/-- Change the power state. -/
def State.setPow (s : State) (f : PowerState → PowerState) : State := { s with pow := f s.pow }

/-! ## The Cadence clock (R356) -/

/-- CADENCE_LOSS: every consumer of the reference switches to the backup oscillator. -/
def execCadenceLoss (s : State) : Host.Outcome State Fault Refusal :=
  runs s fun s =>
    if s.pow.off = true ∨ s.flag .clkCadstat F.clkCadstat_BACKUP = true then s
    else
      let s := (s.setFld .clkCadstat F.clkCadstat_BACKUP 1).setFld .clkCadstat F.clkCadstat_LOST 1
      let s := (s.count .clkCadstat F.clkCadstat_LOSSES 1).setPow fun q => { q with cadLost := s.time }
      s.raiseEv 0 1 0x40 [(8, s.time)]

/-- CADENCE_RESTORE: after 10 ms of clean reference the module switches back. -/
def execCadenceRestore (s : State) : Host.Outcome State Fault Refusal :=
  runs s fun s =>
    if s.pow.off = true ∨ s.flag .clkCadstat F.clkCadstat_BACKUP = false ∨ s.time < s.pow.cadLost + 1000000 then s
    else (s.setFld .clkCadstat F.clkCadstat_BACKUP 0).raiseEv 0 1 0x41 [(8, s.time - s.pow.cadLost)]

/-! ## Cluster rates (R359) -/

/-- Whether a stack of a die lies in the 105-110 °C band. -/
def State.dieHot (s : State) (d : Fin 2) : Bool := s.pow.stackHot.any fun q => q.1 == d

/-- Whether a power action is in force. -/
def State.powerAction (s : State) : Bool := s.flag .clkPwrstat F.clkPwrstat_PEAKACT || s.flag .clkPwrstat F.clkPwrstat_SUSTACT

/-- Whether a cluster is in forced Freewheel, for power or for heat. -/
def State.isForced (s : State) (k : Fin 16) : Bool := s.pow.forced.contains k || s.pow.heat.contains k

/-- Whether a thermal action applies to a cluster. -/
def State.thermal (s : State) (k : Fin 16) : Bool := s.pow.hot.has k || s.dieHot (dieOfCluster k)

/-- Whether a running cluster is at half rate (R359). -/
def State.halfRate (s : State) (k : Fin 16) : Bool :=
  s.phase == 2 || s.flag (.cluDrlctl k) F.cluDrlctl_HALF || s.powerAction || s.thermal k || s.flag .clkPwrstat F.clkPwrstat_LOWV ||
  !s.flag (.cluDrlstat k) F.cluDrlstat_TVALID

/-- CLUk_DRLSTAT shows the rate of a cluster and why. -/
def State.showRate (s : State) (k : Fin 16) : State :=
  let r : Reg := .cluDrlstat k
  let p := s.pstate k
  let on := p == 0 || p == 1 || p == 3
  let s := s.setFld r F.cluDrlstat_RATE (if p ≠ 0 then 2 else if s.halfRate k then 1 else 0)
  let s := s.setFld r F.cluDrlstat_KICK (b2n (on && s.phase == 2))
  let s := s.setFld r F.cluDrlstat_PWR (b2n (on && s.powerAction))
  let s := s.setFld r F.cluDrlstat_THERM (b2n (on && s.thermal k))
  s.setFld r F.cluDrlstat_FORCED (b2n (on && s.isForced k))

/-- ALERT_N is low while any action is in force (R372). -/
def State.showAlert (s : State) : State :=
  let any := s.powerAction || s.flag .clkPwrstat F.clkPwrstat_LOWV ||
    (List.finRange 16).any fun k => s.flag (.cluDrlstat k) F.cluDrlstat_THERM || s.flag (.cluDrlstat k) F.cluDrlstat_FORCED
  { s with pins := { s.pins with alert := !any } }

/-- Every cluster's rate follows, and ALERT_N with it. -/
def State.showRates (s : State) : State := (forAll (List.finRange 16) s fun s k => s.showRate k).showAlert

/-- PLL_LOCK_TIMEOUT (R360): the third failed attempt of a cluster fences it; source 10 is shared, on Yalar-0 (R388). -/
def execPllLockTimeout (k : Fin 16) (s : State) : Host.Outcome State Fault Refusal :=
  runs s fun s =>
    if s.pstate k ≠ 3 then s
    else
      let n := s.pow.pllTries.get k 0 + 1
      if n < 3 then s.setPow fun q => { q with pllTries := q.pllTries.set k n }
      else
        let s := s.setPow fun q => { q with pllTries := q.pllTries.del k, wakeAt := q.wakeAt.del k }
        ((s.fence (unitId 7 k.val 0) 0 255).raiseEv 0 1 0x42 [(1, k.val)]).showRates

/-! ## Freewheel (R361-R364) -/

/-- The cores of a cluster. -/
def coresOf (k : Fin 16) : List (Fin 256) := (List.finRange 16).map fun j => coreOf k j

/-- The contexts of a cluster. -/
def cluCtxs (k : Fin 16) : List CtxId := (coresOf k).flatMap ctxsOf

/-- A context that lets its cluster's clock stop: idle, halted, handed over, waiting on a cleat or in op.end, with no tile running. -/
def State.ctxStill (s : State) (x : CtxId) : Bool :=
  let st := s.ctxState x
  (s.ctx x).run.isNone &&
  (st == 0 || st == 4 || st == 5 ||
   (st == 2 && match (s.ctx x).wait with
     | some (.cleat _ _ _ _ _) => true
     | some .opEnd => true
     | _ => false))

/-- A stream that waits on its consumer's cleat. -/
def State.streamWaits (s : State) (g : Bg) : Bool :=
  match g.kind with
  | .stream t => t.started == t.completed && !s.hasCredit g t
  | _ => false

/-- Whether the conditions of R361 hold for a cluster, beside the time they have held. -/
def State.canSleep (s : State) (k : Fin 16) : Bool :=
  let own (c : Fin 256) : Bool := clusterOf c == k
  (cluCtxs k).all s.ctxStill &&
  (s.core.bg.all fun g => !own g.x.core || s.streamWaits g) &&
  !(s.fab.reqs.any fun r => own r.x.core && r.kind.isScalar) &&
  !(s.int.spots.any fun q => own q.core || own q.x.core) &&
  !(s.moved.any fun m => (own m.x.core && m.dest.isNone) || match m.dest with
    | some y => own y.core
    | none => false)

/-- A cluster's clock stops and its state is kept. -/
def State.enterP1 (s : State) (k : Fin 16) (cause : Nat) : State :=
  (((s.tracePower k 1 cause).setFld (.cluDrlstat k) F.cluDrlstat_PSTATE 1).setPow fun q =>
    { q with fwSince := q.fwSince.set k s.time, idleSince := q.idleSince.del k, wakeAt := q.wakeAt.del k }).showRate k

/-- FREEWHEEL_ENTER (R361). -/
def execFreewheelEnter (k : Fin 16) (s : State) : Host.Outcome State Fault Refusal :=
  runs s fun s =>
    let long := match s.pow.idleSince.find? fun q => q.1 == k with
      | some q => decide (q.2 + 100 * s.fld (.cluDrlctl k) F.cluDrlctl_FWIDLE ≤ s.time)
      | none => false
    if s.pstate k = 0 ∧ s.fld (.cluDrlctl k) F.cluDrlctl_TARGET = 0 ∧ long = true ∧ s.canSleep k = true then (s.enterP1 k 1).showAlert else s

/-- Whether a held add or a notice makes a context or a stream of a cluster ready (R362, R363). -/
def State.readyToWake (s : State) (k : Fin 16) : Bool :=
  ((cluCtxs k).any fun x => s.ctxState x == 2 && match (s.ctx x).wait with
    | some (.cleat cl base imm _ _) => waitHolds (s.cleat x.core cl) base imm
    | some .opEnd => match (s.ctx x).bracket with
      | some b => b.aborted || s.opSealed b.op
      | none => true
    | _ => false) ||
  s.core.bg.any fun g => clusterOf g.x.core == k && match g.kind with
    | .stream t => !t.stopped && decide (t.started < t.n) && s.hasCredit g t
    | _ => false

/-- A cluster in Freewheel begins to wake. -/
def State.wakeP1 (s : State) (k : Fin 16) (cause : Nat) : State :=
  let slept := (s.time - s.pow.fwSince.get k s.time) / 100000
  let s := (s.count (.cluDrlcnt k) F.cluDrlcnt_WAKE1 1).count (.cluDrlcnt k) F.cluDrlcnt_FWMS slept
  (((s.tracePower k 3 cause).setFld (.cluDrlstat k) F.cluDrlstat_PSTATE 3).setPow fun q => { q with fwSince := q.fwSince.del k }).showRate k

/-- FREEWHEEL_WAKE (R363): a cause of a cluster in Freewheel, which waits while the Freewheel is forced (R359). -/
def execFreewheelWake (k : Fin 16) (s : State) : Host.Outcome State Fault Refusal :=
  runs s fun s =>
    let ready := s.readyToWake k
    if s.pstate k ≠ 1 ∨ s.isForced k = true ∨ (ready = false ∧ s.pow.wakeAt.has k = false) then s
    else ((if ready then s.noteWake k true else s).wakeP1 k 2).showAlert

/-- WAKE_DEADLINE (R363): the timebase reaches DEADLINE, which returns to 0 and wakes a cluster in Freewheel. -/
def execWakeDeadline (k : Fin 16) (s : State) : Host.Outcome State Fault Refusal :=
  runs s fun s =>
    let d := s.fld (.cluDrlwake k) F.cluDrlwake_DEADLINE
    if d = 0 ∨ s.time < d then s
    else
      let s := s.setFld (.cluDrlwake k) F.cluDrlwake_DEADLINE 0
      if s.pstate k ≠ 1 then s
      else if s.isForced k then s.noteWake k false
      else ((s.noteWake k false).wakeP1 k 3).showAlert

/-- Apply the held adds of a cluster's cleats (R362). -/
def State.applyHeld (s : State) (k : Fin 16) : State :=
  let own := s.core.heldAdds.filter fun h => clusterOf h.1 == k
  let s := { s with core := { s.core with heldAdds := s.core.heldAdds.filter fun h => clusterOf h.1 != k } }
  forAll own s fun s h => s.setReg (.clt h.1 h.2.1) (s.reg (.clt h.1 h.2.1) + h.2.2)

/-- CLUSTER_WAKE_COMPLETE (R364): the clock runs, held adds are applied, and sequencers issue. -/
def execClusterWakeComplete (k : Fin 16) (s : State) : Host.Outcome State Fault Refusal :=
  runs s fun s =>
    if s.pstate k ≠ 3 ∨ s.pow.restart.contains k = true then s
    else
      let s := match s.pow.wakeAt.find? fun q => q.1 == k with
        | some (_, t, true) => s.count (.cluDrlwait k) F.cluDrlwait_NS (10 * (s.time - t))
        | _ => s
      let s := ((s.tracePower k 0 2).setFld (.cluDrlstat k) F.cluDrlstat_PSTATE 0).applyHeld k
      let s := s.setPow fun q => { q with wakeAt := q.wakeAt.del k, wakeP2 := q.wakeP2.erase k, pllTries := q.pllTries.del k }
      (s.showRate k).showAlert

/-! ## P2 (R365, R366) -/

/-- Whether every context of a cluster is idle. -/
def State.cluIdle (s : State) (k : Fin 16) : Bool := (cluCtxs k).all fun x => s.ctxState x == 0

/-- P2PEND: TARGET is 2 while a context is not idle. -/
def State.showPending (s : State) (k : Fin 16) : State :=
  s.setFld (.cluDrlstat k) F.cluDrlstat_P2PEND
    (b2n (s.fld (.cluDrlctl k) F.cluDrlctl_TARGET == 2 && !s.cluIdle k && s.pstate k != 2 && s.pstate k != 4))

/-- A cluster's power goes off: its registers, context state and cleats are in the shadow, its slots come back EMPTY, its cached lines are gone and its
temperature is not valid. -/
def State.enterP2 (s : State) (k : Fin 16) : State :=
  let s := s.applyHeld k
  let s := forAll (coresOf k) s fun s c => forAll (List.finRange 8) s fun s i => s.emptySlot c i
  let s := { s with core := { s.core with cache := s.core.cache.filter fun l => l.k != k },
                    svc := { s.svc with late1 := s.svc.late1.filter fun c => clusterOf c != k,
                                        late2 := s.svc.late2.filter fun c => clusterOf c != k },
                    keep := { s.keep with cluPos := s.keep.cluPos.del k } }
  let s := s.setPow fun q => { q with idleSince := q.idleSince.del k, fwSince := q.fwSince.del k, wakeAt := q.wakeAt.del k,
                                      hot := q.hot.del k, heat := q.heat.erase k, forced := q.forced.erase k }
  let s := s.setFld (.cluDrlstat k) F.cluDrlstat_TVALID 0
  (((s.tracePower k 2 1).setFld (.cluDrlstat k) F.cluDrlstat_PSTATE 2).showPending k).showRate k

/-- Whether a cluster is to enter P2 (R365). -/
def State.wantsP2 (s : State) (k : Fin 16) : Bool :=
  let r : Reg := .cluDrlctl k
  let p := s.pstate k
  let slept := match s.pow.fwSince.find? fun q => q.1 == k with
    | some q => decide (q.2 + 100000 * s.fld r F.cluDrlctl_P2IDLE ≤ s.time)
    | none => false
  s.cluIdle k && ((p == 0 || p == 1) && s.fld r F.cluDrlctl_TARGET == 2 || p == 1 && s.flag r F.cluDrlctl_AUTOP2 && slept)

/-- P2_ENTER (R365). -/
def execP2Enter (k : Fin 16) (s : State) : Host.Outcome State Fault Refusal :=
  runs s fun s => if s.wantsP2 k then (s.enterP2 k).showAlert else s.showPending k

/-- A cluster in P2 powers up: its stores are filled with zeros, its microcode is loaded (R364, R366, R429), the CLOCK of its cores starts
again (R128) and its Pumps' latencies hold what they hold after power-up (R253). -/
def State.wakeP2 (s : State) (k : Fin 16) : State :=
  let s := forAll (coresOf k) s fun s c =>
    (s.zeroRange (cassetteBase c) (cassetteBase c + 0x200000)).setReg (.corePmplat c) (Reg.corePmplat c).reset
  let s := { s with core := { s.core with clock := s.core.clock.del k } }
  let b := scratchBase k
  let s := s.zeroRange b (b + s.fld (.cluCccfg k) F.cluCccfg_SCRW * 2 ^ 24)
  let s := (s.count (.cluDrlcnt k) F.cluDrlcnt_WAKE2 1).setFld .hubFwucmix (k.val, 1) 0
  (((s.tracePower k 3 2).setFld (.cluDrlstat k) F.cluDrlstat_PSTATE 3).setPow fun q => { q with wakeP2 := q.wakeP2 ++ [k] }).showRate k

/-- P2_WAKE (R366): a cause of a cluster in P2, outside P3. -/
def execP2Wake (k : Fin 16) (s : State) : Host.Outcome State Fault Refusal :=
  runs s fun s =>
    if s.pstate k ≠ 2 ∨ s.pow.wakeAt.has k = false ∨ s.flag .clkRststat F.clkRststat_INP3 = true then s else s.wakeP2 k

/-- What a write of CLUk_DRLCTL does beside its fields (R363, R365, R366): TARGET 1 or 2 wakes from Freewheel, 0 or 1 from P2. -/
def State.writeTarget (s : State) (k : Fin 16) (v m : Word) : State :=
  let s := s.writeFields (.cluDrlctl k) v m
  let t := getBits v F.cluDrlctl_TARGET
  let p := s.pstate k
  let cause := getBits m F.cluDrlctl_TARGET == 3 && (p == 1 && (t == 1 || t == 2) || p == 2 && (t == 0 || t == 1))
  (((if cause then s.noteWake k false else s).showPending k).showRate k).showAlert

/-! ## P3 (R367) -/

/-- Every usable stack enters or leaves self-refresh. -/
def State.setSref (s : State) (d : Fin 2) (on : Bool) : State :=
  forAll ((List.finRange 12).filter fun m => s.flag (.stkStat d m) F.stkStat_USABLE) s fun s m =>
    let s := s.setFld (.stkStat d m) F.stkStat_SREF (b2n on)
    if on then s
    else
      ((s.setFld (.stkStat d m) F.stkStat_BAND 2).setFld (.stkStat d m) F.stkStat_TVALID 0).setPow fun q =>
        { q with bandSince := q.bandSince.del (d, m), stackHot := q.stackHot.erase (d, m) }

/-- The scrubbers pause or resume (R244). -/
def State.setPaused (s : State) (d : Fin 2) (on : Bool) : State := s.setFld (.memScrstat d) F.memScrstat_PAUSED (b2n on)

/-- CLK_PSCMD 1 (R367): every cluster in P2, the scrubbers paused, every stack in self-refresh; refused while a job is resident. -/
def State.enterP3 (s : State) : State :=
  if s.flag .clkRststat F.clkRststat_INP3 then s
  else if s.resident then
    (s.setFld .clkRststat F.clkRststat_P3REJ 1).raiseEv 0 1 0x51 [(1, 4), (2, s.residents), (2, s.plt.pelotons.length)]
  else
    let s := forAll ((List.finRange 16).filter fun k => s.pstate k != 2 && s.pstate k != 4) s fun s k => s.enterP2 k
    let s := forAll (List.finRange 2) s fun s d => (s.setPaused d true).setSref d true
    (s.setFld .clkRststat F.clkRststat_INP3 1).showAlert

/-- CLK_PSCMD 2: the module leaves P3; clusters stay in P2 until something wakes them. -/
def State.leaveP3 (s : State) : State :=
  if s.flag .clkRststat F.clkRststat_INP3 = false then s
  else
    let s := forAll (List.finRange 2) s fun s d => (s.setPaused d (!s.pow.trained.contains d)).setSref d false
    (s.setFld .clkRststat F.clkRststat_INP3 0).setPow fun q => { q with p3Access := [] }

/-- P3_ENTER. -/
def execP3Enter (priv : Priv) (s : State) : Host.Outcome State Fault Refusal := runs s fun s => if priv = .job then s else s.enterP3

/-- P3_LEAVE. -/
def execP3Leave (priv : Priv) (s : State) : Host.Outcome State Fault Refusal := runs s fun s => if priv = .job then s else s.leaveP3

/-- In P3 a host or Hub access to DRAM takes the die's stacks out of self-refresh (R367). -/
def State.p3Touch (s : State) (a : Nat) : State :=
  match s.place .hub a with
  | some (.dram d _) =>
    if s.flag .clkRststat F.clkRststat_INP3 = false then s
    else
      let s := if s.pow.p3Access.has d then s else s.setSref d false
      s.setPow fun q => { q with p3Access := q.p3Access.set d s.time }
  | _ => s

/-- SELF_REFRESH_RETURN: after 10 ms without access the stacks return to self-refresh. -/
def execSelfRefreshReturn (d : Fin 2) (s : State) : Host.Outcome State Fault Refusal :=
  runs s fun s => match s.pow.p3Access.find? fun q => q.1 == d with
    | none => s
    | some q =>
      if s.flag .clkRststat F.clkRststat_INP3 = false ∨ s.time < q.2 + 1000000 then s
      else (s.setSref d true).setPow fun p => { p with p3Access := p.p3Access.del d }

/-! ## Input power (R369) -/

/-- Mean of the last `n` samples; samples before the first count as 0 W (R386). -/
def meanOf (l : List Nat) (n : Nat) : Nat := (l.take n).foldl (· + ·) 0 / n

/-- Force Freewheel on one more running cluster, the highest first. -/
def State.forceOne (s : State) : State :=
  match (List.finRange 16).reverse.find? fun k => s.pstate k == 0 || s.pstate k == 3 with
  | none => s
  | some k => (s.setPow fun q => { q with forced := k :: q.forced, forcedAt := s.time }).enterP1 k 4

/-- A forced Freewheel of a cluster ends: it wakes, unless another holds it. -/
def State.unforce (s : State) (k : Fin 16) (cause : Nat) : State :=
  if s.isForced k = true ∨ s.pstate k ≠ 1 then s.showRate k else s.wakeP1 k cause

/-- Release the cluster that was forced last. -/
def State.releaseOne (s : State) : State :=
  match s.pow.forced with
  | [] => s
  | k :: t => (s.setPow fun q => { q with forced := t, forcedAt := s.time }).unforce k 4

/-- Whether a time lies `n` ticks back. -/
def State.sinceFor (s : State) (t : Option Nat) (n : Nat) : Bool :=
  match t with
  | some t => decide (t + n ≤ s.time)
  | none => false

/-- Keep since when a condition holds. -/
def State.since (s : State) (t : Option Nat) (on : Bool) : Option Nat := if on then some (t.getD s.time) else none

/-- The peak action begins or ends. -/
def State.peakAction (s : State) : State :=
  let p10 := s.fld .clkPwrstat F.clkPwrstat_P10
  let peak := s.fld .clkPwrctl F.clkPwrctl_PEAK
  if s.flag .clkPwrstat F.clkPwrstat_PEAKACT = false then
    if p10 ≤ peak then s
    else ((s.setFld .clkPwrstat F.clkPwrstat_PEAKACT 1).setPow fun q => { q with peakAt := some s.time, peakBelow := none }).raiseEv 0 1 0x10
      [(2, p10), (2, peak)]
  else
    let below := s.since s.pow.peakBelow (decide (p10 ≤ peak - 300))
    let s := s.setPow fun q => { q with peakBelow := below }
    if s.sinceFor below 10000 then (s.setFld .clkPwrstat F.clkPwrstat_PEAKACT 0).setPow fun q => { q with peakAt := none, peakBelow := none }
    else s

/-- The sustained action begins or ends. -/
def State.sustAction (s : State) : State :=
  let p1m := s.fld .clkPwrstat F.clkPwrstat_P1M
  let sust := s.fld .clkPwrctl F.clkPwrctl_SUST
  let above := s.since s.pow.sustOver (decide (sust < p1m))
  let s := s.setPow fun q => { q with sustOver := above }
  if s.flag .clkPwrstat F.clkPwrstat_SUSTACT = false then
    if s.sinceFor above 700000 = false then s
    else ((s.setFld .clkPwrstat F.clkPwrstat_SUSTACT 1).setPow fun q => { q with sustAt := some s.time, sustBelow := none }).raiseEv 0 1 0x11
      [(2, p1m), (2, sust)]
  else
    let below := s.since s.pow.sustBelow (decide (p1m ≤ sust - 200))
    let s := s.setPow fun q => { q with sustBelow := below }
    if s.sinceFor below 1000000 then (s.setFld .clkPwrstat F.clkPwrstat_SUSTACT 0).setPow fun q => { q with sustAt := none, sustBelow := none }
    else s

/-- Forced Freewheel for power begins, grows or is released. -/
def State.forcedAction (s : State) : State :=
  let p10 := s.fld .clkPwrstat F.clkPwrstat_P10
  let p1m := s.fld .clkPwrstat F.clkPwrstat_P1M
  let overP := decide (s.fld .clkPwrctl F.clkPwrctl_PEAK < p10)
  let overS := decide (s.fld .clkPwrctl F.clkPwrctl_SUST < p1m)
  let fP := s.flag .clkPwrstat F.clkPwrstat_PEAKACT && overP && s.sinceFor s.pow.peakAt 2000
  let fS := s.flag .clkPwrstat F.clkPwrstat_SUSTACT && overS && s.sinceFor s.pow.sustAt 100000
  let s :=
    if fP || fS then
      let s := s.setPow fun q => { q with heldSince := none }
      if s.pow.forced = [] then
        let s := s.forceOne
        s.raiseEv 0 1 0x12 [(1, s.pow.forced.length), (2, p10), (2, p1m)]
      else if s.pow.forcedAt + (if fP then 1000 else 10000) ≤ s.time then s.forceOne
      else s
    else if s.pow.forced = [] then s
    else
      let held := s.since s.pow.heldSince (!(overP || overS))
      let s := s.setPow fun q => { q with heldSince := held }
      if s.sinceFor held 100000 = true ∧ s.pow.forcedAt + 100000 ≤ s.time then s.releaseOne else s
  s.setFld .clkPwrstat F.clkPwrstat_FORCED (b2n (s.pow.forced != []))

/-- One microsecond's measurement of the input power. -/
def State.measure (s : State) (w : Nat) : State :=
  let l := (w :: s.pow.samples).take 1000
  let e := s.pow.micro + w
  let s := s.setPow fun q => { q with samples := l, micro := e % 1000 }
  let s := s.wrap .clkEnergy F.clkEnergy_MJ (e / 1000)
  let s := if s.flag .clkPwrstat F.clkPwrstat_PEAKACT then s.count .clkPwrcnt F.clkPwrcnt_PEAKUS 1 else s
  let s := if s.flag .clkPwrstat F.clkPwrstat_SUSTACT then s.count .clkPwrcnt F.clkPwrcnt_SUSTUS 1 else s
  let s := s.setFld .clkPwrstat F.clkPwrstat_P10 (min (meanOf l 10) 8191)
  let s := s.setFld .clkPwrstat F.clkPwrstat_P1M (min (meanOf l 1000) 8191)
  s.peakAction.sustAction.forcedAction.showRates

/-- POWER_MEASURE (R369). -/
def execPowerMeasure (watts : BitVec 14) (s : State) : Host.Outcome State Fault Refusal :=
  runs s fun s => if s.pow.off then s else s.measure watts.toNat

/-! ## The coolant sensors (R473) -/

/-- COOLANT_SENSOR_READ. -/
def execCoolantSensorRead (inlet outlet : BitVec 8) (s : State) : Host.Outcome State Fault Refusal :=
  runs s fun s =>
    if s.hubRuns = false then s
    else
      let s := (s.setFld .clkPhys F.clkPhys_INLET inlet.toNat).setFld .clkPhys F.clkPhys_OUTLET outlet.toNat
      let s := s.setFld .clkPhys F.clkPhys_TVALID 1
      if inlet.toNat > 40 ∨ inlet.toNat < 17 then s.setFld .clkPhys F.clkPhys_INRANGE 1 else s

end Sys2Proof.Machine
end

