-- ==== Sys2Proof/Machine/Resets.lean ====
section
/-!
DEFINITION. Power-up, P4 and the resets: what each keeps and loses (R368, R373, R380-R385), the input voltage (R370, R467), heat
(R242, R371, R470, R471), and the unit map (R351, R352).
-/

namespace Sys2Proof.Machine

/-! ## Losing state -/

/-- The module with its volatile state as it is right after power comes on, before bring-up (R385): the queue, the flash, the pins,
what was driven outward and the free values go on; memory has lost its contents. -/
def State.blank (s : State) : State :=
  { State.reset with pending := s.pending, mem := s.mem, stores := [.lose 0 (2 ^ 48) s.free], flash := s.flash, pins := s.pins, out := s.out,
                     free := s.free + 1,
                     pow := { PowerState.reset with vin := s.pow.vin, trip := s.pow.trip, tripLogged := s.pow.tripLogged, shutdown := s.pow.shutdown,
                                                    clean := s.pow.clean } }

/-- P4 (R368): the rails are off. -/
def State.goOff (s : State) : State :=
  let s := s.blank
  { s with pins := { s.pins with pwrGood := false }, pow := { s.pow with off := true } }

/-- Every Spoke whose link is up sends a going-down flit (R286, R370, R381). -/
def State.farewell (s : State) : State :=
  forAll ((List.finRange 8).filter fun p => s.link p == 2 || s.link p == 3) s fun s p => s.controlFlit p 5 0 [] 0

/-- Write the fatal records that are queued, in their order (R435). -/
def State.writeFatals (s : State) : Nat → State
  | 0 => s
  | n + 1 =>
    if s.events.any fun e => decide (eventSeverity e.cls e.code = .fatal) then (s.writeNext 0).writeFatals n else s

/-! ## Bring-up from the boot ROM (R373, R418) -/

/-- Steps 2 and 4 begin: the boot ROM samples MOD_POS and starts the firmware, and every Spoke with EN 1 equalises. -/
def State.bringUp (s : State) : State :=
  let s := s.setFld .clkPhys F.clkPhys_MOD_POS s.pins.pos.toNat
  let s := s.setReg .evrDrop (BitVec.ofNat 64 s.flash.drop)
  let s := ((s.setFld .clkPcycle F.clkPcycle_COUNT s.flash.pcycle).setFld .clkOpsec F.clkOpsec_SECONDS s.flash.opsec).showOdo
  let s := s.bootRom
  if s.phase = 4 then s
  else
    let s := s.setFld .clkBrstat F.clkBrstat_PHASE 1
    forAll ((List.finRange 8).filter fun p => s.flag (.spkLctl p) F.spkLctl_EN) s fun s p => s.equalise p

/-- Why the module was down, as CLK_RSTSTAT.CAUSE reports it (R370, R387, R471). -/
def State.powerCause (s : State) : Nat :=
  if s.pow.trip then (if s.pow.tripLogged then 4 else 6)
  else if s.pow.shutdown then 5
  else if s.pow.clean then 1
  else 6

/-- POWER_UP (R373, R439, R467): the input has reached 50 V. It does not start while THERM_TRIP_N is low (R471). -/
def State.powerUp (s : State) (pos : BitVec 6) : State :=
  if s.pow.off = false ∨ s.pins.thermTrip = false then s
  else
    let cause := s.powerCause
    let s := s.blank
    let flash : FlashState := { s.flash with pcycle := (s.flash.pcycle + 1) % 2 ^ 32 }
    let pins : Pins := { s.pins with pwrGood := true, alert := true, pos := pos }
    let pow : PowerState := { s.pow with off := false, vin := 500, trip := false, tripLogged := false, shutdown := false, clean := false }
    let s : State := { s with flash := flash, pins := pins, pow := pow }
    let s := s.setFld .clkPwrstat F.clkPwrstat_VIN 500
    let s := (s.setFld .clkRststat F.clkRststat_CAUSE cause).bringUp
    if s.phase = 4 then s else s.raiseEv 0 1 0x50 [(1, 1), (1, cause)]

/-- POWER_UP. -/
def execPowerUp (pos : BitVec 6) (s : State) : Host.Outcome State Fault Refusal := runs s fun s => s.powerUp pos

/-- INPUT_LOSS (R368): the input goes; THERM_TRIP_N is released below 40 V (R471). What the Odometer had not written is lost. -/
def State.inputLoss (s : State) : State :=
  let s := if s.pow.off then s else (s.setPow fun q => { q with clean := false }).goOff
  { s with pins := { s.pins with thermTrip := true }, pow := { s.pow with vin := 0 } }

/-- INPUT_LOSS. -/
def execInputLoss (s : State) : Host.Outcome State Fault Refusal := runs s State.inputLoss

/-! ## Module reset (R381) -/

/-- Bring-up after a module reset, which raises its event. -/
def State.restart (s : State) (cause : Nat) : State :=
  let s := ({ s with pow := { s.pow with inReset := false } }).bringUp
  if s.phase = 4 then s else s.raiseEv 0 1 0x50 [(1, 2), (1, cause)]

/-- A module reset: every unit stops, and the whole module loses its state but the identity key. `cause` is 2 for PERST_N, which holds the
module in reset while it is low, and 3 for a register or the watchdog; then bring-up runs again from its second step. -/
def State.moduleReset (s : State) (cause : Nat) : State :=
  let s := s.farewell.writeLife
  let b := s.blank
  let r : State := { b with
    time := s.time, pins := { b.pins with alert := true }, fw := { b.fw with opsecAt := s.fw.opsecAt, lifeAt := s.time },
    pow := { b.pow with off := false, inReset := cause == 2, goodAt := s.pow.goodAt, micro := s.pow.micro } }
  let r := (r.setFld .clkPwrstat F.clkPwrstat_VIN (s.fld .clkPwrstat F.clkPwrstat_VIN)).setReg .clkEnergy (s.reg .clkEnergy)
  let r := (r.setReg .hubIdstat (s.reg .hubIdstat)).setFld .clkBrstat F.clkBrstat_KEYOK (s.fld .clkBrstat F.clkBrstat_KEYOK)
  let r := r.setFld .clkRststat F.clkRststat_CAUSE cause
  if cause = 2 then r else r.restart cause

/-- MODULE_RESET: a write of CLK_RSTCMD with KIND 1 and its key. -/
def execModuleReset (priv : Priv) (key : BitVec 8) (s : State) : Host.Outcome State Fault Refusal :=
  runs s fun s => if priv = .job ∨ key ≠ 0xA5 ∨ s.pow.off = true then s else s.moduleReset 3

/-- PERST_ASSERT (R380, R467, R471): PERST_N falls, for 1 µs or more if `long`; it is ignored while PWR_GOOD is low and after a trip. -/
def execPerstAssert (long : Bool) (s : State) : Host.Outcome State Fault Refusal :=
  runs s fun s =>
    if s.pow.off = true ∨ s.pins.thermTrip = false ∨ long = false then s
    else { s with pins := { s.pins with perst := false } }.moduleReset 2

/-- PERST_DEASSERT (R373): PERST_N rises, and PCI Express link training may begin; a module that it held in reset comes up. -/
def execPerstDeassert (s : State) : Host.Outcome State Fault Refusal :=
  runs s fun s =>
    if s.pow.off then s
    else
      let s := { s with pins := { s.pins with perst := true } }
      if s.pow.inReset then s.restart 2 else s

/-! ## Shutdowns (R370, R371) -/

/-- The module shuts down after a fatal event: clusters stop, Spokes say goodbye, the record and a life-counter entry are written, and
the rails go off. -/
def State.shutdown (s : State) : State := ((s.farewell.writeFatals s.events.length).writeLife).goOff

/-- VOLTAGE_SHUTDOWN (R370): below 47 V for 100 µs or above 62 V for 10 µs. -/
def State.voltageShutdown (s : State) : State :=
  let vin := s.fld .clkPwrstat F.clkPwrstat_VIN
  let us := match s.pow.lowSince, s.pow.highSince with
    | some t, _ => (s.time - t) / 100
    | none, some t => (s.time - t) / 100
    | none, none => 0
  if s.pow.off = true ∨ (s.sinceFor s.pow.lowSince 10000 || s.sinceFor s.pow.highSince 1000) = false then s
  else (((s.raiseEv 0 1 0x21 [(2, vin), (4, us)]).setPow fun q => { q with shutdown := true }).shutdown)

/-- VOLTAGE_SHUTDOWN. -/
def execVoltageShutdown (s : State) : Host.Outcome State Fault Refusal := runs s State.voltageShutdown

/-- A thermal trip (R371, R470): THERM_TRIP_N falls and the module shuts down with its fatal record; a voltage shutdown that is due in the same
microsecond writes its record after it (R467). `unit` is a cluster, or 16 + a stack's number. -/
def State.thermalTrip (s : State) (unit temp : Nat) : State :=
  let s := s.raiseEv 0 1 0x32 [(1, unit), (1, temp)]
  let s := if s.sinceFor s.pow.lowSince 10000 || s.sinceFor s.pow.highSince 1000 then
      s.raiseEv 0 1 0x21 [(2, s.fld .clkPwrstat F.clkPwrstat_VIN), (4, 0)] else s
  let s := { s with pins := { s.pins with thermTrip := false } }.setPow fun q => { q with trip := true, tripLogged := true }
  s.shutdown

/-- THERMAL_COMPARATOR_TRIP (R470): a die sensor at 120 °C switches the rails off without waiting for the record. -/
def execThermalComparatorTrip (_d : Fin 2) (s : State) : Host.Outcome State Fault Refusal :=
  runs s fun s =>
    if s.pow.off then s
    else ({ s with pins := { s.pins with thermTrip := false } }.setPow fun q => { q with trip := true, tripLogged := false }).goOff

/-! ## The input voltage (R370) -/

/-- The input voltage changes while the module runs. -/
def State.voltage (s : State) (v : Nat) : State :=
  let was := s.pow.vin
  let s := (s.setFld .clkPwrstat F.clkPwrstat_VIN v).setPow fun q => { q with vin := v }
  let low := s.flag .clkPwrstat F.clkPwrstat_LOWV
  let s := s.setFld .clkPwrstat F.clkPwrstat_LOWV (b2n (decide (v < 500)))
  let s := if v < 500 ∧ low = false then s.raiseEv 0 1 0x20 [(2, v)] else s
  let us := match s.pow.highSince with
    | some t => (s.time - t) / 100
    | none => 0
  let report (s : State) : State := (s.setFld .clkPwrstat F.clkPwrstat_HIGHV 1).raiseEv 0 1 0x22 [(2, v), (4, us)]
  let s :=
    if was ≤ 600 then
      if 620 < v then s.setPow fun q => { q with highDue := true }
      else if 600 < v then report s
      else s
    else if v ≤ 620 ∧ s.pow.highDue = true then (report s).setPow fun q => { q with highDue := false }
    else s
  let lowS := s.since s.pow.lowSince (decide (v < 470))
  let highS := s.since s.pow.highSince (decide (620 < v))
  let s := s.setPow fun q => { q with lowSince := lowS, highSince := highS, highAt := if 600 < was ∨ 600 < v then s.time else q.highAt }
  s.showRates

/-- INPUT_VOLTAGE_CHANGE (R370): in 0.1 V. In P4 the module only notes whether the input fell below 40 V (R471). -/
def execInputVoltageChange (vin : BitVec 10) (s : State) : Host.Outcome State Fault Refusal :=
  runs s fun s =>
    let v := vin.toNat
    if s.pow.off then
      { s with pins := { s.pins with thermTrip := s.pins.thermTrip || decide (v < 400) }, pow := { s.pow with vin := v } }
    else s.voltage v

/-! ## Heat (R242, R371) -/

/-- A cluster measures its hottest point: half rate, forced Freewheel, or a trip. -/
def State.clusterTemp (s : State) (k : Fin 16) (t : Nat) : State :=
  let r : Reg := .cluDrlstat k
  let s := (s.setFld r F.cluDrlstat_TEMP t).setFld r F.cluDrlstat_TVALID 1
  let d := dieOfCluster k
  if 110 ≤ t then s.thermalTrip k.val t
  else
    let tlim := s.fld .clkThctl F.clkThctl_TLIM
    let fwlim := s.fld .clkThctl F.clkThctl_FWLIM
    let s :=
      if tlim ≤ t then
        let was := s.pow.hot.has k
        let s := s.setPow fun q => { q with hot := q.hot.set k 0 }
        if was then s else s.raiseEv d 1 0x30 [(1, k.val), (1, t)]
      else if s.pow.hot.has k = false then s
      else if t + 3 ≤ tlim then
        -- 0 stands for a cluster that has not come down to TLIM − 3 since
        let since := s.pow.hot.get k 0
        if since = 0 then s.setPow fun q => { q with hot := q.hot.set k (s.time + 1) }
        else if since - 1 + 1000000 ≤ s.time then s.setPow fun q => { q with hot := q.hot.del k }
        else s
      else s.setPow fun q => { q with hot := q.hot.set k 0 }
    let s :=
      if fwlim ≤ t then
        if s.pow.heat.contains k then s
        else
          let s := (s.setPow fun q => { q with heat := q.heat ++ [k] }).raiseEv d 1 0x31 [(1, k.val), (1, t)]
          if s.pstate k = 0 ∨ s.pstate k = 3 then s.enterP1 k 5 else s
      else if t ≤ tlim ∧ s.pow.heat.contains k = true then (s.setPow fun q => { q with heat := q.heat.erase k }).unforce k 5
      else s
    (s.showRate k).showAlert

/-- CLUSTER_TEMP_MEASURE (R371): of a cluster that has power. -/
def execClusterTempMeasure (k : Fin 16) (temp : BitVec 8) (s : State) : Host.Outcome State Fault Refusal :=
  runs s fun s => if s.pow.off = true ∨ s.pstate k = 2 ∨ s.pstate k = 4 then s else s.clusterTemp k temp.toNat

/-- The band of a temperature (R242): 0 to 2 as BAND encodes them, 3 for 105-110 °C. -/
def tempBand (t : Nat) : Nat := if t ≤ 85 then 0 else if t ≤ 95 then 1 else if t ≤ 105 then 2 else 3

/-- The temperature at or below which a stack may move out of a band to the next cooler one. -/
def coolLimit (band : Nat) : Nat := if band = 3 then 103 else if band = 2 then 93 else 83

/-- A stack moves to a band. -/
def State.setBand (s : State) (d : Fin 2) (m : Fin 12) (old new t : Nat) : State :=
  let s := s.setFld (.stkStat d m) F.stkStat_BAND (min new 2)
  let s := s.setPow fun q => { q with bandSince := q.bandSince.del (d, m),
                                      stackHot := if new = 3 then (d, m) :: q.stackHot.erase (d, m) else q.stackHot.erase (d, m) }
  let s := if old = new then s else s.raiseEv d 2 0x40 [(1, m.val), (1, old), (1, new), (1, t)]
  if new = 3 ∧ old ≠ 3 then (s.raiseEv d 2 0x41 [(1, m.val), (1, t)]).raiseEv d 1 0x30 [(1, 16 + 12 * d.val + m.val), (1, t)] else s

/-- A stack measures its hottest die: its refresh band moves at once to a hotter band, and to the next cooler one after 10 ms. -/
def State.stackTemp (s : State) (d : Fin 2) (m : Fin 12) (t : Nat) : State :=
  let r : Reg := .stkStat d m
  let valid := s.flag r F.stkStat_TVALID
  let old := if s.pow.stackHot.contains (d, m) then 3 else s.fld r F.stkStat_BAND
  let s := (s.setFld r F.stkStat_TEMP t).setFld r F.stkStat_TVALID 1
  if 110 < t then (s.raiseEv d 2 0x42 [(1, m.val), (1, t)]).thermalTrip (16 + 12 * d.val + m.val) t
  else
    let new := tempBand t
    let s :=
      if valid = false ∨ old < new then s.setBand d m old new t
      else if t ≤ coolLimit old ∧ 0 < old then
        match s.pow.bandSince.find? fun q => q.1 == (d, m) with
        | none => s.setPow fun q => { q with bandSince := q.bandSince.set (d, m) s.time }
        | some q => if q.2 + 1000000 ≤ s.time then s.setBand d m old (old - 1) t else s
      else s.setPow fun q => { q with bandSince := q.bandSince.del (d, m) }
    s.showRates

/-- STACK_TEMP_MEASURE (R242): of a stack whose die's training has ended and which is not in self-refresh. -/
def execStackTempMeasure (d : Fin 2) (m : Fin 12) (temp : BitVec 8) (s : State) : Host.Outcome State Fault Refusal :=
  runs s fun s =>
    if s.pow.off = true ∨ s.pow.trained.contains d = false ∨ s.flag (.stkStat d m) F.stkStat_SREF = true then s else s.stackTemp d m temp.toNat

end Sys2Proof.Machine
end

