-- ==== Sys2Proof/Machine/Bringup.lean ====
section
/-!
DEFINITION. The steps of bring-up (R373, R374, R377, R378), the unit map (R351, R352), the Hub debug window (R376), and the die
reset and cluster restart (R383, R384).
-/

namespace Sys2Proof.Machine

/-! ## Step 6: the unit map -/

/-- Continue bring-up past step 6: DRAM training begins, and the scrubbers pause until it has ended (R244). -/
def State.stepSix (s : State) : State :=
  if s.phase = 1 then
    let s := (s.setFld .clkBrstat F.clkBrstat_PHASE 2).setPow fun q => { q with mapped := true }
    forAll (List.finRange 2) s fun s d => s.setPaused d true
  else s

/-- BEGIN (R373): bring-up continues without a unit map. -/
def execBegin (priv : Priv) (s : State) : Host.Outcome State Fault Refusal := runs s fun s => if priv = .job then s else s.stepSix

/-- The entries of a unit map. -/
def mapEntries (m : List Byte) : List Word :=
  (List.range (mField m 8 4)).map fun i => BitVec.ofNat 64 (mField m (64 + 8 * i) 8)

/-- Whether a unit map's header has the form of R351. -/
def mapHeaderOk (h : List Byte) (kind : Nat) : Bool :=
  mField h 0 4 == 0x504D4E55 && mField h 4 2 == 1 && mField h 6 2 == kind && decide (mField h 8 4 ≤ 65536) && mField h 12 4 == 0 &&
  (h.drop 48).all (· == 0)

/-- Whether a map names this module. -/
def serialOk (h : List Byte) : Bool := (h.drop 16).take 32 == (List.range 32).map Config.serial

/-- A load is refused (R352). The event names no unit and no die: its source 141 is that of Yalar-0's controller (DESIGN CHOICE, log entry
75). -/
def State.mapRefuse (s : State) (kind why : Nat) : State :=
  (s.setFld .intUmstat F.intUmstat_WHY why).raiseEv 0 4 0x8041 [(1, kind), (1, why)]

/-- Why a map is refused: 1 signature, 2 serial, 3 malformed, 4 a second base map. -/
def State.mapFault (s : State) (kind : Nat) (m : List Byte) : Option Nat :=
  let n := 64 + 8 * mField m 8 4
  if kind = 0 ∧ rsaVerify 2 ((m.drop n).take 384) (m.take n) = false then some 1
  else if serialOk m = false then some 2
  else if (mapEntries m).any fun u => !unitOk u then some 3
  else if kind = 0 ∧ s.flag .intUmstat F.intUmstat_BASE = true then some 4
  else none

/-- Fence the units that a map names. -/
def State.fenceMap (s : State) (m : List Byte) : State :=
  forAll (mapEntries m) s fun s u =>
    if s.isFenced u then s
    else (s.setFld .intUmstat F.intUmstat_FENCED (min (s.fld .intUmstat F.intUmstat_FENCED + 1) 65535)).fence u 0 255

/-- What the Hub reads of a map, with whether an uncorrectable word was met; none where the address may not be named (R374). -/
def State.mapRead (s : State) (a n : Nat) : Option (State × List Byte × Bool) :=
  let base := 0xFF0000100000
  if base ≤ a ∧ a + n ≤ base + 0x100000 then some (s, s.mapBytes (a - base) n, true)
  else if s.flag .clkBrstat F.clkBrstat_DRAM0 = true ∧ s.flag .clkBrstat F.clkBrstat_DRAM1 = true ∧ s.dramRange a n = true then
    let r := s.readRange .hub a n
    some (r.1, r.1.bytes a n, r.2.isNone)
  else none

/-- INT_UMCMD (R352): verify a map and fence what it names. A base map ends step 6 of bring-up. -/
def State.loadMap (s : State) (kind : Nat) : State :=
  let a := s.fld .intUmaddr F.intUmaddr_ADDR * 64
  match s.mapRead a 64 with
  | none => s
  | some (s, h, ok) =>
    if ok = false then s.mapRefuse kind 5
    else if mapHeaderOk h kind = false then s.mapRefuse kind 3
    else match s.mapRead a (64 + 8 * mField h 8 4 + (if kind = 0 then 384 else 0)) with
      | none => s
      | some (s, m, ok) =>
        if ok = false then s.mapRefuse kind 5
        else match s.mapFault kind m with
          | some why => s.mapRefuse kind why
          | none =>
            let s := s.fenceMap m
            if kind = 0 then ({ s with fw := { s.fw with baseMap := m } }.setFld .intUmstat F.intUmstat_BASE 1).stepSix else s

/-- UNIT_MAP_LOAD_BASE (R352). -/
def execUnitMapLoadBase (priv : Priv) (s : State) : Host.Outcome State Fault Refusal :=
  runs s fun s => if priv = .job ∨ s.hubRuns = false then s else s.loadMap 0

/-- UNIT_MAP_LOAD_SUPPLEMENT (R352). -/
def execUnitMapLoadSupplement (priv : Priv) (s : State) : Host.Outcome State Fault Refusal :=
  runs s fun s => if priv = .job ∨ s.hubRuns = false then s else s.loadMap 1

/-! ## Steps 7 and 8: DRAM -/

/-- Whether bring-up work runs: past step 6, and not in recovery. -/
def State.raising (s : State) : Bool := s.hubRuns && (s.phase == 2 || s.phase == 3)

/-- DRAM_TRAINING_COMPLETE (R246): a die's stacks have trained but those that the unit map marks out and those that fail; the scrubber
goes on (R244). -/
def execDramTrainingComplete (d : Fin 2) (failed : BitVec 12) (s : State) : Host.Outcome State Fault Refusal :=
  runs s fun s =>
    if s.raising = false ∨ s.pow.trained.contains d = true then s
    else
      let s := (s.setPow fun q => { q with trained := q.trained ++ [d] }).setPaused d (s.flag .clkRststat F.clkRststat_INP3)
      forAll (List.finRange 12) s fun s m =>
        let u := unitId 9 (12 * d.val + m.val) 0
        if s.isFenced u then s
        else if bit failed m.val then s.raiseEv 0 1 0x03 [(1, 7), (8, u.toNat)]
        else s.setFld (.stkStat d m) F.stkStat_TRAINED 1

/-- The rows of a die to map to spares at bring-up (R246): the unit map's, then those that failed the test. -/
def State.badRows (s : State) (d : Fin 2) (rows : List (Fin 12 × BitVec 5 × BitVec 6 × BitVec 14)) : List RowJob :=
  let known := (s.int.fenced.map fun (u : Nat) => (BitVec.ofNat 64 u : Word)).filter fun u => unitKind u == 0xA && unitDie u == d
  let all := known.map unitRow ++ rows.map fun q => { d := d, m := q.1, pc := q.2.1.toNat, bank := q.2.2.1.toNat, row := q.2.2.2.toNat, why := 3 }
  all.foldl (fun l r => if l.any fun q => q.same r then l else l ++ [r]) []

/-- Whether a bank of a stack needs more than its 16 spare rows. -/
def spent (l : List RowJob) (m : Fin 12) : Bool :=
  (l.filter fun r => r.m == m).any fun r => decide (16 < (l.filter fun q => q.m == m && q.pc == r.pc && q.bank == r.bank).length)

/-- Set bits of a list of stacks. -/
def stackBits (l : List (Fin 12)) : Nat := l.foldl (fun n m => n + 2 ^ m.val) 0

/-- The clusters of a die. -/
def clustersOf (d : Fin 2) : List (Fin 16) := (List.finRange 16).filter fun k => dieOfCluster k == d

/-- A cluster that has not been tested shows no unit as tested (R232). -/
def State.untestCluster (s : State) (k : Fin 16) : State :=
  let s := (s.setReg (.cluCstat k) 0).setFld (.cluDrlstat k) F.cluDrlstat_PSTATE 2
  (forAll (coresOf k) s fun s c => s.setReg (.coreCstat c) 0).showRate k

/-- CLUDONE: every cluster has been tested but those of a die without DRAM (R232, R373). -/
def State.showCluDone (s : State) : State :=
  let done (k : Fin 16) : Bool :=
    let d := dieOfCluster k
    s.pow.tested.contains k || (s.flag .clkBrstat (if d = 0 then F.clkBrstat_DRAM0 else F.clkBrstat_DRAM1) && s.fld (.memCfg d) F.memCfg_NSTK == 0)
  s.setFld .clkBrstat F.clkBrstat_CLUDONE (b2n ((List.finRange 16).all done))

/-- MEMORY_TEST_COMPLETE (R246): a die's repair map is built, its stacks in use are known, and its Kickstand service begins. The reason
in event 0x02:0x0030 is 0 for a stack that the unit map marks out, 1 for failed training and 2 for too few spare rows (DESIGN CHOICE, log
entry 75). -/
def execMemoryTestComplete (d : Fin 2) (rows : List (Fin 12 × BitVec 5 × BitVec 6 × BitVec 14)) (s : State) : Host.Outcome State Fault Refusal :=
  runs s fun s =>
    let flag := if d = 0 then F.clkBrstat_DRAM0 else F.clkBrstat_DRAM1
    if s.raising = false ∨ s.pow.trained.contains d = false ∨ s.flag .clkBrstat flag = true then s
    else
      let bad := s.badRows d rows
      let usable := (List.finRange 12).filter fun m => s.flag (.stkStat d m) F.stkStat_TRAINED && !spent bad m
      let n := usable.length
      let s := (s.setFld (.memCfg d) F.memCfg_NSTK n).setFld (.memCfg d) F.memCfg_STKOK (stackBits usable)
      let s := forAll (bad.filter fun r => usable.contains r.m) s fun s r => s.mapRow r false
      let s := forAll (List.finRange 12) s fun s m =>
        if usable.contains m then s.setFld (.stkStat d m) F.stkStat_USABLE 1
        else
          let why := if s.isFenced (unitId 9 (12 * d.val + m.val) 0) then 0 else if s.flag (.stkStat d m) F.stkStat_TRAINED then 2 else 1
          let s := s.raiseEv d 2 0x30 [(1, d.val), (1, m.val), (1, why), (1, n)]
          if why = 2 then s.raiseEv 0 1 0x03 [(1, 8), (8, (unitId 9 (12 * d.val + m.val) 0).toNat)] else s
      let s := (s.setFld .clkBrstat flag 1).showSlow d
      let s := if n = 0 then forAll (clustersOf d) s fun s k => s.untestCluster k else s
      s.showCluDone

/-! ## Step 9: clusters -/

/-- A cluster's power comes on with its stores filled with zeros, and its tested units show as usable. -/
def State.raiseCluster (s : State) (k : Fin 16) : State :=
  let s := forAll (coresOf k) s fun s c => s.zeroRange (cassetteBase c) (cassetteBase c + 0x200000)
  let s := s.zeroRange (scratchBase k) (scratchBase k + s.fld (.cluCccfg k) F.cluCccfg_SCRW * 2 ^ 24)
  let s := forAll (coresOf k) s fun s c => s.setReg (.coreCstat c) 0xBF
  let s := ((s.tracePower k 0 2).setReg (.cluCstat k) 0x1FFFF).setFld (.cluDrlstat k) F.cluDrlstat_PSTATE 0
  s.setPow fun q => { q with tested := q.tested ++ [k] }

/-- The fenced units of a cluster take effect (R352). -/
def State.fenceKnown (s : State) (k : Fin 16) : State :=
  let l := (s.int.fenced.map fun (u : Nat) => (BitVec.ofNat 64 u : Word)).filter fun u =>
    match unitCore u with
    | some c => clusterOf c == k
    | none => (unitKind u == 6 || unitKind u == 7) && unitIndex u == k.val
  forAll l s fun s u => s.fenceEffect u

/-- Fence the units of a cluster that failed their test. -/
def State.fenceFailed (s : State) (k : Fin 16) (whole : Bool) (failed : List Word) (event : Bool) : State :=
  let l := if whole then [unitId 7 k.val 0] else failed.filter fun u => unitOk u && match unitCore u with
    | some c => clusterOf c == k
    | none => unitKind u == 6 && unitIndex u == k.val
  forAll l s fun s u =>
    let s := s.fence u 3 255
    if event then s.raiseEv 0 1 0x03 [(1, 9), (8, u.toNat)] else s

/-- CLUSTER_SELF_TEST_COMPLETE (R373, R378, R384): of bring-up's step 9, or of a cluster restart. -/
def execClusterSelfTestComplete (k : Fin 16) (whole : Bool) (failed : List Word) (s : State) : Host.Outcome State Fault Refusal :=
  runs s fun s =>
    let d := dieOfCluster k
    let dram := s.flag .clkBrstat (if d = 0 then F.clkBrstat_DRAM0 else F.clkBrstat_DRAM1)
    if s.pow.restart.contains k then
      let s := s.setPow fun q => { q with restart := q.restart.erase k, wakeAt := q.wakeAt.del k, wakeP2 := q.wakeP2.erase k }
      let s := ((s.tracePower k 0 2).setFld (.cluDrlstat k) F.cluDrlstat_PSTATE 0).applyHeld k
      ((s.fenceFailed k whole failed false).showRate k).showAlert
    else if s.raising = false ∨ s.pow.tested.contains k = true ∨ (dram = true ∧ s.fld (.memCfg d) F.memCfg_NSTK = 0) then s
    else (((((s.raiseCluster k).fenceKnown k).fenceFailed k whole failed true).showCluDone).showRate k).showAlert

/-! ## Steps 5 and 11 -/

/-- IDENTITY_KEY_DERIVED (R430, R378): whether the helper data could be used and the key matches its certificate. -/
def execIdentityKeyDerived (helper same : Bool) (s : State) : Host.Outcome State Fault Refusal :=
  runs s fun s =>
    if s.hubRuns = false ∨ s.flag .clkBrstat F.clkBrstat_KEYOK = true then s
    else if helper = false then (s.setFld .hubIdstat F.hubIdstat_HELPERBAD 1).raiseEv 0 1 0x03 [(1, 5), (8, 0)]
    else if same = false then
      ((s.setFld .hubIdstat F.hubIdstat_CERTOK 0).raiseEv 0 6 0x41 [(32, ofBytes Config.identityDigest)]).raiseEv 0 1 0x03 [(1, 5), (8, 0)]
    else (s.setFld .hubIdstat F.hubIdstat_CERTOK 1).setFld .clkBrstat F.clkBrstat_KEYOK 1

/-- FULL_SERVICE (R377): once steps 4, 5, 8 and 9 are done on both dies. -/
def execFullService (s : State) : Host.Outcome State Fault Refusal :=
  runs s fun s =>
    let on (f : Nat × Nat) : Bool := s.flag .clkBrstat f
    if s.phase ≠ 2 ∨ (on F.clkBrstat_EQDONE && on F.clkBrstat_KEYOK && on F.clkBrstat_DRAM0 && on F.clkBrstat_DRAM1 && on F.clkBrstat_CLUDONE) = false then s
    else
      let ms := min ((s.time - s.pow.goodAt) / 100000) (2 ^ 24 - 1)
      let s := (s.setFld .clkBrstat F.clkBrstat_PHASE 3).setFld .clkBrstat F.clkBrstat_FULLMS ms
      let s := { s with fw := { s.fw with since := some s.time } }
      (s.raiseEv 0 1 0x02 [(3, ms), (2, s.int.fenced.length), (1, s.fld (.memCfg 0) F.memCfg_NSTK), (1, s.fld (.memCfg 1) F.memCfg_NSTK)]).showRates

/-! ## The debug window (R376) -/

/-- DEBUG_COPY: the row that HUB_DBGSEL names is copied once its slot is not busy. -/
def execDebugCopy (s : State) : Host.Outcome State Fault Refusal :=
  runs s fun s =>
    let c : Fin 256 := Fin.ofNat _ (s.fld .hubDbgsel F.hubDbgsel_CORE)
    let i : A3 := Fin.ofNat _ (s.fld .hubDbgsel F.hubDbgsel_SLOT)
    let row := s.fld .hubDbgsel F.hubDbgsel_ROW
    let p := s.pstate (clusterOf c)
    if s.pow.debug = false then s
    else if s.flag (.coreCstat c) F.coreCstat_USABLE = false ∨ p = 2 ∨ p = 4 then
      (s.setFld .hubDbgstat F.hubDbgstat_ERR 1).setPow fun q => { q with debug := false }
    else if s.slotBusy c i then s
    else
      let el (n : Nat) : Elem := (s.slot c i).elems.get (32 * row + n) Elem.zero
      let s := (List.finRange 64).foldl (fun s w =>
        s.setReg (.hubDbgdata w) (BitVec.ofNat 64 ((el (w.val / 2)).k.toNat / 2 ^ (64 * (w.val % 2))))) s
      let s := s.setReg .hubDbgst2 (BitVec.ofNat 64 ((List.range 32).foldl (fun v n => v + (el n).st.code * 4 ^ n) 0))
      (s.setFld .hubDbgstat F.hubDbgstat_DONE 1).setPow fun q => { q with debug := false }

/-! ## Die reset (R383) and cluster restart (R384) -/

/-- The die's state returns to what it is after power-up, with its contents lost. -/
def State.wipeDie (s : State) (d : Fin 2) : State :=
  let ours (c : Fin 256) : Bool := dieOf c == d
  let core : CoreState := { s.core with
    ctxs := s.core.ctxs.filter fun q => !ours q.1.core
    slots := s.core.slots.filter fun q => !ours q.1.core
    owners := s.core.owners.filter fun q => !ours q.1.core
    bg := s.core.bg.filter fun g => !ours g.x.core
    faults := s.core.faults.filter fun f => !ours f.x.core
    signals := s.core.signals.filter fun f => !ours f.x.core
    heldAdds := s.core.heldAdds.filter fun h => !ours h.1
    cache := s.core.cache.filter fun l => dieOfCluster l.k != d
    clock := s.core.clock.filter fun q => dieOfCluster q.1 != d }
  let keep : UpkeepState := { s.keep with
    rows := s.keep.rows.filter fun r => r.d != d
    spares := s.keep.spares.filter fun q => q.1.1 != d
    mapped := s.keep.mapped.filter fun q => q.1 != d
    corrected := s.keep.corrected.filter fun q => q.1 * 32 / 2 ^ 40 != d.val
    pass := s.keep.pass.del d
    refresh := s.keep.refresh.filter fun q => q.1.1 != d
    cluPos := s.keep.cluPos.filter fun q => dieOfCluster q.1 != d }
  let out (k : Fin 16) : Bool := dieOfCluster k != d
  let int : IntState := { s.int with tests := s.int.tests.filter fun t => unitDie (BitVec.ofNat 64 t.unit) != d }
  let s := { s with core := core, keep := keep, int := int, regs := s.regs.filter fun q => !q.1.onDie d, moved := s.moved.filter fun m => !ours m.x.core }
  let s := s.setPow fun q => { q with
    trained := q.trained.erase d, tested := q.tested.filter out, forced := q.forced.filter out, heat := q.heat.filter out,
    hot := q.hot.filter fun h => out h.1, bandSince := q.bandSince.filter fun b => b.1.1 != d, stackHot := q.stackHot.filter fun b => b.1 != d,
    idleSince := q.idleSince.filter fun h => out h.1, wakeAt := q.wakeAt.filter fun h => out h.1, wakeP2 := q.wakeP2.filter out,
    restart := q.restart.filter out, fwSince := q.fwSince.filter fun h => out h.1, pllTries := q.pllTries.filter fun h => out h.1 }
  let s := (s.lose (d.val * 2 ^ 40) (d.val * 2 ^ 40 + 2 ^ 40))
  let s := s.lose (cassetteBase (Fin.ofNat _ (128 * d.val))) (cassetteBase (Fin.ofNat _ (128 * d.val)) + 128 * 0x400000)
  s.lose (scratchBase (Fin.ofNat _ (8 * d.val))) (scratchBase (Fin.ofNat _ (8 * d.val)) + 8 * 0x03000000)

/-- DIE_RESET (R383). -/
def State.dieReset (s : State) (d : Fin 2) : State :=
  let busy := (List.finRange 256).any fun c => dieOf c == d && s.fld (.coreSqstat c) F.coreSqstat_STATE != 0
  if busy ∨ s.plt.pelotons ≠ [] ∨ (d = 1 ∧ s.tandem = true) then
    (s.setFld .clkRststat F.clkRststat_RSTREJ 1).raiseEv 0 1 0x51 [(1, 2 + d.val), (2, s.residents), (2, s.plt.pelotons.length)]
  else
    let own := (List.finRange 8).filter fun p => dieOfSpoke p == d
    let s := forAll own s fun s p => s.goDown p 4
    let s := (s.wipeDie d).setPaused d true
    let s := s.setFld .clkBrstat (if d = 0 then F.clkBrstat_DRAM0 else F.clkBrstat_DRAM1) 0
    let s := s.setFld .clkBrstat F.clkBrstat_CLUDONE 0
    let s := (s.setFld .hubFwucmix (8 * d.val, 8) 0).setFld .hubFwucmix (16 + 4 * d.val, 4) 0
    let s := forAll own s fun s p =>
      let v := s.spoke p
      let s := s.setSpoke p { Spoke.reset with retry := v.retry, probing := v.probing, probeAt := v.probeAt, discs := v.discs, discAt := v.discAt }
      if s.spokeFenced p then (s.setFld (.spkLctl p) F.spkLctl_EN 0).setLink p 0 else s.equalise p
    (s.raiseEv 0 1 0x50 [(1, 4), (1, 3)]).showAlert

/-- DIE_RESET: a write of CLK_RSTCMD with KIND 2 or 3 and its key. -/
def execDieReset (priv : Priv) (d : Fin 2) (key : BitVec 8) (s : State) : Host.Outcome State Fault Refusal :=
  runs s fun s => if priv = .job ∨ key ≠ 0xA5 ∨ s.hubRuns = false then s else s.dieReset d

/-- A cluster restart (R384): every context is reset, the cluster goes through P2, and its units are tested before it runs again. -/
def State.restartCluster (s : State) (k : Fin 16) : State :=
  if s.pstate k = 4 ∨ s.isFenced (unitId 7 k.val 0) = true ∨ s.pow.tested.contains k = false then s
  else
    let s := forAll (cluCtxs k) s fun s x => s.resetHard x
    let s := { s with moved := s.moved.filter fun m => clusterOf m.x.core != k }
    let s := if s.pstate k = 2 then s else s.enterP2 k
    let s := (s.wakeP2 k).setPow fun q => { q with restart := q.restart ++ [k] }
    (s.raiseEv (dieOfCluster k) 1 0x50 [(1, 5), (1, 3)]).showAlert

/-- CLUSTER_RESTART: a write of CLUk_DRLCTL.RESTART. -/
def execClusterRestart (priv : Priv) (k : Fin 16) (s : State) : Host.Outcome State Fault Refusal :=
  runs s fun s => if priv = .job then s else s.restartCluster k

end Sys2Proof.Machine
end

