-- ==== Sys2Proof/Machine/Pelotons.lean ====
section
/-!
DEFINITION. The commands of HUB_PLTCMD (R294-R297): reading and checking a peloton descriptor, opening, closing and replacing
a peloton.
-/

namespace Sys2Proof.Machine

/-- A field of a peloton descriptor, by its lowest bit and width (R295). -/
def pltField (v lo width : Nat) : Nat := v / 2 ^ lo % 2 ^ width

/-- A descriptor's fields from its 1,024 bytes as one number (R295). -/
def parsePlt (v dhash : Nat) : PltDesc :=
  let n := pltField v 24 6 + 1
  { axes := pltField v 16 3, sdim := pltField v 20 1 == 1, slotok := pltField v 21 1 == 1, jts1 := pltField v 22 1 == 1, nshare := n,
    epoch := pltField v 32 8, prio := pltField v 40 8, nexp := pltField v 48 12, gbase := pltField v 64 48, gsize := pltField v 112 16,
    shares := (List.range n).map fun i => pltField v (512 + 16 * i) 14, dhash := dhash }

/-- The modules that an opening module's axes and block make the members of a peloton (R294). -/
def State.memberSet (s : State) (blk : Word) (axes : Nat) : List Nat :=
  let me := s.lmn
  let ok (m : Nat) (bit lo : Nat) (mask : Nat × Nat) : Bool :=
    (getBits blk mask).testBit (m / lo % 4) && (axes.testBit bit || m / lo % 4 == me / lo % 4)
  ((List.range 64).map fun i => me / 64 * 64 + i).filter fun m =>
    ok m 0 1 F.spkmBlk_XMASK && ok m 1 4 F.spkmBlk_YMASK && ok m 2 16 F.spkmBlk_ZMASK

/-- Whether a descriptor breaks one of the checks of refusal reason 3 (R295-R297). -/
def State.badPlt (s : State) (blk : Word) (v handle : Nat) : Bool :=
  let d := parsePlt v 0
  let members := s.memberSet blk d.axes
  let share (i : Nat) : Nat := pltField v (512 + 16 * i) 16
  let dram (a : Nat) : Bool := decide (a < 0x020000000000) && (s.place .driver a).isSome
  pltField v 0 14 != handle || pltField v 14 2 != 0 || d.axes == 0 || pltField v 19 1 != 0 || pltField v 23 1 != 0 ||
  pltField v 30 2 != 0 || pltField v 60 4 != 0 || pltField v 128 384 != 0 || pltField v 1536 6656 != 0 ||
  !((List.range 64).all fun i =>
      if i < d.nshare then share i / 2 ^ 14 == 2 && members.contains (share i % 2 ^ 14) else share i == 0) ||
  !(members.all fun m => d.shares.contains m) || d.nexp % d.nshare != 0 ||
  (d.gbase != 0 && (d.gbase % 64 != 0 || !dram d.gbase || !dram (d.gbase + d.gsize * 2 ^ 20 - 1)))

/-- Read a descriptor as the Hub does: its value and hash, or the refusal reason. A descriptor that lies outside DRAM is refused
as one that breaks its checks (log entry 47). -/
def State.readPlt (s : State) (addr : Nat) : State × Except Nat (Nat × Nat) :=
  if 0x020000000000 ≤ addr ∨ (s.place .driver addr).isNone = true ∨ (s.place .driver (addr + 1023)).isNone = true then (s, .error 3)
  else match s.readRange .hub addr 1024 with
    | (s, some _) => (s, .error 6)
    | (s, none) => let bs := s.bytes addr 1024; (s, .ok (ofBytes bs, crc64 bs))

/-- A peloton command is refused (R297). -/
def State.pltRefuse (s : State) (why : Nat) : State :=
  (s.setFld .hubPltstat F.hubPltstat_REJ 1).setFld .hubPltstat F.hubPltstat_WHY why

/-- A peloton command is complete. -/
def State.pltDone (s : State) (handle : Nat) : State := s.setFld .hubPltstat F.hubPltstat_LASTH handle

/-- The descriptor of a peloton that an OPEN or a REPLACE names, read and checked; or the refusal reason (R297). -/
def State.checkedPlt (s : State) (blk : Word) (handle addr : Nat) : State × Except Nat PltDesc :=
  match s.readPlt addr with
  | (s, .error w) => (s, .error w)
  | (s, .ok (v, h)) => (s, if s.badPlt blk v handle then .error 3 else .ok (parsePlt v h))

/-- OPEN (R297): the descriptor is read, checked against the job's block and hashed; `taken` is whether the handle is open, and `add`
what the peloton joins. -/
def State.pltOpenAs (s : State) (blk : Word) (handle addr : Nat) (taken : Bool) (add : Peloton → State → State) : State :=
  if s.phase ≠ 3 then s.kickRefuse 1 0
  else if handle = 0 ∨ taken = true then s.pltRefuse 1
  else if 1024 ≤ s.plt.pelotons.length then s.pltRefuse 2
  else match s.checkedPlt blk handle addr with
    | (s, .error w) => s.pltRefuse w
    | (s, .ok d) => (add { handle := handle, desc := d, old := none, next := none, early := false } s).pltDone handle

/-- An OPEN that is written directly. -/
def State.pltOpen (s : State) (blk : Word) (handle addr : Nat) : State :=
  s.pltOpenAs blk handle addr (s.openHandle handle) fun p s => { s with plt := { s.plt with pelotons := s.plt.pelotons ++ [p] } }

/-- A staged OPEN (R164): its peloton serves the items of the generation that is being installed. -/
def State.pltOpenBeside (s : State) (blk : Word) (handle addr : Nat) : State :=
  s.pltOpenAs blk handle addr ((s.gen.opening.any fun p => p.handle == handle) ||
    (s.openHandle handle && !s.gen.closing.contains handle)) fun p s =>
      { s with gen := { s.gen with opening := s.gen.opening ++ [p] } }

/-- Whether a collective or an open bracket uses a handle (R297). -/
def State.handleUsed (s : State) (handle : Nat) : Bool :=
  (s.plt.colls.any fun c => c.ph == handle && !c.closed) ||
  (s.core.ctxs.any fun q => match q.2.bracket with
    | some b => b.op.ph == handle && b.op.ph != 0
    | none => false)

/-- Nothing of a handle stays. -/
def State.forgetHandle (s : State) (handle : Nat) : State :=
  { s with plt := { s.plt with
      attempts := s.plt.attempts.filter fun a => a.op.ph != handle
      colls := s.plt.colls.filter fun c => c.ph != handle
      slots := s.plt.slots.filter fun r => r.ph != handle
      regions := s.plt.regions.filter fun r => r.ph != handle
      cache := s.plt.cache.filter fun e => e.ph != handle } }

/-- A peloton is no longer open. -/
def State.dropPeloton (s : State) (handle : Nat) : State :=
  { s with plt := { s.plt with pelotons := s.plt.pelotons.filter fun p => p.handle != handle } }

/-- CLOSE (R297): nothing of the handle stays. -/
def State.pltClose (s : State) (handle : Nat) : State :=
  if s.openHandle handle = false then s.pltRefuse 1
  else if s.handleUsed handle then s.pltRefuse 4
  else ((s.dropPeloton handle).forgetHandle handle).pltDone handle

/-- A staged CLOSE (R164): the items of the generation that is being installed find the handle closed, while those of the live one keep
its peloton until they are gone. -/
def State.pltCloseBeside (s : State) (handle : Nat) : State :=
  if s.gen.opening.any fun p => p.handle == handle then
    ({ s with gen := { s.gen with opening := s.gen.opening.filter fun p => p.handle != handle } }).pltDone handle
  else if s.openHandle handle = false ∨ s.gen.closing.contains handle = true then s.pltRefuse 1
  else ({ s with gen := { s.gen with closing := s.gen.closing ++ [handle] } }).pltDone handle

/-- A staged REPLACE (R297, R317): its descriptor serves the items of the generation that is being installed. -/
def State.pltReplace (s : State) (blk : Word) (handle addr : Nat) : State :=
  match s.peloton handle with
  | none => s.pltRefuse 1
  | some p =>
    match s.checkedPlt blk handle addr with
    | (s, .error w) => s.pltRefuse w
    | (s, .ok d) =>
      let same := d.epoch == p.desc.epoch
      if (same && (d.axes != p.desc.axes || d.sdim != p.desc.sdim || d.nshare != p.desc.nshare || d.nexp != p.desc.nexp)) ||
          (!same && d.epoch != (p.desc.epoch + 1) % 256) then s.pltRefuse 5
      else
        ({ s with plt := { s.plt with pelotons := s.plt.pelotons.map fun (q : Peloton) =>
            if q.handle = handle then { q with next := some d } else q } }).pltDone handle

/-- A REPLACE that is written directly: a handle that is open makes a job resident, so it is refused (R297). -/
def State.pltReplaceDirect (s : State) (handle : Nat) : State :=
  if s.openHandle handle = false then s.pltRefuse 1 else s.pltRefuse 7

/-- A write of HUB_PLTCMD (R297). -/
def State.pltCommand (s : State) (cmd handle addr : Nat) : State :=
  if cmd = 1 then s.pltOpen (s.reg .spkmBlk) handle addr
  else if cmd = 2 then s.pltClose handle
  else if cmd = 3 then s.pltReplaceDirect handle
  else s

/-- PELOTON_OPEN (R297). -/
def execPelotonOpen (priv : Priv) (handle : BitVec 14) (addr : BitVec 42) (s : State) : Host.Outcome State Fault Refusal :=
  runs s fun s => if priv = .job then s else s.pltOpen (s.reg .spkmBlk) handle.toNat (64 * addr.toNat)

/-- PELOTON_CLOSE (R297). -/
def execPelotonClose (priv : Priv) (handle : BitVec 14) (s : State) : Host.Outcome State Fault Refusal :=
  runs s fun s => if priv = .job then s else s.pltClose handle.toNat

/-- PELOTON_REPLACE (R297): written directly it is refused; a stage list carries it. -/
def execPelotonReplace (priv : Priv) (handle : BitVec 14) (addr : BitVec 42) (s : State) : Host.Outcome State Fault Refusal :=
  runs s fun s => if priv = .job then s else s.pltCommand 3 handle.toNat (64 * addr.toNat)

end Sys2Proof.Machine
end

