-- ==== Sys2Proof/Machine/Generations.lean ====
section
/-!
DEFINITION. Generations (R161-R167): staging a list of register values, copying and checking it, its effect at a step boundary,
and the draining of the old side-by-side values.
-/

namespace Sys2Proof.Machine

/-- The atomic stageable registers (R164, R231, R252, R326, R336, R353). -/
def Reg.atomic : Reg → Bool
  | .xctl _ _ | .xraise _ _ | .fsctl _ _ | .fhist _ _ | .coreSqacc _ | .pwin _ _ | .hlth _ _ | .cluCccfg _ | .corePlncl _ | .intSpotctl
  | .intTdctl | .corePairctl _ => true
  | _ => false

/-- The side-by-side stageable registers (R164, R292, R297). -/
def Reg.beside : Reg → Bool
  | .spkVcw _ | .spkmMap | .spkmGpeer | .spkmBlk | .spkmRt | .spkmGrt _ | .hubPltcmd => true
  | _ => false

/-- A commit is refused (R163). -/
def State.genReject (s : State) (gen step why : Nat) : State :=
  let s := (s.setFld .hubGenstat F.hubGenstat_REJ 1).setFld .hubGenstat F.hubGenstat_WHY why
  s.raiseEv s.primDie 4 0x51 [(4, gen), (4, step), (1, why)]

/-- A pending generation is cancelled, and its side-by-side copies with it (R163). -/
def State.genCancel (s : State) : State :=
  let s := { s with
    gen := { s.gen with staged := none, next := [], opening := [], closing := [] }
    plt := { s.plt with pelotons := s.plt.pelotons.map fun (p : Peloton) => { p with next := none } } }
  (s.setFld .hubGenstat F.hubGenstat_PEND 0).setFld .hubGenstat F.hubGenstat_COPIED 0

/-- The step that the step service runs now, or ran last. -/
def State.stepNow (s : State) : Nat := s.fld .hubSvcstat F.hubSvcstat_STEP

/-- A write of HUB_GENCMD stages a generation, cancels the pending one, or is refused (R162, R163). STEP is ignored while no job
is resident (R165). Where several conditions hold, WHY names the first of 1, 2, 3, 4, and 6 before 5, which the copy finds: the spec gives no
order (DESIGN CHOICE, log entry 83). -/
def State.genCommand (s : State) (gen step : Nat) : State :=
  let ahead := (step + 2 ^ 32 - s.stepNow) % 2 ^ 32
  let addr := s.fld .hubGenlist F.hubGenlist_ADDR * 64
  let n := s.fld .hubGenlen F.hubGenlen_COUNT
  if gen = s.live then s.genCancel
  else if gen ≠ (s.live + 1) % 2 ^ 32 then s.genReject gen step 1
  else if s.resident = true ∧ (ahead = 0 ∨ 2 ^ 31 ≤ ahead) then s.genReject gen step 2
  else if s.flag .hubGenstat F.hubGenstat_PEND = true ∨ s.draining = true then s.genReject gen step 3
  else if n = 0 ∨ 65536 < n ∨ 0x020000000000 ≤ addr ∨ (s.place .driver addr).isNone = true ∨
      (s.place .driver (addr + 16 * n - 1)).isNone = true then s.genReject gen step 4
  else
    let s := (s.setFld .hubGenstat F.hubGenstat_PEND 1).setFld .hubGenstat F.hubGenstat_COPIED 0
    { s with gen := { s.gen with staged := some { gen := gen, step := step, addr := addr, count := n, list := [] }, next := [] } }

/-- The entries of a stage list (R162), or none where one is not a stageable register's or has reserved bits set. -/
def State.stageList (s : State) (addr : Nat) : Nat → Option (List (Nat × Word))
  | 0 => some []
  | n + 1 =>
    let off := ofBytes (s.bytes addr 4)
    let ok := match Reg.ofOffset off with
      | some r => r.atomic || r.beside
      | none => false
    if !ok || ofBytes (s.bytes (addr + 4) 4) != 0 then none
    else (s.stageList (addr + 16) n).map fun l => (off, BitVec.ofNat 64 (ofBytes (s.bytes (addr + 8) 8))) :: l

/-- The value that a staged write leaves in a register. -/
def State.stagedValue (s : State) (r : Reg) (old v : Word) : Word := s.refine r old (r.written false old v (BitVec.allOnes 64))

/-- Install a side-by-side entry beside the live value (R164). -/
def State.installBeside (s : State) (blk : Word) (q : Nat × Word) : State :=
  match Reg.ofOffset q.1 with
  | some .hubPltcmd =>
    let cmd := getBits q.2 F.hubPltcmd_CMD
    let h := getBits q.2 F.hubPltcmd_HANDLE
    let a := 64 * getBits q.2 F.hubPltcmd_ADDR
    if cmd = 1 then s.pltOpenBeside blk h a else if cmd = 2 then s.pltCloseBeside h else if cmd = 3 then s.pltReplace blk h a else s
  | some r =>
    if r.beside then
      { s with gen := { s.gen with next := s.gen.next.set r (s.stagedValue r (s.gen.next.get r (s.reg r)) q.2) } }
    else s
  | none => s

/-- Apply one atomic entry (R164). -/
def State.applyAtomic (s : State) (q : Nat × Word) : State :=
  match Reg.ofOffset q.1 with
  | some (.coreSqacc c) => s.setOwners c (Reg.coreSqacc c |>.written false (s.reg (.coreSqacc c)) q.2 (BitVec.allOnes 64))
  | some (.cluCccfg k) => s.setScratch k (getBits q.2 F.cluCccfg_SCRW)
  | some (.corePairctl c) => s.setPairs c (getBits q.2 F.corePairctl_EN == 1)
  | some r => if r.atomic then s.setReg r (s.stagedValue r (s.reg r) q.2) else s
  | none => s

/-- Entries of a list by class. -/
def countBeside (l : List (Nat × Word)) : Nat :=
  (l.filter fun q => match Reg.ofOffset q.1 with
    | some r => r.beside
    | none => false).length

/-- A staged generation takes effect (R164, R165): atomic values in list order, side-by-side values become the live ones, and the
old ones serve what still carries the old GTAG. -/
def State.genEffect (s : State) (g : Staged) (step : Nat) : State :=
  let s := forAll g.list s State.applyAtomic
  let old : Map Reg Word := s.gen.next.map fun q => (q.1, s.reg q.1)
  let nb := countBeside g.list
  let s := s.gen.next.foldl (fun s q => s.setReg q.1 q.2) s
  let opening := s.gen.opening
  let closing := s.gen.closing
  let s := { s with
    gen := { s.gen with
      staged := none, next := [], prev := old, drainSince := s.time, opening := [], closing := [], told := false
      opened := opening.map Peloton.handle, closed := s.plt.pelotons.filter fun (p : Peloton) => closing.contains p.handle }
    plt := { s.plt with pelotons := ((s.plt.pelotons.filter fun (p : Peloton) => !closing.contains p.handle).map fun (p : Peloton) => match p.next with
      | some d => { p with old := some p.desc, desc := d, next := none, early := false }
      | none => p) ++ opening } }
  let s := s.setReg .hubGenlive (BitVec.ofNat 64 (g.gen % 2 ^ 32 + step % 2 ^ 32 * 2 ^ 32))
  let s := (s.setFld .hubGenstat F.hubGenstat_PEND 0).setFld .hubGenstat F.hubGenstat_COPIED 0
  let s := if nb = 0 then s else s.setFld .hubGenstat F.hubGenstat_DRAIN 1
  (s.traceHub s.primDie 14 0 g.gen).raiseEv s.primDie 4 0x50 [(4, g.gen), (4, step), (4, g.list.length - nb), (4, nb)]

/-- The Hub has copied and checked the list (R162, R163): side-by-side values serve items with the new GTAG at once; with no job
resident the generation takes effect now (R165). -/
def State.genCopied (s : State) : State :=
  match s.gen.staged with
  | none => s
  | some g =>
    if s.flag .hubGenstat F.hubGenstat_COPIED then s
    else match s.readRange .hub g.addr (16 * g.count) with
      | (s, some _) => s.genCancel.genReject g.gen g.step 6
      | (s, none) => match s.stageList g.addr g.count with
        | none => s.genCancel.genReject g.gen g.step 5
        | some l =>
          let g := { g with list := l }
          let s := { s.setFld .hubGenstat F.hubGenstat_COPIED 1 with gen := { s.gen with staged := some g } }
          let blk := l.foldl (fun b q => if Reg.ofOffset q.1 = some .spkmBlk then s.stagedValue .spkmBlk b q.2 else b) (s.reg .spkmBlk)
          let s := forAll l s fun s q => s.installBeside blk q
          if s.resident then s else s.genEffect g s.stepNow

/-- The step boundary of a step (R165): a copied generation whose first step it is takes effect. -/
def State.genBoundary (s : State) (step : Nat) : State :=
  match s.gen.staged with
  | some g => if s.beside = true ∧ g.step = step % 2 ^ 32 then s.genEffect g step else s
  | none => s

/-- The kinds of items that still carry the old GTAG (R167): bit 0 tiles, 1 transfers, 2 flits and buffered packets, 3 reduction
slots. -/
def State.oldItems (s : State) : Nat :=
  let o := (s.live + 1) % 2
  let tiles := s.core.ctxs.any fun q => (q.2.run.isSome || q.2.bracket.isSome) && q.2.latch.gen % 2 == o
  let moves := s.core.bg.any fun g => g.gen % 2 == o
  let packets := (s.fab.inject.any fun k => k.gtag == o) || (s.fab.ejected.any fun q => q.2.gtag == o) ||
    (s.fab.spill.any fun q => q.pkt.gtag == o) || (s.plt.colls.any fun c => (c.waiting.any fun k => k.gtag == o) || c.early.any fun q => q.2.gtag == o) ||
    (s.fab.spokes.any fun q => (q.2.input.any fun k => k.pkt.gtag == o) || (q.2.retry.any fun k => k.pkt.gtag == o) ||
      q.2.partialHead.any fun k => k.gtag == o)
  let slots := s.plt.slots.any fun r => b2n r.gtag == o
  b2n tiles + 2 * b2n moves + 4 * b2n packets + 8 * b2n slots

/-- The old generation has drained (R167). -/
def State.genDrained (s : State) : State :=
  if s.draining = false ∨ s.oldItems ≠ 0 then s
  else
    let t := s.time - s.gen.drainSince
    let s := forAll (s.gen.closed.map Peloton.handle) s fun s h => if s.openHandle h then s else s.forgetHandle h
    let s := { s with
      gen := { s.gen with prev := [], closed := [], opened := [] }
      plt := { s.plt with pelotons := s.plt.pelotons.map fun (p : Peloton) => { p with old := none } } }
    let s := s.setReg .hubGenstat (putBits (putBits (s.reg .hubGenstat) F.hubGenstat_DRAIN 0) F.hubGenstat_DRAINUS (min (t / 100) (2 ^ 32 - 1)))
    s.raiseEv s.primDie 4 0x53 [(4, (s.live + 2 ^ 32 - 1) % 2 ^ 32), (4, t / 100)]

/-- GEN_STAGE (R162, R163): a write of HUB_GENCMD; one from privilege 2 is ignored (R168). -/
def execGenStage (priv : Priv) (gen step : BitVec 32) (s : State) : Host.Outcome State Fault Refusal :=
  runs s fun s => if priv = .job then s else s.genCommand gen.toNat step.toNat

/-- GEN_CANCEL (R163): a write of HUB_GENCMD that names the live generation. -/
def execGenCancel (priv : Priv) (s : State) : Host.Outcome State Fault Refusal :=
  runs s fun s => if priv = .job then s else s.genCommand s.live 0

/-- GEN_LIST_COPIED (R162). -/
def execGenListCopied (s : State) : Host.Outcome State Fault Refusal := runs s State.genCopied

/-- GEN_DRAINED (R167). -/
def execGenDrained (s : State) : Host.Outcome State Fault Refusal := runs s State.genDrained

/-- GEN_DRAIN_OVER (R167): draining has lasted longer than the limit; nothing is discarded. -/
def execGenDrainOver (s : State) : Host.Outcome State Fault Refusal :=
  runs s fun s =>
    if s.draining = true ∧ s.fld .hubGenlimit F.hubGenlimit_LIMIT < s.usSince s.gen.drainSince ∧
        s.gen.told = false then
      (({ s with gen := { s.gen with told := true } }).setFld .hubGenstat F.hubGenstat_OVER 1).raiseEv s.primDie 4 0x54 [(4, (s.live + 2 ^ 32 - 1) % 2 ^ 32), (1, s.oldItems)]
    else s

end Sys2Proof.Machine
end

