-- ==== Sys2Proof/Machine/Delivery.lean ====
section
/-!
DEFINITION. The delivery of a firmware image (R420-R423), activation, takeover and confirmation (R424-R428), and the Hub watchdog.
-/

namespace Sys2Proof.Machine

/-! ## Refusals -/

/-- What carried a delivery command: the host, the side-band or the fabric. -/
inductive Transport where
  | host | sideband | fabric
  deriving DecidableEq, Repr

/-- The number of a transport in event 0x06:0x0014. It is the model's own. -/
def Transport.code : Transport → Nat
  | .host => 0
  | .sideband => 1
  | .fabric => 2

/-- A delivery command is refused (R420): it changes nothing but REJ and WHY. -/
def State.fwRefuse (s : State) (cmd why index : Nat) (t : Transport) : State :=
  ((s.setFld .hubFwstat F.hubFwstat_REJ 1).setFld .hubFwstat F.hubFwstat_WHY why).raiseEv s.primDie 6 0x14 [(1, cmd), (1, why), (2, index), (1, t.code)]

/-- Set the delivery record and show it. -/
def State.setDelivery (s : State) (d : Delivery) : State := { s with flash := { s.flash with delivery := d } }.showFw

/-- The slot a delivery goes to: the one that ACTIVE does not name. -/
def State.inactive (s : State) : Bool := !s.bootNow.active

/-! ## BEGIN -/

/-- BEGIN with a manifest that was received whole (R420). -/
def State.fwBeginWith (s : State) (m : List Byte) (t : Transport) : State :=
  let d := s.flash.delivery
  let digest := sha256 m
  let b := s.inactive
  if 2 ≤ d.dstate then s.fwRefuse 1 1 0 t
  else match s.mFault m with
    | some why => s.fwRefuse 1 why 0 t
    | none =>
      if s.bootNow.trial = true ∧ s.phase ≠ 4 then s.fwRefuse 1 5 0 t
      else if d.dstate = 1 ∧ d.digest ≠ digest then s.fwRefuse 1 6 0 t
      else
        let s := if d.dstate = 1 then s
          else
            let s := s.setFwSlot b { s.fwSlot b with manifest := m, sound := false }
            let s := { s with fw := { s.fw with piece := [], dups := 0 } }
            s.setDelivery { dstate := 1, slot := b, digest := digest, manifest := m, present := [] }
        s.raiseEv s.primDie 6 0x10 [(1, b2n b), (4, mField m 20 4), (2, s.flash.delivery.present.length)]

/-- The manifest at an address: none where the address may not be named. -/
def State.readManifest (s : State) (a : Nat) : State × Option (List Byte) :=
  match s.hubRead a 512 with
  | (s, none) => (s, none)
  | (s, some h) => s.hubRead a (512 + 32 * min (mPieces h) 767 + 384)

/-- BEGIN of the host, with a manifest at ADDR. -/
def State.fwBegin (s : State) (a : Nat) : State :=
  match s.readManifest a with
  | (s, none) => s.fwRefuse 1 9 0 .host
  | (s, some m) => s.fwBeginWith m .host

/-! ## PIECE -/

/-- A piece that was received whole is hashed and accepted, or discarded (R421). -/
def State.fwPieceWith (s : State) (i : Nat) (bs : List Byte) (t : Transport) : State :=
  let d := s.flash.delivery
  if d.dstate ≠ 1 then s.fwRefuse 2 1 i t
  else if mPieces d.manifest ≤ i then s.fwRefuse 2 8 i t
  else if sha256 bs ≠ mDigest d.manifest i then (s.count .hubFwcnt F.hubFwcnt_BADHASH 1).fwRefuse 2 7 i t
  else if d.present.contains i || s.fw.piece.any fun q => q.1 == i then
    { s.count .hubFwcnt F.hubFwcnt_DUP 1 with fw := { s.fw with dups := s.fw.dups + 1 } }
  else { s with fw := { s.fw with piece := s.fw.piece ++ [(i, bs)] } }

/-- PIECE of the host, with 64 KiB at ADDR. -/
def State.fwPiece (s : State) (i a : Nat) : State :=
  match s.hubRead a 65536 with
  | (s, none) => s.fwRefuse 2 9 i .host
  | (s, some bs) => (if a < 0x020000000000 then s.background 5 65536 0 0 else s).fwPieceWith i bs .host

/-- PIECE_WRITE_COMPLETE (R421): an accepted piece has been programmed and read back, or its sector has failed (R413). -/
def execPieceWriteComplete (ok : Bool) (s : State) : Host.Outcome State Fault Refusal :=
  runs s fun s =>
    match s.fw.piece with
    | [] => s
    | (i, bs) :: t =>
      let s := { s with fw := { s.fw with piece := t } }
      let d := s.flash.delivery
      if s.pow.off = true ∨ d.dstate ≠ 1 then s
      else if ok = false then (s.sectorFails (if d.slot then 5 else 4) (i + 1) 1).fwRefuse 2 12 i .host
      else
        let q := s.fwSlot d.slot
        let s := (s.setFwSlot d.slot { q with pieces := q.pieces.set i bs }).count .hubFwcnt F.hubFwcnt_PIECES 1
        let have_ := i :: d.present.filter fun p => p != i
        if mPieces d.manifest ≤ have_.length then
          (s.setDelivery { d with dstate := 2, present := have_ }).raiseEv s.primDie 6 0x11 [(1, b2n d.slot), (2, s.fw.dups)]
        else s.setDelivery { d with present := have_ }

/-! ## COMMIT and ABANDON -/

/-- COMMIT (R423): the target slot is read back; `bad` are the pieces whose contents the flash does not give back. -/
def State.fwCommit (s : State) (bad : List Nat) (t : Transport) : State :=
  let d := s.flash.delivery
  if d.dstate ≠ 2 then s.fwRefuse 3 1 0 t
  else
    let q := s.fwSlot d.slot
    let wrong := d.present.filter fun i => bad.contains i || !q.pieceOk i
    if wrong = [] ∧ s.manifestOk d.slot q = true then s.setDelivery { d with dstate := 3 }
    else (s.setDelivery { d with dstate := 1, present := d.present.filter fun i => !wrong.contains i }).fwRefuse 3 10 0 t

/-- ABANDON (R420): the delivery record is erased, and what was delivered is no valid slot. -/
def State.fwAbandon (s : State) (t : Transport) : State :=
  let d := s.flash.delivery
  if d.dstate = 0 then s.fwRefuse 6 1 0 t
  else
    let s := if d.slot = s.bootNow.active then s else s.setFwSlot d.slot { s.fwSlot d.slot with manifest := [], sound := false }
    { s with fw := { s.fw with piece := [], asm := [] } }.setDelivery ⟨0, false, [], [], []⟩

/-! ## ACTIVATE (R424) -/

/-- ACTIVATE with LIVE 0: the image starts at the next module reset as a trial. -/
def State.fwActivate (s : State) (t : Transport) : State :=
  let d := s.flash.delivery
  if d.dstate ≠ 3 then s.fwRefuse 4 1 0 t else (s.writeBoot d.slot true 0 s.bootNow.minSvn).showFw

/-- ACTIVATE with LIVE 1: a takeover begins; in recovery it is a module reset (R419). -/
def State.fwActivateLive (s : State) (t : Transport) : State :=
  let d := s.flash.delivery
  if d.dstate ≠ 3 then s.fwRefuse 4 1 0 t
  else if s.phase = 4 then ((s.writeBoot d.slot true 0 s.bootNow.minSvn)).moduleReset 3
  else
    let q := s.fwSlot d.slot
    let hover := imageField s.fw.runSlot s.fw.running 24 2
    if hover < mField q.manifest 26 2 ∨ (s.resident = true ∧ mField q.manifest 28 1 % 2 = 0) ∨ s.phase ≠ 3 then s.fwRefuse 4 11 0 t
    else
      let s := (s.setFld .hubFwstat F.hubFwstat_TKSTATE 1).setFld .hubFwstat F.hubFwstat_BUSY 1
      { s with fw := { s.fw with takeover := some s.time, oldBoot := some s.bootNow } }

/-! ## The takeover (R425, R426) -/

/-- A takeover is abandoned before its role moves: step 1 or 5 failed. -/
def State.tkAbandon (s : State) (step reason : Nat) : State :=
  let s := (s.setFld .hubFwstat F.hubFwstat_TKSTATE 0).setFld .hubFwstat F.hubFwstat_BUSY 0
  ({ s with fw := { s.fw with takeover := none, oldBoot := none } }.showFw).raiseEv s.primDie 6 0x21 [(1, step), (1, reason)]

/-- The Hub timers of the former primary run on at the new one (R425, R427). -/
def State.moveTimers (s : State) (old new : Fin 2) : State :=
  forAll (List.finRange 4) s fun s n => forAll (List.finRange 16) s fun s t =>
    (s.setReg (.icuHtmr new n t) (s.reg (.icuHtmr old n t))).setReg (.icuHtmr old n t) 0

/-- Every route to a Hub core of the former primary's die targets the same core of the new one. -/
def State.moveRoutes (s : State) (old new : Fin 2) : State :=
  forAll (List.finRange 2) s fun s d => forAll (List.finRange 256) s fun s src =>
    let r : Reg := .icuRoute d src
    if s.flag r F.icuRoute_KIND = false ∧ s.fld r F.icuRoute_HDIE = old.val then s.setFld r F.icuRoute_HDIE new.val else s

/-- The microcode components of the new image that fail: each raises 0x06:0x0030, and the Hub serves the previous copy until the next
module reset, where the boot ROM treats the slot as failed (R426, R418). A takeover loads no unit, so the unit recorded is 0. -/
def State.checkMicrocode (s : State) (q : FwSlot) : State :=
  let bad := if q.sound then [] else (mComponents q.manifest).filter fun c => decide (2 ≤ c.kind ∧ c.kind ≤ 4) && (q.fails c).isSome
  forAll bad s fun s c => s.raiseEv s.primDie 6 0x30 [(1, c.kind), (1, 0)]

/-- TAKEOVER_STANDBY_STARTED (R425): the standby runs the new firmware; after the freeze it is primary, or it does not adopt the
handover record and the takeover is abandoned. -/
def State.standbyStarted (s : State) (adopts : Bool) : State :=
  match s.fw.takeover, s.fw.oldBoot with
  | some _, some e =>
    let d := s.flash.delivery
    let s := s.writeBoot d.slot true 0 e.minSvn
    if adopts = false then (s.writeBoot e.active e.trial e.tryCnt e.minSvn).tkAbandon 5 1
    else
      let old := s.primDie
      let new : Fin 2 := old + 1
      let was := imageVer s.fw.runSlot s.fw.running
      let q := s.fwSlot d.slot
      let s := ((s.setFld .hubFwstat F.hubFwstat_PRIMDIE new.val).moveRoutes old new).moveTimers old new
      let s := { s with fw := { s.fw with running := q, runSlot := d.slot, takeover := none, oldBoot := none, since := some s.time } }
      let s := (s.setFld .hubFwucmix (0, 24) (2 ^ 24 - 1)).count .hubFwcnt F.hubFwcnt_TAKEOVERS 1
      let s := ((s.setFld .hubFwstat F.hubFwstat_TKSTATE 0).setFld .hubFwstat F.hubFwstat_BUSY 0).showFw
      (s.raiseEv new 6 0x20 [(4, was), (4, imageVer d.slot q), (4, 0)]).checkMicrocode q
  | _, _ => s

/-- TAKEOVER_STANDBY_STARTED. -/
def execTakeoverStandbyStarted (adopts : Bool) (s : State) : Host.Outcome State Fault Refusal := runs s fun s => s.standbyStarted adopts

/-- TAKEOVER_ABANDON (R426): step 1 has failed or not ended within 500 ms. -/
def execTakeoverAbandon (s : State) : Host.Outcome State Fault Refusal :=
  runs s fun s => match s.fw.takeover with
    | none => s
    | some t => s.tkAbandon 1 (b2n (decide (t + 50000000 ≤ s.time)))

/-! ## Confirmation and the watchdog (R428) -/

/-- The image is confirmed: the trial ends and MINSVN rises to the manifest's. -/
def State.confirm (s : State) : State :=
  let e := s.bootNow
  let q := s.fwSlot e.active
  let minSvn := max e.minSvn (if q.manifest = [] then 0 else mField q.manifest 16 4)
  ((s.writeBoot e.active false 0 minSvn).showFw).raiseEv s.primDie 6 0x22 [(4, imageVer e.active q), (4, minSvn)]

/-- CONFIRM. -/
def State.fwConfirm (s : State) (t : Transport) : State := if s.bootNow.trial then s.confirm else s.fwRefuse 5 1 0 t

/-- AUTO_CONFIRM: a trial image has run for 600 s in full service without a watchdog expiry. -/
def execAutoConfirm (s : State) : Host.Outcome State Fault Refusal :=
  runs s fun s =>
    if s.flag .hubFwctl F.hubFwctl_AUTOCONF = true ∧ s.bootNow.trial = true ∧ s.fw.runSlot = s.bootNow.active ∧ s.phase = 3 ∧
        s.fw.watchdog = false ∧ s.sinceFor s.fw.since 60000000000 = true then s.confirm else s

/-- HUB_WATCHDOG_EXPIRE: its fatal record is written and the module is reset. -/
def execHubWatchdogExpire (d : Fin 2) (n : Fin 4) (s : State) : Host.Outcome State Fault Refusal :=
  runs s fun s =>
    if s.hubRuns = false then s
    else
      let s := s.raiseEv d 6 0x60 [(1, 4 * d.val + n.val), (4, imageVer s.fw.runSlot s.fw.running)]
      (s.writeFatals s.events.length).moduleReset 3

/-! ## Commands -/

/-- Whether a delivery command is served: the boot ROM has handed over or has entered recovery (R419). -/
def State.fwServes (s : State) : Bool := !s.pow.off && s.phase != 0

/-- A delivery command of the host: one that is written while BUSY is 1 is dropped and counted (R421). -/
def State.fwHost (s : State) (f : State → State) : State :=
  if s.fwServes = false then s
  else if s.flag .hubFwstat F.hubFwstat_BUSY then s.count .hubFwcnt F.hubFwcnt_DUP 1
  else f s

/-- A write of HUB_FWCMD (R420, R440). -/
def State.fwCommand (s : State) (v : Word) (bad : List Nat) : State :=
  let cmd := getBits v F.hubFwcmd_CMD
  let a := 64 * getBits v F.hubFwcmd_ADDR
  s.fwHost fun s =>
    if cmd = 1 then s.fwBegin a
    else if cmd = 2 then s.fwPiece (getBits v F.hubFwcmd_INDEX) a
    else if cmd = 3 then s.fwCommit bad .host
    else if cmd = 4 then (if getBits v F.hubFwcmd_LIVE = 1 then s.fwActivateLive .host else s.fwActivate .host)
    else if cmd = 5 then s.fwConfirm .host
    else if cmd = 6 then s.fwAbandon .host
    else s

/-- FW_BEGIN. -/
def execFwBegin (priv : Priv) (addr : BitVec 42) (s : State) : Host.Outcome State Fault Refusal :=
  runs s fun s => if priv = .job then s else s.fwHost fun s => s.fwBegin (64 * addr.toNat)

/-- FW_PIECE. -/
def execFwPiece (priv : Priv) (index : BitVec 10) (addr : BitVec 42) (s : State) : Host.Outcome State Fault Refusal :=
  runs s fun s => if priv = .job then s else s.fwHost fun s => s.fwPiece index.toNat (64 * addr.toNat)

/-- FW_COMMIT. -/
def execFwCommit (priv : Priv) (bad : List (BitVec 10)) (s : State) : Host.Outcome State Fault Refusal :=
  runs s fun s => if priv = .job then s else s.fwHost fun s => s.fwCommit (bad.map BitVec.toNat) .host

/-- FW_ACTIVATE. -/
def execFwActivate (priv : Priv) (s : State) : Host.Outcome State Fault Refusal :=
  runs s fun s => if priv = .job then s else s.fwHost fun s => s.fwActivate .host

/-- FW_ACTIVATE_LIVE. -/
def execFwActivateLive (priv : Priv) (s : State) : Host.Outcome State Fault Refusal :=
  runs s fun s => if priv = .job then s else s.fwHost fun s => s.fwActivateLive .host

/-- FW_CONFIRM. -/
def execFwConfirm (priv : Priv) (s : State) : Host.Outcome State Fault Refusal :=
  runs s fun s => if priv = .job then s else s.fwHost fun s => s.fwConfirm .host

/-- FW_ABANDON. -/
def execFwAbandon (priv : Priv) (s : State) : Host.Outcome State Fault Refusal :=
  runs s fun s => if priv = .job then s else s.fwHost fun s => s.fwAbandon .host

/-! ## Assembly of fragments (R421, R422) -/

/-- The assembly of a piece or a manifest from a source, with a fragment added. -/
def State.addFragment (s : State) (src : Nat) (piece : Option Nat) (off : Nat) (bs : List Byte) : State × Map Nat (List Byte) :=
  let old := match s.fw.asm.find? fun a => a.src == src && a.piece == piece with
    | some a => a.frags
    | none => []
  let frags := old.set off bs
  let rest := s.fw.asm.filter fun a => !(a.src == src && a.piece == piece)
  ({ s with fw := { s.fw with asm := rest ++ [{ src := src, piece := piece, frags := frags }] } }, frags)

/-- Take an assembly away. -/
def State.dropAssembly (s : State) (src : Nat) (piece : Option Nat) : State :=
  { s with fw := { s.fw with asm := s.fw.asm.filter fun (a : Assembly) => !(a.src == src && a.piece == piece) } }

/-- The bytes of an assembly from its start, as far as its fragments of 4,096 bytes follow each other. -/
def assembled (frags : Map Nat (List Byte)) : Nat → Nat → List Byte
  | 0, _ => []
  | n + 1, off => if frags.has off then frags.get off [] ++ assembled frags n (off + 4096) else []

/-- A fragment arrives: a piece or a manifest that has become whole is delivered. -/
def State.fragment (s : State) (src : Nat) (piece : Option Nat) (off : Nat) (bs : List Byte) (t : Transport) : State :=
  let (s, frags) := s.addFragment src piece off bs
  let all := assembled frags 16 0
  match piece with
  | some i => if all.length = 65536 then (s.dropAssembly src piece).fwPieceWith i all t else s
  | none =>
    if 512 ≤ all.length ∧ mLength all ≤ all.length then (s.dropAssembly src piece).fwBeginWith (all.take (mLength all)) t else s

end Sys2Proof.Machine
end

