-- ==== Sys2Proof/Machine/Control.lean ====
section
/-!
DEFINITION. The control window as a target of accesses: what lies at an offset (R4, R8, R374, R388), what a write of each register does
beside its fields, what a read does and returns, and amo.add on a cleat register (R138, R204).
-/

namespace Sys2Proof.Machine

/-! ## What lies at an offset -/

/-- What lies at an offset of the control window. -/
inductive CtlPlace where
  | reg (r : Reg)
  | mapbuf (o : Nat)
  | table (o : Nat)
  | pba (o : Nat)
  | unassigned
  deriving DecidableEq, Repr

/-- What lies at an offset: HUB_MAPBUF, the MSI-X table and PBA of 2,048 vectors, a register, or nothing (R8, R374, R391). -/
def ctlPlace (off : Nat) : CtlPlace :=
  if 0x100000 ≤ off ∧ off < 0x200000 then .mapbuf (off - 0x100000)
  else if 0x4010000 ≤ off ∧ off < 0x4018000 then .table (off - 0x4010000)
  else if 0x4018000 ≤ off ∧ off < 0x4018100 then .pba (off - 0x4018000)
  else match Reg.ofOffset (off / 8 * 8) with
    | some r => .reg r
    | none => .unassigned

/-- What the Hub serves while it waits for an image in recovery (R419). -/
def CtlPlace.recovery : CtlPlace → Bool
  | .reg .hubFwcmd | .reg .hubFwstat | .reg (.hubFwbm _) | .mapbuf _ => true
  | _ => false

/-- Whether an access to a place is served: not in P4, before the Hub runs or, in recovery, beyond what R419 names. -/
def State.ctlServes (s : State) (c : CtlPlace) : Bool :=
  !s.pow.off && s.phase != 0 && (s.phase != 4 || c.recovery)

/-! ## MSI-X -/

/-- Send the held message of a vector that nothing masks any more (R405). -/
def State.msixRelease (s : State) (n : Nat) : State :=
  if s.host.pba.get n false = false ∨ s.host.msixEnable = false ∨ s.host.msixMask = true ∨ s.host.d3hot = true ∨
      (s.host.msix.get n MsixEntry.reset).masked = true then s
  else ({ s with host := { s.host with pba := s.host.pba.set n false } }).msix n

/-- The 8-byte word of the MSI-X table at an offset in it. -/
def State.tableWord (s : State) (o : Nat) : Word :=
  let e := s.host.msix.get (o / 16) MsixEntry.reset
  if o % 16 < 8 then e.addr else BitVec.ofNat 64 (e.data.toNat + b2n e.masked * 2 ^ 32)

/-- A write of the bits `m` of a word of the MSI-X table. -/
def State.writeTable (s : State) (o : Nat) (v m : Word) : State :=
  let n := o / 16
  let w := (s.tableWord o &&& ~~~m) ||| (v &&& m)
  let e := s.host.msix.get n MsixEntry.reset
  let e : MsixEntry := if o % 16 < 8 then { e with addr := w } else { e with data := w.truncate 32, masked := bit w 32 }
  ({ s with host := { s.host with msix := s.host.msix.set n e } }).msixRelease n

/-- The 8-byte word of the PBA at an offset in it. -/
def State.pbaWord (s : State) (o : Nat) : Word :=
  BitVec.ofNat 64 ((List.range 64).foldl (fun w i => w + b2n (s.host.pba.get (o / 8 * 64 + i) false) * 2 ^ i) 0)

/-- MSIX_UNMASK (R405): a vector is unmasked, and its held message is sent. -/
def execMsixUnmask (vector : BitVec 11) (s : State) : Host.Outcome State Fault Refusal :=
  runs s fun s =>
    let n := vector.toNat
    let e : MsixEntry := { s.host.msix.get n MsixEntry.reset with masked := false }
    ({ s with host := { s.host with msix := s.host.msix.set n e } }).msixRelease n

/-! ## HUB_MAPBUF (R374) -/

/-- The bytes of HUB_MAPBUF that the bits `m` of a word cover. -/
def State.putMapbuf (s : State) (o : Nat) (v m : Word) : State :=
  forAll (List.range 8) s fun s i =>
    if getBits m (8 * i, 8) = 0 then s
    else
      let b : Byte := BitVec.ofNat 8 (getBits v (8 * i, 8))
      let a := o / 8 * 8 + i
      { s with mapbuf := if b = 0 then s.mapbuf.del a else s.mapbuf.set a b }

/-! ## Registers that do more than hold a value -/

/-- A write of ICU_ROUTEs (R405, R407): a privilege-0 write sets OWN; privilege 1 changes no route with OWN and names no Hub core. A route
whose EN becomes 1 with KIND MSI-X while its source is pending sends a message. -/
def State.writeRoute (s : State) (p : Priv) (d : Fin 2) (n : Fin 256) (v m : Word) : State :=
  let r : Reg := .icuRoute d n
  if getBits m (0, 32) = 0 ∨ (p ≠ .hub ∧ (s.flag r F.icuRoute_OWN = true ∨ getBits v F.icuRoute_KIND = 0)) then s
  else
    let was := s.flag r F.icuRoute_EN
    let s := s.writeFields r v m
    let s := if p = .hub then s.setFld r F.icuRoute_OWN 1 else s
    if was = false ∧ s.flag r F.icuRoute_EN = true ∧ s.flag r F.icuRoute_KIND = true ∧
        bit (s.reg (.icuPend d ⟨n.val / 64, by omega⟩)) (n.val % 64) = true then
      s.msix (s.fld r F.icuRoute_VECTOR)
    else s

/-- A write of ICU_RAISE (R407): one edge on a source, any at privilege 0 and 192-223 at privilege 1. -/
def State.writeRaise (s : State) (p : Priv) (d : Fin 2) (src : Fin 512) : State :=
  if p = .hub ∨ (p = .driver ∧ 192 ≤ src.val ∧ src.val < 224) then s.edge d src else s

/-- PMU_CTL.LATCH (R445). -/
def State.pmuLatch (s : State) : State :=
  forAll (List.finRange 16) (s.setReg .pmuLtime (BitVec.ofNat 64 s.time)) fun s n => s.setReg (.pmuLctr n) (s.reg (.pmuCtr n))

/-- PMU_MARK (R450): a MARK record in the Yalar-0 ring. -/
def State.pmuMark (s : State) (v : Word) : State := s.traceHub 0 12 0 v.toNat

/-- SPKn_LCTL (R263, R264, R292): the fields, then EN, RESET and RETRAIN. -/
def State.writeLctl (s : State) (p : SpokeId) (v m : Word) : State :=
  let en := s.flag (.spkLctl p) F.spkLctl_EN
  let s := s.writeFields (.spkLctl p) v m
  let now := s.flag (.spkLctl p) F.spkLctl_EN
  let s := if now = en then s else (s.setFld (.spkLctl p) F.spkLctl_EN (b2n en)).linkEnable p now
  if bit (v &&& m) 1 then s.spokeReset p else if bit (v &&& m) 2 then s.startRetrain p 0 true else s

/-- CLK_RSTCMD (R381, R383): the key must be right. -/
def State.writeRstcmd (s : State) (v : Word) : State :=
  let kind := getBits v F.clkRstcmd_KIND
  if getBits v F.clkRstcmd_KEY ≠ 0xA5 then s
  else if kind = 1 then s.moduleReset 3
  else if kind = 2 then (if s.hubRuns then s.dieReset 0 else s)
  else if kind = 3 then (if s.hubRuns then s.dieReset 1 else s)
  else s

/-- A write of CLTn: its earlier held adds come before it (R362). -/
def State.writeCleat (s : State) (c : Fin 256) (n : Cleat) (v m : Word) : State :=
  let w := (s.cleat c n &&& ~~~m) ||| (v &&& m)
  let s := { s with core := { s.core with heldAdds := s.core.heldAdds.filter fun (h : Fin 256 × Cleat × Word) => !(h.1 == c && h.2.1 == n) } }
  s.setReg (.clt c n) w

/-- What a permitted write of the bits `m` of a register does. A write-only command acts when the access covers its command field. -/
def State.ctlEffect (s : State) (p : Priv) (r : Reg) (v m : Word) : State :=
  let low := getBits m (0, 32) != 0
  let cmd (f : State → State) : State := if low then f s else s
  match r with
  | .ctxCmd c x => cmd fun s => s.command ⟨c, x⟩ (getBits v F.ctxCmd_CMD)
  | .coreSqacc c => s.setOwners c (s.refine r (s.reg r) (r.written false (s.reg r) v m))
  | .cluCccfg k => cmd fun s => s.setScratch k (getBits v F.cluCccfg_SCRW)
  | .corePairctl c => cmd fun s => s.setPairs c (getBits v F.corePairctl_EN == 1)
  | .clt c n => s.writeCleat c n v m
  | .cluDrlctl k =>
    let s := s.writeTarget k v m
    if bit (v &&& m) 4 then s.restartCluster k else s
  | .hubModctl => cmd fun s => s.setMode (getBits v F.hubModctl_MODE == 1)
  | .hubGencmd => cmd fun s => s.genCommand (getBits v F.hubGencmd_GEN) (getBits v F.hubGencmd_STEP)
  | .hubPltcmd => cmd fun s => s.pltCommand (getBits v F.hubPltcmd_CMD) (getBits v F.hubPltcmd_HANDLE) (64 * getBits v F.hubPltcmd_ADDR)
  | .hubDbgsel =>
    let s := s.writeFields r v m
    if bit (v &&& m) 16 then s.setPow fun q => { q with debug := true } else s
  | .hubFwcmd => cmd fun s => s.fwCommand v []
  | .stkRprcmd d k => cmd fun s => s.repairCommand d k v
  | .memScrctl d => (s.writeFields r v m).showSlow d
  | .spkLctl q => s.writeLctl q v m
  | .intUmcmd =>
    if s.hubRuns = false then s
    else cmd fun s => if getBits v F.intUmcmd_CMD = 1 then s.loadMap 0 else if getBits v F.intUmcmd_CMD = 2 then s.loadMap 1 else s
  | .clkPscmd => cmd fun s => if getBits v F.clkPscmd_CMD = 1 then s.enterP3 else if getBits v F.clkPscmd_CMD = 2 then s.leaveP3 else s
  | .clkBrcmd => if bit (v &&& m) 0 then s.stepSix else s
  | .clkRstcmd => cmd fun s => s.writeRstcmd v
  | .icuRoute d n => s.writeRoute p d n v m
  | .icuRaise d => cmd fun s => s.writeRaise p d (Fin.ofNat _ (getBits v F.icuRaise_SRC))
  | .evrCur => s.writeCursor v m
  | .evrClr => if bit (v &&& m) 34 then s.clearLog (getBits v F.evrClr_UPTO) (getBits v F.evrClr_SEVMAX) else s
  | .pmuCtl => if bit (v &&& m) 0 then s.pmuLatch else s
  | .pmuMark => s.pmuMark (v &&& m)
  | .pmuTrRp d => (s.writeFields r v m).setFld (.pmuTrStat d) F.pmuTrStat_FULL 0
  | .pmuWpDsti n =>
    let s := s.writeFields r v m
    let s := (s.setFld (.pmuWpStati n) F.pmuWpStati_DUMPS 0).setFld (.pmuWpStati n) F.pmuWpStati_KIB 0
    { s with obs := { s.obs with dumpAt := s.obs.dumpAt.del n } }
  | _ => s.writeFields r v m

/-! ## Accesses -/

/-- A write to an unassigned offset (R8): ignored, counted and recorded. -/
def State.unassignedWrite (s : State) (off : Nat) : State :=
  (s.count .intUawcnt F.intUawcnt_COUNT 1).setReg .intUawlast (BitVec.ofNat 64 (off + 2 ^ 31))

/-- A write of 4 or 8 bytes to the control window at some privilege (R4, R7, R8, R13). -/
def State.ctlWrite (s : State) (p : Priv) (off : Nat) (size : CtlSize) (v : Word) : State :=
  let c := ctlPlace off
  let w := accessValue off size v
  let m := accessBits off size
  if s.ctlServes c = false then s
  else match c with
    | .reg r => if r.writable p then s.ctlEffect p r w m else s
    | .mapbuf o => if p = .job then s else s.putMapbuf o w m
    | .table o => if p = .job then s else s.writeTable o w m
    | .pba _ => s
    | .unassigned => s.unassignedWrite off

/-- What a read of the bits `m` of a register returns, and what it does: RC fields are cleared, but not at privilege 2 (R53), and a read
of the upper half of EVR_WIN7 may advance the window (R437). -/
def State.regRead (s : State) (p : Priv) (r : Reg) (m : Word) : State × Word :=
  let v := s.view r &&& r.readMask
  if r.readable p = false then (s, 0)
  else if p = .job then (s, v)
  else
    let s := s.clearRead r m
    (if r = .evrWin 7 ∧ getBits m (32, 32) ≠ 0 then s.advanceWindow else s, v)

/-- A read of 4 or 8 bytes of the control window at some privilege. -/
def State.ctlRead (s : State) (p : Priv) (off : Nat) (size : CtlSize) : State × Word :=
  let c := ctlPlace off
  let m := accessBits off size
  if s.ctlServes c = false then (s, 0)
  else match c with
    | .reg r =>
      let q := s.regRead p r m
      (q.1, accessPart off size q.2)
    | .mapbuf o => (s, if p = .job then 0 else accessPart off size (BitVec.ofNat 64 (ofBytes (s.mapBytes (o / 8 * 8) 8))))
    | .table o => (s, if p = .job then 0 else accessPart off size (s.tableWord o))
    | .pba o => (s, if p = .job then 0 else accessPart off size (s.pbaWord o))
    | .unassigned => (s, 0)

/-- The width of an access of 4 or 8 bytes. -/
def ctlSize (n : Nat) : CtlSize := if n = 4 then .w4 else .w8

/-- amo.add on a cleat register (R138, R204): the old value; at privilege 2 nothing is written. -/
def State.cleatAmo (s : State) (p : Priv) (q : Fin 256 × Cleat) (v : Word) : State × Word :=
  (if p = .job then s else s.addCleat q.1 q.2 v, s.cleat q.1 q.2)

/-- Answer a read. -/
def State.answer (s : State) (o : Out) : State := { s with out := s.out ++ [o] }

/-- An access of the control window whose address is not a multiple of its size (R3). -/
def accBad (q : CtlAcc) : Bool := q.off.toNat % ctlBytes q.size != 0

/-- Write through an access of the control window; a misaligned one writes nothing. -/
def State.accWrite (s : State) (q : CtlAcc) (v : Word) : State := if accBad q then s else s.ctlWrite q.priv q.off.toNat q.size v

/-- Read through an access of the control window and answer with its value; a misaligned one reads nothing. -/
def State.accRead (s : State) (q : CtlAcc) : State :=
  if accBad q then s.answer .abort
  else
    let r := s.ctlRead q.priv q.off.toNat q.size
    r.1.answer (.data (toBytes (ctlBytes q.size) r.2.toNat))

/-! ## The commands -/

/-- REGISTER_WRITE (R5). -/
def execRegisterWrite (q : CtlAcc) (value : Word) (s : State) : Host.Outcome State Fault Refusal := runs s fun s => s.accWrite q value

/-- RC_COUNTER_READ (R53): a read of a register. -/
def execRcCounterRead (q : CtlAcc) (s : State) : Host.Outcome State Fault Refusal := runs s fun s => s.accRead q

/-- CONTROL_WINDOW_NARROW_ACCESS (R4): of a core, an address fault (or an alignment fault, R3) of its ld or st; of another agent, an
access that reads nothing and writes nothing. -/
def execControlWindowNarrowAccess (who : Option At) (off : BitVec 30) (two write : Bool) (_value : BitVec 16) (s : State) :
    Host.Outcome State Fault Refusal :=
  match who with
  | none => runs s fun s => if write then s else s.answer .abort
  | some a =>
    let n := if two then 2 else 1
    let op := if write then 0x37 + b2n two else 0x30 + b2n two
    let g : Word := BitVec.ofNat 64 (0xFF0000000000 + off.toNat)
    execIns a op 1 0 false (fun i s => match s.checkAccess i.x g n write with
      | .error f => s.fault i f
      | .ok _ => s.fault i (.addr g.toNat)) s

/-- UNASSIGNED_OFFSET_WRITE (R8). -/
def execUnassignedOffsetWrite (q : CtlAcc) (value : Word) (s : State) : Host.Outcome State Fault Refusal := runs s fun s => s.accWrite q value

/-- HUB_LOCK_WRITE (R7). -/
def execHubLockWrite (priv : Priv) (size : CtlSize) (value : Word) (s : State) : Host.Outcome State Fault Refusal :=
  runs s fun s => s.ctlWrite priv Reg.hubLock.offset size value

/-- CLRN_WRITE (R204). -/
def execClrnWrite (priv : Priv) (x : CtxId) (size : CtlSize) (value : Word) (s : State) : Host.Outcome State Fault Refusal :=
  runs s fun s => s.ctlWrite priv (Reg.clr x.core x.n).offset size value

/-- DRLCTL_TARGET_WRITE (R365). -/
def execDrlctlTargetWrite (priv : Priv) (k : Fin 16) (size : CtlSize) (value : Word) (s : State) : Host.Outcome State Fault Refusal :=
  runs s fun s => s.ctlWrite priv (Reg.cluDrlctl k).offset size value

/-- P2_SHADOW_ACCESS (R366): a register of a cluster in P2 is read and written as ever, out of the Hub's shadow. -/
def execP2ShadowAccess (q : CtlAcc) (write : Bool) (value : Word) (s : State) : Host.Outcome State Fault Refusal :=
  runs s fun s => if write then s.accWrite q value else s.accRead q

/-- ICU_PEND_CLEAR (R406). -/
def execIcuPendClear (priv : Priv) (d : Fin 2) (i : Fin 8) (value : Word) (s : State) : Host.Outcome State Fault Refusal :=
  runs s fun s => s.ctlWrite priv (Reg.icuPend d i).offset .w8 value

/-- ICU_ROUTE_WRITE (R407). -/
def execIcuRouteWrite (priv : Priv) (d : Fin 2) (src : Fin 256) (value : Word) (s : State) : Host.Outcome State Fault Refusal :=
  runs s fun s => s.ctlWrite priv (Reg.icuRoute d src).offset .w8 value

/-- ICU_RAISE (R407). -/
def execIcuRaise (priv : Priv) (d : Fin 2) (src : Fin 512) (s : State) : Host.Outcome State Fault Refusal :=
  runs s fun s => s.ctlWrite priv (Reg.icuRaise d).offset .w8 (BitVec.ofNat 64 src.val)

/-- INTERRUPT_EDGE (R404). -/
def execInterruptEdge (d : Fin 2) (src : Fin 512) (s : State) : Host.Outcome State Fault Refusal := runs s fun s => s.edge d src

/-- HUB_TIMER_EXPIRE (R407): the timebase reaches a timer's deadline, which returns to 0. -/
def execHubTimerExpire (d : Fin 2) (n : Fin 4) (t : Fin 16) (s : State) : Host.Outcome State Fault Refusal :=
  runs s fun s =>
    let r : Reg := .icuHtmr d n t
    let v := s.fld r F.icuHtmr_DEADLINE
    if v = 0 ∨ s.time < v then s else (s.setFld r F.icuHtmr_DEADLINE 0).edge d (Fin.ofNat _ (256 + 64 * n.val + t.val))

/-- EVR_CURSOR_WRITE (R437). -/
def execEvrCursorWrite (priv : Priv) (size : CtlSize) (value : Word) (s : State) : Host.Outcome State Fault Refusal :=
  runs s fun s => s.ctlWrite priv Reg.evrCur.offset size value

/-- EVR_WINDOW_ADVANCE (R437): a read of all of EVR_WIN7, or of its upper half. -/
def execEvrWindowAdvance (priv : Priv) (size : CtlSize) (s : State) : Host.Outcome State Fault Refusal :=
  runs s fun s =>
    let off := (Reg.evrWin 7).offset + (match size with
      | .w4 => 4
      | .w8 => 0)
    let q := s.ctlRead priv off size
    q.1.answer (.data (toBytes (ctlBytes size) q.2.toNat))

/-- ODOMETER_CLEAR (R438). -/
def execOdometerClear (priv : Priv) (upto : BitVec 32) (sevmax : Fin 4) (s : State) : Host.Outcome State Fault Refusal :=
  runs s fun s => s.ctlWrite priv Reg.evrClr.offset .w8 (BitVec.ofNat 64 (upto.toNat + sevmax.val * 2 ^ 32 + 2 ^ 34))

/-- PMU_LATCH (R445). -/
def execPmuLatch (priv : Priv) (s : State) : Host.Outcome State Fault Refusal := runs s fun s => s.ctlWrite priv Reg.pmuCtl.offset .w8 1

/-- PMU_MARK (R450). -/
def execPmuMark (priv : Priv) (value : Word) (s : State) : Host.Outcome State Fault Refusal :=
  runs s fun s => s.ctlWrite priv Reg.pmuMark.offset .w8 value

end Sys2Proof.Machine
end

