-- ==== Sys2Proof/Machine/Crank.lean ====
section
/-!
DEFINITION. The Crank's update of weights and moments (R112, R113, R190, R191, R215-R218).
-/

namespace Sys2Proof.Machine

/-- The fields of a parameter block (R191), as binary32 values. -/
structure Params where
  lr : Num
  b1 : Num
  b2 : Num
  eps : Num
  wd : Num
  clip : Num
  bc1 : Num
  bc2 : Num

/-- The parameter block at an address. -/
def State.params (s : State) (a : Nat) : Params :=
  let f (k : Nat) : Num := f32 (ofBytes (s.bytes (a + 4 * k) 4))
  ⟨f 0, f 1, f 2, f 3, f 4, f 5, f 6, f 7⟩

/-- rn(x × y). -/
def rnMul (x y : Num) : Num := rn (x.mul y)

/-- gc = rn(g × CLIP) (R216, row 1). -/
def clipped (p : Params) (g : Num) : Num := rnMul g p.clip

/-- The exact value of the first moment before Q (R216, row 2). -/
def moment1 (adam : Bool) (p : Params) (m gc : Num) : Num :=
  (rnMul p.b1 m).add (if adam then rnMul (rn (Num.one.add p.b1.neg)) gc else gc)

/-- The exact value of the second moment before Q (R216, row 3). -/
def moment2 (p : Params) (v gc : Num) : Num := (rnMul p.b2 v).add (rnMul (rn (Num.one.add p.b2.neg)) (rnMul gc gc))

/-- u of the Adam family from the stored moments (R216, row 4). -/
def adamStep (p : Params) (m v : Num) : Num :=
  f32 (f32Div (rnMul m p.bc1) (rn ((f32 (f32Sqrt (rnMul v p.bc2))).add p.eps)))

/-- The exact value of the weight before Q (R216, row 5). -/
def newWeight (p : Params) (w u : Num) : Num := (w.add (rnMul p.lr.neg u)).add (rnMul (rnMul p.lr p.wd).neg w)

/-- The stored BM16 value of an element of a converted window. -/
def Conv.stored (v : Conv) (d : Desc) (r c : Nat) : Num :=
  let code := match v.rows.find? fun q => q.1 == r with
    | some q => q.2.getD c 0
    | none => 0
  let e := match v.aux.find? fun q => q.1 == d.auxOff r c with
    | some (_, b :: _) => b.toNat
    | _ => 255
  bm16Num code e

/-- A local plane of the Crank lies in DRAM or scratch of a die, where the context may access it (R154, R190). -/
def State.crankPlace (s : State) (x : CtxId) (write : Bool) (q : Nat × Nat) : Bool :=
  let die : Option (Fin 2) := match s.place (s.privOf x) q.1 with
    | some (.dram d _) => some d
    | some (.scratch k _) => some (dieOfCluster k)
    | _ => none
  die == some (dieOf x.core) && (s.spanFault x (.here q.1) q.2 write).isNone

/-- The address fault of a window of crank.upd. -/
def State.crankFaults (s : State) (x : CtxId) (d : Desc) (t : T4) (write : Bool) : List Flt :=
  let w := d.clip d.whole
  lowestFirst ((d.parts w (fmtA128 d.fmt)).filterMap fun q =>
    let a := (d.plane q.1).toNat + q.2.1
    if 2 ^ 48 ≤ a ∨ s.crankPlace x write (a, q.2.2) = false then some (d.elemAt q.1 q.2.1, (Flt.addr a).of t) else none)

/-- crank.upd's use of the shapes of R190. -/
def sameGrid (a b : Desc) : Bool := a.rows == b.rows && a.cols == b.cols && a.rowoff == b.rowoff && a.coloff == b.coloff

/-- The windows that an update writes: the weights, the first moment and, for the Adam family, the second (R190). -/
def State.updOuts (s : State) (x : CtxId) (ta tb tc : T4) (adam : Bool) : List (Desc × T4) :=
  (s.tile x ta, ta) :: (s.tile x tb, tb) :: (if adam then [(s.tile x tc, tc)] else [])

/-- Every fault of a crank.upd before it reads (R190, R191, R154). -/
def State.updFaults (s : State) (i : Ins) (ta tb tc tg : T4) (sp : R5) (adam : Bool) : List Flt :=
  let x := i.x
  let w := s.tile x ta
  let g := s.tile x tg
  let outs := s.updOuts x ta tb tc adam
  let bad := outs.any (fun p => p.1.fmt != 7 || p.1.tr || !sameGrid p.1 w) || g.tr || !sameGrid g w ||
    !(fmtA128 g.fmt || g.fmt == 6 || g.fmt == 4)
  let pa := s.sreg x sp
  let block : List Flt := match s.checkAccess x pa 64 false with
    | .error e => [e]
    | .ok (.here a) => if (s.bytes (a + 32) 32).any (fun b => b != 0) then [Flt.operand 0 0] else []
    | .ok _ => [Flt.addr pa.toNat]
  (outs.map fun p => s.descFaults p.1 p.2 true true true).flatten ++ s.descFaults g tg true false true ++
    (if bad then [Flt.operand 0 0] else []) ++ block ++ (outs.map fun p => s.crankFaults x p.1 p.2 true).flatten ++
    s.crankFaults x g tg false

/-- The byte ranges of the windows of an update. -/
def State.updWindows (s : State) (x : CtxId) (ta tb tc tg : T4) (adam : Bool) : List (Nat × Nat) :=
  let part (d : Desc) : List (Nat × Nat) := d.ranges (d.clip d.whole) true
  ((s.updOuts x ta tb tc adam).map fun p => part p.1).flatten ++ part (s.tile x tg)

/-- The checked blocks of an update's windows, in order (R330): the address of the first that mismatches. -/
def State.updChecked (s : State) (x : CtxId) (ta tb tc tg : T4) (adam : Bool) : State × Option Nat :=
  (((s.updOuts x ta tb tc adam).map Prod.fst) ++ [s.tile x tg]).foldl (fun (r : State × Option Nat) d =>
    let q := r.1.verifyWindow .crank (dieOf x.core) d (d.clip d.whole); (q.1, r.2.or q.2)) (s, none)

/-- One window of an update as it is written: rounded by dither at its tensor's id and the weight's linear index (R215, R217). -/
def updConv (w d : Desc) (l : Latch) (f : Nat → Nat → Num) : Conv :=
  convert d l (0, 0) f .dither fun r c => ⟨l.seed.truncate 32, BitVec.ofNat 24 d.tid, BitVec.ofNat 40 (w.linear r c), 0xFFFFFFFF⟩

/-- What an update writes (R215, R216): the moments from the stored gradient, then the weights from the stored moments. -/
def State.updWrites (s : State) (l : Latch) (p : Params) (w m v g : Desc) (adam : Bool) : List (Conv × Desc) :=
  let gv (r c : Nat) : Num := (s.gradVal g r c).num
  let wv (r c : Nat) : Num := (s.elemVal w r c).num
  let mv (r c : Nat) : Num := (s.elemVal m r c).num
  let vv (r c : Nat) : Num := (s.elemVal v r c).num
  let cm := updConv w m l fun r c => moment1 adam p (mv r c) (clipped p (gv r c))
  let cv := updConv w v l fun r c => moment2 p (vv r c) (clipped p (gv r c))
  let u (r c : Nat) : Num := if adam then adamStep p (cm.stored m r c) (cv.stored v r c) else cm.stored m r c
  (cm, m) :: (if adam then [(cv, v)] else []) ++ [(updConv w w l fun r c => newWeight p (wv r c) (u r c), w)]

/-- The NaN elements that an update reads. -/
def State.updNans (s : State) (w m v g : Desc) (adam : Bool) : List NanSeen :=
  let seen (d : Desc) (opnd : Nat) (f : Nat → Nat → Val) : List NanSeen :=
    (w.clip w.whole).cells.filterMap fun e => d.nanOf opnd e.1 e.2 (f e.1 e.2)
  seen w 1 (s.elemVal w) ++ seen m 2 (s.elemVal m) ++ (if adam then seen v 0 (s.elemVal v) else []) ++ seen g 0 (s.gradVal g)

/-- The output whose NaN element of lowest index a trap names. -/
def nanOut (writes : List (Conv × Desc)) (w : Desc) : Desc :=
  let firsts := writes.filterMap fun e => e.1.nans.min?.map fun k => (k, e.2)
  (firsts.foldl (fun (z : Nat × Desc) e => if e.1 < z.1 then e else z) (2 ^ 64, w)).2

/-- The Crank that runs a cluster's updates: its own, or that of cluster k XOR 1 while its own is fenced (R350). -/
def State.crankUnit (s : State) (k : Fin 16) : Fin 16 :=
  if s.flag (.cluCstat k) F.cluCstat_CRKOK then k else Fin.ofNat _ (k.val ^^^ 1)

/-- Write what an update computed, and count it. -/
def State.updCommit (s : State) (i : Ins) (l : Latch) (writes : List (Conv × Desc)) (unit : Fin 16) (n : Nat) : State :=
  let s := forAll writes s fun s e => (s.putConv i .crank e.2 e.1).checkWindow e.2 (e.2.clip e.2.whole) false i
  let s := forAll writes s fun s e => s.noteConv i l e.2 e.1 0
  let s := (s.count (.cluCrkcnt unit) F.cluCrkcnt_COUNT n).pmu 0x05 unit (some i) n
  forAll writes s fun s e => s.dumpWindow 0 i e.2

/-- The cores whose updates queue at a Crank. -/
def State.crankCores (s : State) (unit : Fin 16) : List (Fin 256) :=
  (List.finRange 256).filter fun c => s.crankUnit (clusterOf c) == unit

/-- Run an update. Under momentum SGD tC is ignored. The Crank's queue holds 16 instructions: one that finds it full waits (R190). -/
def State.crank (s : State) (i : Ins) (ta tb tc tg : T4) (sp : R5) (adam : Bool) : State :=
  let x := i.x
  let w := s.tile x ta
  let m := s.tile x tb
  let v := s.tile x tc
  let g := s.tile x tg
  match firstFault (s.updFaults i ta tb tc tg sp adam) with
  | some e => s.fault i e
  | none =>
    let a := lowAddr (s.sreg x sp)
    let windows := s.updWindows x ta tb tc tg adam
    if windows.any (fun q => s.snapHolds q.1 q.2) then s.stall i
    else if 16 ≤ s.inFlight (s.crankCores (s.crankUnit (clusterOf x.core))) 0xB8 x then s.stall i
    else match s.readServed .crank (clusterOf x.core) ((a, 64) :: windows) with
    | (s, some q) => s.fault i (s.dataFault ((s.updOuts x ta tb tc adam ++ [(g, tg)]).map fun p => (p.1, p.2, p.1.clip p.1.whole)) q)
    | (s, none) =>
      match s.updChecked x ta tb tc tg adam with
      | (s, some b) => s.fault i ⟨7, 1, b, 0⟩
      | (s, none) =>
        let l := s.newLatch x
        let writes := s.updWrites l (s.params a) w m v g adam
        let consumed := s.updNans w m v g adam
        let unit := s.crankUnit (clusterOf x.core)
        let s := ((s.dumpWindow 1 i w).dumpWindow 2 i m).tileStarts i [w, m, v, g] none (.plain 0 0)
        s.guardNan i consumed (writes.map fun e => e.1.nans).flatten (nanOut writes w) fun s =>
          (s.updCommit i l writes unit (w.clip w.whole).cells.length).advance i

/-- crank.upd tA, tB, tC (R190): RULE 0b10 and 0b11 are illegal. With its own Crank fenced, the cluster's instructions
run at the Crank of cluster k XOR 1 (R350). -/
def execCrankUpd (a : At) (ta tb tc tg : T4) (sp : R5) (rule : Fin 4) (tag : OpTag) (s : State) :
    Host.Outcome State Fault Refusal :=
  execIns a 0xB8 1 tag (decide (2 ≤ rule.val)) (fun i s => s.crank i ta tb tc tg sp (rule.val == 1)) s

end Sys2Proof.Machine
end

