-- ==== Sys2Proof/Machine/Replies.lean ====
section
/-!
DEFINITION. The answers to this module's requests (R274, R275), request timeouts, cleat signals from the fabric (R200, R202) and
probes (R286).
-/

namespace Sys2Proof.Machine

/-- The instruction that issued a request. -/
def State.reqIns (s : State) (r : Req) : Ins :=
  { x := r.x, op := r.op, words := 1, tag := r.optag, iaddr := r.iaddr, layer := r.layer, mbatch := r.mbatch,
    step := (s.stepOf r.x).truncate 32, raise := 0 }

/-- The outstanding request with a tag. -/
def State.reqOf (s : State) (tag : Nat) : Option Req := s.fab.reqs.find? fun r => r.tag == tag

/-- A request is over: its tag is freed, and the Hub's oldest waiting request may take it (R274). -/
def State.freeReq (s : State) (tag : Nat) : State :=
  ({ s with fab := { s.fab with reqs := s.fab.reqs.filter fun (r : Req) => r.tag != tag } }).showFctx.hubNext

/-- One answer of a request has come; a multicast write waits for one from each member (R267). -/
def State.answered (s : State) (r : Req) : State :=
  if r.acks ≤ 1 then s.freeReq r.tag
  else { s with fab := { s.fab with reqs := s.fab.reqs.map fun (q : Req) => if q.tag = r.tag then { q with acks := q.acks - 1 } else q } }

/-- The global address of a request. -/
def Req.global (r : Req) : Nat := (if 1 < r.acks then 2 else 1) * 2 ^ 62 + r.dst * 2 ^ 48 + r.addr

/-- A context waits for this request. -/
def State.waitsFor (s : State) (r : Req) : Bool := (s.ctx r.x).wait == some (.reply r.tag)

/-- Change entry `nth` of the round of an issue window with a serial number. -/
def State.modEntry (s : State) (w : Fin 256) (serial nth : Nat) (f : IEntry → IEntry) : State :=
  let v := s.host.wins.get w IssueWin.reset
  let rounds := v.rounds.map fun (r : Round) => if r.serial = serial then { r with entries := r.entries.modify nth f } else r
  { s with host := { s.host with wins := s.host.wins.set w { v with rounds := rounds } } }

/-- The round of an issue window with a serial number. -/
def State.roundOf (s : State) (w : Fin 256) (serial : Nat) : Option Round :=
  (s.host.wins.get w IssueWin.reset).rounds.find? fun r => r.serial == serial

/-- A request ends with a fault (R275): its instruction faults, its store or transfer reports it. -/
def State.failReq (s : State) (r : Req) (f : Flt) : State :=
  let s := s.freeReq r.tag
  match r.kind with
  | .load _ _ _ => if s.waitsFor r then (s.fault (s.reqIns r) f).payOwed r.x else s
  | .desc _ => if s.waitsFor r then (s.fault (s.reqIns r) f).payOwed r.x else s
  | .amo _ => if s.waitsFor r then (s.fault (s.reqIns r) f).payOwed r.x else s
  | .store => s.storeFault (s.reqIns r) f
  | .bgRead b _ _ _ => match s.core.bg.find? fun g => g.id == b with
    | some g => s.bgFault g f
    | none => s
  | .bgWrite b _ => match s.core.bg.find? fun g => g.id == b with
    | some g => s.bgFault g f
    | none => s
  | .snapshot n => { s with plt := { s.plt with snap := s.plt.snap.map fun (p : Snap) => { p with failed := p.failed.or (some n) } } }
  | .fused => s
  | .hostCopy w n k _ _ => s.modEntry w n k fun (e : IEntry) =>
      { e with status := if e.status = 0 then (if f.code = 6 ∨ f.code = 2 then 3 else 5) else e.status }
  | .mgmt => s
  | .probe _ => s

/-- A response whose tag is not outstanding is discarded and counted (R275). -/
def State.lateResponse (s : State) : State := s.count .spkmFcstat F.spkmFcstat_LATE 1

/-- Whether a request is a core's own: its response crosses the die bridge where it came by a Spoke of the other die. -/
def ReqKind.ofCore : ReqKind → Bool
  | .load _ _ _ => true
  | .desc _ => true
  | .store => true
  | .amo _ => true
  | .bgRead _ _ _ _ => true
  | .bgWrite _ _ => true
  | .fused => true
  | .snapshot _ => false
  | .hostCopy _ _ _ _ _ => false
  | .mgmt => false
  | .probe _ => false

/-- Whether the stopped die bridge lies between the Spoke by which a packet came and a die of this module (R115). -/
def State.cutFrom (s : State) (frm : Option SpokeId) (d : Fin 2) : Bool :=
  s.flag .hubBrgcnt F.hubBrgcnt_DOWN && frm.any fun p => dieOfSpoke p != d

/-- Take a response of a type and find its request. -/
def State.onResponse (s : State) (typ : Nat) (f : Req → Packet → State → State) : State :=
  match s.takeFrom fun frm k => k.typ == typ && !((s.reqOf k.tag).any fun r => r.kind.ofCore && s.cutFrom frm (dieOf r.x.core)) with
  | none => s
  | some (s, _, k) => match s.reqOf k.tag with
    | none => s.lateResponse
    | some r => f r k s

/-- A loaded value: zero- or sign-extended (R137). -/
def loadVal (bytes : Nat) (signed : Bool) (v : Nat) : Word :=
  if signed then BitVec.ofInt 64 (Machine.signed (8 * bytes) v) else BitVec.ofNat 64 (v % 2 ^ (8 * bytes))

/-- A waiting context's access is answered: it goes on. -/
def State.resumeReply (s : State) (r : Req) (rd : R5) (v : Word) : State :=
  if s.waitsFor r then ((s.setSreg r.x rd v).advance (s.reqIns r)).payOwed r.x else s

/-- PKT_RDRSP (R274). -/
def execPktRdrsp (s : State) : Host.Outcome State Fault Refusal :=
  runs s fun s => s.onResponse 0x04 fun r pk s => match r.kind with
    | .load rd n sg => (s.resumeReply r rd (loadVal n sg (ofBytes (pk.payload.take n)))).freeReq r.tag
    | .desc td =>
      let s := if s.waitsFor r then ((s.setTile r.x td (Desc.ofBytes (pk.payload.take 64))).advance (s.reqIns r)).payOwed r.x else s
      s.freeReq r.tag
    | .hostCopy w n k off bytes =>
      let s := (s.freeReq r.tag).modEntry w n k fun (e : IEntry) => { e with moved := e.moved + bytes }
      match (s.roundOf w n).bind fun q => q.entries[k]? with
      | some e =>
        if s.host.up && s.host.master && !s.host.d3hot then
          { s with out := s.out ++ [.hostWrite (e.w1.toNat + off) (pk.payload.take bytes)] }
        else s
      | none => s
    | .bgRead b nth plane off =>
      (s.freeReq r.tag).modBg b fun g => { g with data := g.data ++ [(nth, plane, off, pk.payload)] }
    | _ => s.lateResponse

/-- PKT_WRACK (R274). -/
def execPktWrack (s : State) : Host.Outcome State Fault Refusal :=
  runs s fun s => s.onResponse 0x05 fun r _ s => match r.kind with
    | .store => s.answered r
    | .bgWrite _ _ => s.answered r
    | .snapshot _ => s.answered r
    | .fused => s.answered r
    | .hostCopy w n k _ bytes => (s.answered r).modEntry w n k fun (e : IEntry) => { e with moved := e.moved + bytes }
    | _ => s.lateResponse

/-- PKT_AMORSP (R274): the old value. -/
def execPktAmorsp (s : State) : Host.Outcome State Fault Refusal :=
  runs s fun s => s.onResponse 0x06 fun r k s => match r.kind with
    | .amo rd => (s.resumeReply r rd (BitVec.ofNat 64 (ofBytes (k.payload.take 8)))).freeReq r.tag
    | _ => s.lateResponse

/-- The fault that the code of an ERRRSP names (R275). -/
def errFault (code a : Nat) : Flt := if code = 2 then .addr a else if code = 3 then { Flt.privilege with value := a } else .data a

/-- PKT_ERRRSP (R275). -/
def execPktErrrsp (s : State) : Host.Outcome State Fault Refusal :=
  runs s fun s => s.onResponse 0x07 fun r k s => s.failReq r (errFault (k.spec 168 4) r.global)

/-- PKT_MGRSP (R274). -/
def execPktMgrsp (s : State) : Host.Outcome State Fault Refusal :=
  runs s fun s => s.onResponse 0x0E fun r _ s => match r.kind with
    | .mgmt => s.freeReq r.tag
    | _ => s.lateResponse

/-- PKT_PRBRSP (R286). -/
def execPktPrbrsp (s : State) : Host.Outcome State Fault Refusal :=
  runs s fun s => s.onResponse 0x10 fun r k s => match r.kind with
    | .probe p => (s.freeReq r.tag).probeAnswered p (k.spec 168 20) (k.spec 188 1 == 1)
    | _ => s.lateResponse

/-- PKT_PROBE (R286): answered with the named Spoke's LASTRX. -/
def execPktProbe (s : State) : Host.Outcome State Fault Refusal :=
  runs s fun s => match s.takePacket fun k => k.typ == 0x0F with
    | none => s
    | some (s, _, k) =>
      let v := s.reg (.spkPrb (Fin.ofNat _ (k.spec 168 3)))
      s.send { s.packet 0x10 0 k.src 0 [] with tag := k.tag, fctx := k.fctx, gtag := k.gtag, tspec := v.toNat % 2 ^ 21 }

/-- PKT_SIG (R200, R202): a cleat add from the fabric. -/
def execPktSig (s : State) : Host.Outcome State Fault Refusal :=
  runs s fun s => match s.takeFrom fun frm k => k.typ == 0x08 && !((cleatAt k.addr).any fun q => s.cutFrom frm (dieOf q.1)) with
    | none => s
    | some (s, _, k) => match cleatAt k.addr with
      | some q => s.addCleat q.1 q.2 (BitVec.ofNat 64 (k.spec 168 64))
      | none => s

/-- The Spoke that a request left by, for its timeout event: the first on its way, S0 where there is none (log entry 46). -/
def State.spokeFor (s : State) (dst : Nat) : SpokeId :=
  ((s.nextHops (s.packet 0x03 5 dst 0 []) none).filterMap fun h => match h with
    | .out q _ => some q
    | _ => none).headD 0

/-- REQUEST_TIMEOUT (R275). -/
def execRequestTimeout (tag : BitVec 16) (s : State) : Host.Outcome State Fault Refusal :=
  runs s fun s => match s.reqOf tag.toNat with
    | none => s
    | some r =>
      let tmo := 100 * s.fld .spkmCtl F.spkmCtl_TMO
      if s.time < r.at_ + tmo then s
      else
        let s := s.count .spkmFcstat F.spkmFcstat_TMO 1
        let s := { s with fab := { s.fab with cooling := (s.fab.cooling.filter fun (c : Nat × Nat) => c.1 != r.tag) ++ [(r.tag, s.time + 4 * tmo)] } }
        let s := s.raiseSpoke (s.spokeFor r.dst) 0x70 [(2, r.fctx), (2, r.tag), (2, r.dst), (1, r.typ), (2, r.optag.toNat)]
        s.failReq r (.data r.global)

end Sys2Proof.Machine
end

