-- ==== Sys2Proof/Machine/Loads.lean ====
section
/-!
DEFINITION. Scalar loads, stores and amo.add (R137, R138), and the loads and stores of descriptors (R141), at local, remote and
peloton addresses.
-/

namespace Sys2Proof.Machine

/-- The global address of a scalar access: sa + imm. -/
def State.effAddr (s : State) (i : Ins) (ra : R5) (imm : Imm) : Word := s.sreg i.x ra + imm.signExtend 64

/-- Where a scalar access leads: this module's own number names this module. -/
def State.homeTarget (s : State) (t : Target) : Target :=
  match t with
  | .remote m a => if m = s.lmn then .here a else .remote m a
  | t => t

/-- Whether a local address lies in the control window, and its offset there. -/
def ctlOff (a : Nat) : Option Nat := if 0xFF0000000000 ≤ a ∧ a < 0xFF0040000000 then some (a - 0xFF0000000000) else none

/-- Whether a remote scalar access of the context to the same 64 bytes is unanswered: a later one waits for it, since accesses of one
context to one address take effect in program order (R138). -/
def State.sameAddress (s : State) (x : CtxId) (a : Nat) : Bool :=
  s.fab.reqs.any fun r => r.x == x && r.kind.isScalar && r.addr / 64 == a / 64

/-- A scalar access goes into the fabric; without a free tag, or behind an access to the same address, it does not issue yet (R274). -/
def State.scalarRequest (s : State) (i : Ins) (k : Packet) (kind : ReqKind) (acks : Nat) (f : Nat → State → State) : State :=
  if s.tagFree = false ∨ s.sameAddress i.x k.addr = true then s.stall i
  else f s.freeTag (s.request k kind i s.gtag (scalarFctx i.x.core) acks)

/-- The context waits in state 3 for the answer with a tag. -/
def State.awaitReply (s : State) (i : Ins) (tag : Nat) : State := (s.setCtxState i.x 3).setWait i.x (some (.reply tag))

/-! ## Loads -/

/-- The `n` bytes at a local address as a context reads them, DRAM through its cluster's Sprocket port: a data fault at an uncorrectable word (R240). The control window answers
accesses of 4 and 8 bytes; one of 64 bytes reads eight words. -/
def State.localRead (s : State) (i : Ins) (a n : Nat) : State × Except Flt (List Byte) :=
  match ctlOff a with
  | some o =>
    if n = 64 then
      let r := (List.range 8).foldl (fun (q : State × List Byte) j =>
        let w := q.1.ctlRead (s.privOf i.x) (o + 8 * j) .w8
        (w.1, q.2 ++ toBytes 8 w.2.toNat)) (s, [])
      (r.1, .ok r.2)
    else
      let w := s.ctlRead (s.privOf i.x) o (ctlSize n)
      (w.1, .ok (toBytes n w.2.toNat))
  | none =>
    match (s.sprocketReads (clusterOf i.x.core) [(a, n)]).readRange .core a n with
    | (s, some p) => (s, .error (.data p))
    | (s, none) => (s, .ok (s.bytes a n))

/-- A load of `n` bytes (R138): `put` writes what it loaded. A load at a peloton's address is an address fault. -/
def State.loadFrom (s : State) (i : Ins) (g : Word) (n : Nat) (kind : ReqKind) (put : List Byte → State → State) : State :=
  match s.checkAccess i.x g n false with
  | .error f => s.fault i f
  | .ok t => match s.homeTarget t with
    | .here a =>
      if s.populated (s.privOf i.x) a = false then s.fault i (.addr g.toNat)
      else match s.localRead i a n with
        | (s, .error f) => s.fault i f
        | (s, .ok bs) => (put bs s).advance i
    | .remote m a =>
      s.scalarRequest i { s.packet 0x03 5 m a [] with tspec := n } kind 1 fun tag s => s.awaitReply i tag
    | .multicast _ _ => s.fault i (.addr g.toNat)

/-- Number of a width in the opcode map. -/
def widthNum : Width → Nat
  | .b => 0
  | .h => 1
  | .w => 2
  | .d => 3

/-- Number of a signed width in the opcode map. -/
def swidthNum : SWidth → Nat
  | .bs => 0
  | .hs => 1
  | .ws => 2

/-- LD: ld.b, ld.h, ld.w, ld.d (R137). -/
def execLd (a : At) (w : Width) (rd ra : R5) (imm : Imm) (s : State) : Host.Outcome State Fault Refusal :=
  execIns a (0x30 + widthNum w) 1 0 false (fun i s =>
    let n := 2 ^ widthNum w
    s.loadFrom i (s.effAddr i ra imm) n (.load rd n false) fun bs s => s.setSreg i.x rd (loadVal n false (ofBytes bs))) s

/-- LD_SIGNED: ld.bs, ld.hs, ld.ws (R137). -/
def execLdSigned (a : At) (w : SWidth) (rd ra : R5) (imm : Imm) (s : State) : Host.Outcome State Fault Refusal :=
  execIns a (0x34 + swidthNum w) 1 0 false (fun i s =>
    let n := 2 ^ swidthNum w
    s.loadFrom i (s.effAddr i ra imm) n (.load rd n true) fun bs s => s.setSreg i.x rd (loadVal n true (ofBytes bs))) s

/-- TLD (R141): td = the 64 bytes at sa. -/
def execTld (a : At) (td : T4) (sa : R5) (tag : OpTag) (s : State) : Host.Outcome State Fault Refusal :=
  execIns a 0x60 1 tag false (fun i s =>
    s.loadFrom i (s.sreg i.x sa) 64 (.desc td) fun bs s => s.setTile i.x td (Desc.ofBytes bs)) s

/-! ## Stores -/

/-- Write bytes at a local address for a context. -/
def State.localWrite (s : State) (i : Ins) (a : Nat) (bs : List Byte) : State :=
  match ctlOff a with
  | some o =>
    if bs.length = 64 then
      forAll (List.range 8) s fun s j => s.ctlWrite (s.privOf i.x) (o + 8 * j) .w8 (BitVec.ofNat 64 (ofBytes ((bs.drop (8 * j)).take 8)))
    else s.ctlWrite (s.privOf i.x) o (ctlSize bs.length) (BitVec.ofNat 64 (ofBytes bs))
  | none => s.store i .core a bs

/-- A store (R138): it completes at its target, and the context goes on. At a peloton's address it writes at every member. -/
def State.storeTo (s : State) (i : Ins) (g : Word) (bs : List Byte) : State :=
  match s.checkAccess i.x g bs.length true with
  | .error f => s.fault i f
  | .ok t => match s.homeTarget t with
    | .here a => if s.populated (s.privOf i.x) a = false then s.fault i (.addr g.toNat) else (s.advance i).localWrite i a bs
    | .remote m a => s.scalarRequest i (s.packet 0x01 3 m a bs) .store 1 fun _ s => s.advance i
    | .multicast h a =>
      if s.populated (s.privOf i.x) a = false then s.fault i (.addr g.toNat)
      else if (s.others h).isEmpty then (s.advance i).localWrite i a bs
      else s.scalarRequest i { s.packet 0x01 3 h a bs with mc := true } .store (s.others h).length fun _ s => (s.advance i).localWrite i a bs

/-- ST: st.b, st.h, st.w, st.d (R137): the low bytes of the register named by RD. -/
def execSt (a : At) (w : Width) (rd ra : R5) (imm : Imm) (s : State) : Host.Outcome State Fault Refusal :=
  execIns a (0x37 + widthNum w) 1 0 false (fun i s =>
    s.storeTo i (s.effAddr i ra imm) (toBytes (2 ^ widthNum w) (s.sreg i.x rd).toNat)) s

/-- TST (R141): the 64 bytes at sa = ts. -/
def execTst (a : At) (sa : R5) (ts : T4) (tag : OpTag) (s : State) : Host.Outcome State Fault Refusal :=
  execIns a 0x61 1 tag false (fun i s => s.storeTo i (s.sreg i.x sa) (s.tile i.x ts).bytes) s

/-! ## amo.add -/

/-- AMO_ADD (R138): the 8 bytes at sa gain sb, and sd takes their old value. In the control window it reaches cleat registers alone. -/
def execAmoAdd (a : At) (rd ra rb : R5) (s : State) : Host.Outcome State Fault Refusal :=
  execIns a 0x1B 1 0 false (fun i s =>
    let g := s.sreg i.x ra
    let v := s.sreg i.x rb
    match s.checkAccess i.x g 8 true with
    | .error f => s.fault i f
    | .ok t => match s.homeTarget t with
      | .here p =>
        if s.populated (s.privOf i.x) p = false then s.fault i (.addr g.toNat)
        else match ctlOff p with
          | some _ => match cleatAt p with
            | none => s.fault i (.addr g.toNat)
            | some q =>
              let r := s.cleatAmo (s.privOf i.x) q v
              (r.1.setSreg i.x rd r.2).advance i
          | none => match (s.sprocketReads (clusterOf i.x.core) [(p, 8)]).readRange .core p 8 with
            | (s, some e) => s.fault i (.data e)
            | (s, none) =>
              let old : Word := BitVec.ofNat 64 (ofBytes (s.bytes p 8))
              ((s.setSreg i.x rd old).advance i).store i .core p (toBytes 8 (old + v).toNat)
      | .remote m p =>
        s.scalarRequest i (s.packet 0x02 3 m p (toBytes 8 v.toNat)) (.amo rd) 1 fun tag s => s.awaitReply i tag
      | .multicast _ _ => s.fault i (.addr g.toNat)) s

end Sys2Proof.Machine
end

