-- ==== Sys2Proof/Machine/Endpoint.lean ====
section
/-!
DEFINITION. Requests of other modules at this module's endpoint: remote writes, reads and amo.add (R138, R267, R274, R275), and the
firmware packets of the management channel (R273, R422).
-/

namespace Sys2Proof.Machine

/-- The privilege at which a request of another module acts. Its header carries none: one of a core's fabric contexts (R290) acts at
privilege 2 and one of a Hub or host interface at privilege 1. -/
def Packet.priv (k : Packet) : Priv := if k.fctx < 12288 then .job else .driver

/-- A response to a request (R274). -/
def State.respond (s : State) (k : Packet) (typ tspec : Nat) (bs : List Byte) : State :=
  s.send { s.packet typ 0 k.src 0 bs with tag := k.tag, fctx := k.fctx, optag := k.optag, gtag := k.gtag, tspec := tspec }

/-- Whether all of [a, a + n) exists for a request. -/
def State.spanExists (s : State) (p : Priv) (a n : Nat) : Bool := (probes a n).all fun q => s.populated p q

/-- Whether a range of the control window is one register access: 4 or 8 bytes, aligned (R3, R4). -/
def ctlShape (o n : Nat) : Bool := (n == 4 || n == 8) && o % n == 0

/-- Whether a request that came by a Spoke of one die reaches into the other across the stopped die bridge (R115). -/
def State.requestCut (s : State) (frm : Option SpokeId) (a : Nat) : Bool :=
  s.flag .hubBrgcnt F.hubBrgcnt_DOWN && frm.any fun p => crosses (dieOfSpoke p) a

/-- Take a request of a type and answer it; one that a stopped die bridge cuts off stays. -/
def State.onRequest (s : State) (typ : Nat) (f : Packet → State → State) : State :=
  match s.takeFrom fun frm k => k.typ == typ && !(k.typ != 0x0D && s.requestCut frm k.addr) with
  | none => s
  | some (s, _, k) => f k s

/-- PKT_WR: a remote write writes memory and is answered by WRACK; at an address that does not exist, by ERRRSP code 2. A dropped partial
write is only counted (R240). -/
def execPktWr (s : State) : Host.Outcome State Fault Refusal :=
  runs s fun s => s.onRequest 0x01 fun k s =>
    let n := k.payload.length
    if s.spanExists k.priv k.addr n = false then s.errRsp k 2
    else match ctlOff k.addr with
      | some o =>
        if n = 64 ∧ o % 64 = 0 then
          (forAll (List.range 8) s fun s j =>
            s.ctlWrite k.priv (o + 8 * j) .w8 (BitVec.ofNat 64 (ofBytes ((k.payload.drop (8 * j)).take 8)))).respond k 0x05 0 []
        else if ctlShape o n = false then s.errRsp k 2
        else (s.ctlWrite k.priv o (ctlSize n) (BitVec.ofNat 64 (ofBytes k.payload))).respond k 0x05 0 []
      | none => (s.writeMem .spoke k.addr k.payload).1.respond k 0x05 0 []

/-- PKT_AMO: a remote amo.add adds to 8 bytes and is answered by AMORSP with their old value; in the control window it reaches cleat
registers alone. -/
def execPktAmo (s : State) : Host.Outcome State Fault Refusal :=
  runs s fun s => s.onRequest 0x02 fun k s =>
    let v : Word := BitVec.ofNat 64 (ofBytes k.payload)
    if s.spanExists k.priv k.addr 8 = false ∨ k.addr % 8 ≠ 0 then s.errRsp k 2
    else match ctlOff k.addr with
      | some _ => match cleatAt k.addr with
        | none => s.errRsp k 2
        | some q =>
          let r := s.cleatAmo k.priv q v
          r.1.respond k 0x06 0 (toBytes 8 r.2.toNat)
      | none => match s.readRange .spoke k.addr 8 with
        | (s, some _) => s.errRsp k 1
        | (s, none) =>
          let old : Word := BitVec.ofNat 64 (ofBytes (s.bytes k.addr 8))
          (s.writeMem .spoke k.addr (toBytes 8 (old + v).toNat)).1.respond k 0x06 0 (toBytes 8 old.toNat)

/-- PKT_RDREQ: a remote read is answered by RDRSP; an uncorrectable word by ERRRSP code 1, an address that does not exist by code 2. -/
def execPktRdreq (s : State) : Host.Outcome State Fault Refusal :=
  runs s fun s => s.onRequest 0x03 fun k s =>
    let n := k.spec 168 13
    if n = 0 ∨ 4096 < n ∨ s.spanExists k.priv k.addr n = false then s.errRsp k 2
    else match ctlOff k.addr with
      | some o =>
        if ctlShape o n then
          let r := s.ctlRead k.priv o (ctlSize n)
          r.1.respond k 0x04 0 (toBytes n r.2.toNat)
        else if n = 64 ∧ o % 64 = 0 then
          let r := (List.range 8).foldl (fun (q : State × List Byte) j =>
            let w := q.1.ctlRead k.priv (o + 8 * j) .w8
            (w.1, q.2 ++ toBytes 8 w.2.toNat)) (s, [])
          r.1.respond k 0x04 0 r.2
        else s.errRsp k 2
      | none => match s.readRange .spoke k.addr n with
        | (s, some _) => s.errRsp k 1
        | (s, none) => s.respond k 0x04 0 (s.bytes k.addr n)

/-! ## Management packets (R273, R422) -/

/-- The progress bitmap as HUB_FWBMi show it. -/
def State.bitmapBytes (s : State) : List Byte := (List.finRange 12).flatMap fun i => toBytes 8 (s.reg (.hubFwbm i)).toNat

/-- A fragment from the fabric: its status, 0 accepted, 1 refused, 2 busy. -/
def State.fabricFragment (s : State) (k : Packet) (piece : Option Nat) (frag : Nat) : State × Nat :=
  let mine := s.fw.asm.filter fun a => a.src == k.src
  let known := mine.any fun a => a.piece == piece
  if known = false ∧ 16 ≤ mine.length then (s, 2)
  else
    let rej := s.fld .hubFwstat F.hubFwstat_REJ
    let t := (s.setFld .hubFwstat F.hubFwstat_REJ 0).fragment k.src piece (4096 * frag) k.payload .fabric
    let refused := t.fld .hubFwstat F.hubFwstat_REJ
    (t.setFld .hubFwstat F.hubFwstat_REJ (max rej refused), refused)

/-- PKT_MGMT: the Hub's queue consumes a management packet and answers it by MGRSP: kind in bits [175:172] and status in [171:168]. Kinds
0x20 to 0x22 carry firmware; any other is refused. -/
def execPktMgmt (s : State) : Host.Outcome State Fault Refusal :=
  runs s fun s => s.onRequest 0x0D fun k s =>
    let kind := k.spec 168 8
    let answer (s : State) (status : Nat) (bs : List Byte) : State := s.respond k 0x0E (kind / 16 * 16 + status) bs
    if s.fwServes = false ∨ s.phase = 4 ∨ s.flag .hubFwctl F.hubFwctl_FABRICOK = false then answer s 1 []
    else if kind = 0x20 then
      let r := s.fabricFragment k none (k.spec 186 4)
      answer r.1 r.2 []
    else if kind = 0x21 then
      let r := s.fabricFragment k (some (k.spec 176 10)) (k.spec 186 4)
      answer r.1 r.2 []
    else if kind = 0x22 then answer s 0 s.bitmapBytes
    else answer s 1 []

end Sys2Proof.Machine
end

