-- ==== Sys2Proof/Machine/Host.lean ====
section
/-!
DEFINITION. The PCI Express endpoint: link training, hot reset and D3hot (R382, R389, R390), BAR0 and BAR2 (R391-R394), and the issue
windows with their rounds, copies and register entries (R395-R398).
-/

namespace Sys2Proof.Machine

/-! ## The link -/

/-- The endpoint answers memory requests: the module has power, the link is up and the endpoint is in D0. -/
def State.hostServes (s : State) : Bool := !s.pow.off && s.host.up && !s.host.d3hot

/-- PCIE_LINK_TRAINED (R390): speed 1-5 and a width in lanes. The host's configuration of the endpoint, which the table gives no row of
its own, is part of it: bus mastering and MSI-X are enabled. -/
def execPcieLinkTrained (speed : BitVec 3) (width : BitVec 5) (rev : Bool) (s : State) : Host.Outcome State Fault Refusal :=
  runs s fun s =>
    let sp := speed.toNat
    let wd := width.toNat
    if s.pow.off = true ∨ s.pow.inReset = true ∨ s.pins.perst = false ∨ sp = 0 ∨ 5 < sp ∨ wd ∉ [1, 2, 4, 8, 16] then s
    else
      let slow := decide (sp < 5 ∨ wd < 16)
      let v := putBits (putBits (putBits (s.reg .pciLstat) F.pciLstat_SPEED sp) F.pciLstat_WIDTH wd) F.pciLstat_REV (b2n rev)
      let s := s.setReg .pciLstat (putBits (putBits v F.pciLstat_UP 1) F.pciLstat_REDUCED (b2n slow))
      let s := { s with host := { s.host with up := true, master := true, msixEnable := true, d3hot := false } }
      if slow then s.raiseEv 0 7 0x40 [(1, sp), (1, wd)] else s

/-- Whether an access of the endpoint, which stands on Yalar-0, reaches into Yalar-1 across the stopped die bridge (R115). -/
def State.hostCut (s : State) (a : Nat) : Bool := s.flag .hubBrgcnt F.hubBrgcnt_DOWN && crosses 0 a

/-! ## BAR0: apertures (R391-R393) -/

/-- A Completer Abort or a dropped write (R393). -/
def State.completerAbort (s : State) (write : Bool) : State :=
  let s := s.count .pciErr F.pciErr_CA 1
  if write then s else s.answer .abort

/-- Where a BAR0 access leads: an offset of the control window, nothing behind an aperture that is not enabled, or an issue window. -/
inductive Bar0Place where
  | control (off : Nat)
  | closed
  | window (w : Fin 256) (off : Nat)
  deriving DecidableEq, Repr

/-- Where a BAR0 offset leads (R391). -/
def State.bar0Place (s : State) (off : Nat) : Bar0Place :=
  let m := off / 0x100000
  if m = 0 then .control (0x04000000 + off)
  else if m < 63 then
    let r : Reg := .pciAper (Fin.ofNat _ (m - 1))
    if s.flag r F.pciAper_EN then .control (s.fld r F.pciAper_BASE * 0x100000 + off % 0x100000) else .closed
  else .window (Fin.ofNat _ ((off - 0x03F00000) / 0x1000)) (off % 0x1000)

/-! ## Issue windows (R395, R396) -/

/-- An issue window. -/
def State.window (s : State) (w : Fin 256) : IssueWin := s.host.wins.get w IssueWin.reset

/-- Set an issue window. -/
def State.setWindow (s : State) (w : Fin 256) (v : IssueWin) : State := { s with host := { s.host with wins := s.host.wins.set w v } }

/-- A round is refused, or a write dropped (R396): its flag, event 0x07:0x0001 and source 192. Reasons: 1 SEQ, 2 COUNT, 3 a reserved
bit, 4 EN, 5 a dropped write. -/
def State.roundRefuse (s : State) (w : Fin 256) (seq reason : Nat) : State :=
  (s.setFld (.pciIwstat w) (if reason = 5 then F.pciIwstat_DROP else F.pciIwstat_REFUSED) 1).raiseEv 0 7 0x01 [(1, w.val), (2, seq), (1, reason)]

/-- The 8 bytes of a window at an offset. -/
def IssueWin.word (v : IssueWin) (o : Nat) : Word := BitVec.ofNat 64 (ofBytes ((List.range 8).map fun i => v.cells.get (o + i) 0))

/-- Entry `i` as it stands in a window. -/
def IssueWin.entry (v : IssueWin) (i : Nat) : IEntry :=
  { w0 := v.word (32 * i), w1 := v.word (32 * i + 8), w2 := v.word (32 * i + 16), w3 := v.word (32 * i + 24), phase := 0, status := 0, moved := 0 }

/-! ### Entries -/

/-- OPC of an entry. -/
def IEntry.opc (e : IEntry) : Nat := getBits e.w0 (0, 8)

/-- The opcodes of issue entries. -/
def knownOpc (n : Nat) : Bool := n ∈ [0x01, 0x02, 0x03, 0x04, 0x05, 0x06, 0x10, 0x11, 0x12, 0x13, 0x14, 0x15, 0x16]

/-- Whether an opcode is a command of the step service. -/
def svcOpc (n : Nat) : Bool := decide (0x10 ≤ n ∧ n ≤ 0x15)

/-- Whether an entry waits for every earlier one of its round (R397). -/
def IEntry.waits (e : IEntry) : Bool := getBits e.w0 (8, 1) == 1 || e.opc == 0x05 || e.opc == 0x16 || svcOpc e.opc

/-- Whether word 0 has the form of R396: reserved bits 0, and ARG 0 but for the NOW of a HOLD. -/
def IEntry.formed (e : IEntry) : Bool :=
  getBits e.w0 (11, 5) == 0 && (if e.opc = 0x12 then getBits e.w0 (33, 31) == 0 else getBits e.w0 (32, 32) == 0)

/-- Write the completion record of an entry (R398). -/
def State.entryRecord (s : State) (q : Round) (i : Nat) (e : IEntry) : State :=
  if getBits e.w0 (9, 1) = 0 ∨ q.page = 0 then s
  else s.toHost (q.page + 32 * i) (List.flatten
    [toBytes 2 q.seq, toBytes 2 (getBits e.w0 (16, 16)), toBytes 1 e.status, List.replicate 3 0, toBytes 8 e.moved, toBytes 8 s.time,
     List.replicate 8 0])

/-- End entry `i` of a round with a status (R397, R398): a failure skips every later entry that has not started. -/
def State.endEntry (s : State) (w : Fin 256) (q : Round) (i status : Nat) : State :=
  match ((s.roundOf w q.serial).getD q).entries[i]? with
  | none => s
  | some e =>
    let e : IEntry := { e with phase := 2, status := status }
    let s := (s.modEntry w q.serial i fun _ => e).entryRecord q i e
    if status = 0 then s
    else
      let s := s.setFld (.pciIwstat w) F.pciIwstat_ERR 1
      let s := s.raiseEv 0 7 0x02 [(1, w.val), (2, q.seq), (1, i), (1, status)]
      let later := (List.range ((s.roundOf w q.serial).getD q).entries.length).filter fun j => decide (i < j)
      forAll later s fun s j => match ((s.roundOf w q.serial).getD q).entries[j]? with
        | some e => if e.phase = 0 then
            let e : IEntry := { e with phase := 2, status := 7 }
            (s.modEntry w q.serial j fun _ => e).entryRecord q j e
          else s
        | none => s

/-- The entry of a window that may start next (R397): the first one that has not, once what it waits for has ended. Commands of the step
service run in order of commit arrival over all windows. -/
def State.nextEntry (s : State) (w : Fin 256) : Option (Round × Nat × IEntry) :=
  match (s.window w).rounds with
  | [] => none
  | q :: _ => match q.entries.findIdx? fun e => e.phase == 0 with
    | none => none
    | some i => match q.entries[i]? with
      | none => none
      | some e =>
        let before := (q.entries.take i).all fun f => f.phase == 2
        let earlier := s.host.wins.any fun v => v.2.rounds.any fun r => decide (r.serial < q.serial) &&
          r.entries.any fun f => svcOpc f.opc && f.phase != 2
        if (e.waits = true ∧ before = false) ∨ (svcOpc e.opc = true ∧ earlier = true) then none else some (q, i, e)

/-- An entry whose opcode is not in the table fails as malformed once it is its turn. -/
def State.weed (s : State) (w : Fin 256) : State :=
  match s.nextEntry w with
  | some (q, i, e) => if knownOpc e.opc then s else s.endEntry w q i 1
  | none => s

/-- Run the next entry of a window if it has one of these opcodes: `f` gives the state after and the status, or no status while the
entry goes on. -/
def State.runEntry (s : State) (w : Fin 256) (opc : Nat) (jobOk : Bool) (f : Round → Nat → IEntry → State → State × Option Nat) : State :=
  match s.nextEntry w with
  | none => s
  | some (q, i, e) =>
    if e.opc ≠ opc then s
    else
      let s := s.setFld (.pciIwstat w) F.pciIwstat_BUSY 0
      if e.formed = false then (s.endEntry w q i 1).weed w
      else if jobOk = false ∧ q.priv = .job then (s.endEntry w q i 2).weed w
      else match f q i e s with
        | (s, some n) => (s.endEntry w q i n).weed w
        | (s, none) => ((s.modEntry w q.serial i fun (e : IEntry) => { e with phase := 1 }).weed w)

/-! ### Commit -/

/-- A commit word arrives (R396): a bad round is refused; otherwise the device copies its entries. -/
def State.commitRound (s : State) (w : Fin 256) (v : Word) : State :=
  let seq := getBits v (0, 16)
  let n := getBits v (16, 7)
  let st : Reg := .pciIwstat w
  let cfg : Reg := .pciIwcfg w
  if seq ≠ (s.fld st F.pciIwstat_ACCSEQ + 1) % 65536 then s.roundRefuse w seq 1
  else if n = 0 then s.roundRefuse w seq 2
  else if getBits v (23, 41) ≠ 0 then s.roundRefuse w seq 3
  else if s.flag cfg F.pciIwcfg_EN = false then s.roundRefuse w seq 4
  else
    let win := s.window w
    let q : Round := { seq := seq, serial := s.host.nextRound, priv := if s.fld cfg F.pciIwcfg_PRIV = 2 then .job else .driver,
                       page := s.fld cfg F.pciIwcfg_CPLPAGE * 4096, entries := (List.range n).map win.entry }
    let s := s.setWindow w { win with rounds := win.rounds ++ [q] }
    let s := { s with host := { s.host with nextRound := s.host.nextRound + 1 } }
    ((s.setFld st F.pciIwstat_ACCSEQ seq).setFld st F.pciIwstat_BUSY 1).weed w

/-- Write bytes into an issue window (R395): the round commits once all eight bytes of its commit word have been written. -/
def State.windowWrite (s : State) (w : Fin 256) (o : Nat) (bs : List Byte) : State :=
  let bs := bs.take (0x1000 - o)
  if s.flag (.pciIwstat w) F.pciIwstat_BUSY then s.roundRefuse w (s.fld (.pciIwstat w) F.pciIwstat_ACCSEQ) 5
  else
    let v := s.window w
    let at_ := (List.range bs.length).zip bs
    let cells := at_.foldl (fun (m : Map Nat Byte) q => m.set (o + q.1) q.2) v.cells
    let written := at_.foldl (fun (b : BitVec 8) q => if 0xFF8 ≤ o + q.1 then b ||| (1 <<< (o + q.1 - 0xFF8)) else b) v.written
    let all := written == 0xFF
    let s := s.setWindow w { v with cells := cells, written := if all then 0 else written }
    if all then s.commitRound w ((s.window w).word 0xFF8) else s

/-- ISSUE_WINDOW_WRITE (R395). -/
def execIssueWindowWrite (w : Fin 256) (off : BitVec 12) (data : List Byte) (s : State) : Host.Outcome State Fault Refusal :=
  runs s fun s => if s.hostServes then s.windowWrite w off.toNat data else s

/-- ISSUE_COMMIT (R396): a write of the whole commit word. -/
def execIssueCommit (w : Fin 256) (value : Word) (s : State) : Host.Outcome State Fault Refusal :=
  runs s fun s => if s.hostServes then s.windowWrite w 0xFF8 (toBytes 8 value.toNat) else s

/-! ## BAR0 and BAR2 accesses -/

/-- BAR0_ACCESS: `len` bytes are read, or `data` is written, at privilege 1. -/
def execBar0Access (off : BitVec 26) (len : Nat) (write : Bool) (data : List Byte) (s : State) : Host.Outcome State Fault Refusal :=
  runs s fun s =>
    let n := if write then data.length else len
    if s.hostServes = false then s
    else match s.bar0Place off.toNat with
      | .window w o =>
        if write then s.windowWrite w o data
        else s.answer (.data ((List.range n).map fun i => if o + i < 0x1000 then (s.window w).cells.get (o + i) 0 else 0))
      | p =>
        if ctlShape off.toNat n = false then s.completerAbort write
        else match p with
          | .control o =>
            if s.hostCut (0xFF0000000000 + o) then s
            else if write then s.ctlWrite .driver o (ctlSize n) (BitVec.ofNat 64 (ofBytes data))
            else
              let r := s.ctlRead .driver o (ctlSize n)
              r.1.answer (.data (toBytes n r.2.toNat))
          | _ => if write then s else s.answer (.data (List.replicate n 0))

/-- The module address of a BAR2 offset (R394): address bits below the BAR's size come from the offset. -/
def State.bar2Addr (s : State) (off : Nat) : Nat :=
  let size := 2 ^ (30 + s.host.bar2Log)
  s.fld .pciBar2map F.pciBar2map_BASE * 2 ^ 30 / size * size + off % size

/-- A read that met an uncorrectable word (R394): a poisoned completion, which AER logs (event 0x07:0x0050). -/
def State.poisoned (s : State) (n : Nat) : State :=
  let s := (s.count .pciErr F.pciErr_POISON 1).answer (.poison (List.replicate n 0xFF))
  ({ s with free := s.free + 1 }).raiseEv 0 7 0x50 [(4, 0x1000), (16, Config.headerLog s.free)]

/-- BAR2_ACCESS: `len` bytes are read, or `data` is written, in module memory at privilege 1. -/
def execBar2Access (off : BitVec 36) (len : Nat) (write : Bool) (data : List Byte) (s : State) : Host.Outcome State Fault Refusal :=
  runs s fun s =>
    let n := if write then data.length else len
    let a := s.bar2Addr off.toNat
    if s.hostServes = false ∨ n = 0 then s
    else if (ctlOff a).isSome = true ∨ (ctlOff (a + n - 1)).isSome = true ∨ s.spanExists .driver a n = false ∨ s.phase = 4 then
      s.completerAbort write
    else if s.hostCut a then s
    else
      let s := s.p3Touch a
      if write then (s.writeMem .host a data).1
      else match s.readRange .host a n with
        | (s, some _) => s.poisoned n
        | (s, none) => s.answer (.data (s.bytes a n))

/-! ## Copies (R396, R397) -/

/-- Bytes that a copy moves to or from another module in one batch. -/
def copyBatch : Nat := 0x400000

/-- Whether a device range lies in the input ring of the plan (R396, R400). -/
def State.inRing (s : State) (a n : Nat) : Bool :=
  match s.svc.plan with
  | some p => decide (p.inbase ≤ a ∧ a + n ≤ p.inbase + p.inslots * p.inslotsz)
  | none => false

/-- Where a copy's device range leads: a module and a local address; none is an address fault (R12, R397). -/
def State.copyTarget (s : State) (g : Word) (n : Nat) : Option (Option Nat × Nat) :=
  match s.target g with
  | some t => match s.homeTarget t with
    | .here a => if (ctlOff a).isSome = true ∨ (ctlOff (a + n - 1)).isSome = true ∨ s.spanExists .driver a n = false then none else some (none, a)
    | .remote m a => if a + n ≤ 2 ^ 48 then some (some m, a) else none
    | .multicast _ _ => none
  | none => none

/-- Send the next batch of a copy to or from another module, from a fabric context of the host interface (R290). -/
def State.copySend (s : State) (w : Fin 256) (q : Round) (i m a off : Nat) (read : Bool) (len : Nat) (bs : List Byte) : State :=
  let ins : Ins := { x := ⟨0, 0⟩, op := 0, words := 1, tag := 0, iaddr := 0, layer := 0, mbatch := 0, step := 0, raise := 0 }
  forAll (List.range ((len + 4095) / 4096)) s fun s j =>
    let n := min 4096 (len - 4096 * j)
    let k := if read then { s.packet 0x03 5 m (a + off + 4096 * j) [] with tspec := n }
      else s.packet 0x01 3 m (a + off + 4096 * j) ((bs.drop (4096 * j)).take n)
    s.request k (.hostCopy w q.serial i (off + 4096 * j) n) ins s.gtag 14336 1

/-- Packets of a copy that are unanswered. -/
def State.copyPending (s : State) (w : Fin 256) (serial i : Nat) : Bool :=
  s.fab.reqs.any fun r => match r.kind with
    | .hostCopy w' n k _ _ => w' == w && n == serial && k == i
    | _ => false

/-- Whether there are tags for one more batch. -/
def State.batchFree (s : State) : Bool := decide (1024 ≤ s.freeTags)

/-- A copy entry starts: its checks, then the request to the host or the read of its device range. -/
def State.copyStart (s : State) (w : Fin 256) (q : Round) (i : Nat) (e : IEntry) (out : Bool) : State × Option Nat :=
  let n := getBits e.w3 (0, 32)
  if n = 0 ∨ getBits e.w3 (32, 32) ≠ 0 then (s, some 1)
  else if q.priv = .job ∧ (e.w2.toNat / 2 ^ 48 ≠ 0 ∨ s.inRing e.w2.toNat n = false) then (s, some 2)
  else match s.copyTarget e.w2 n with
    | none => (s, some 3)
    | some (m, a) =>
      if s.canMaster = false then (s, some 8)
      else match m, out with
        | some k, true => (if s.batchFree then s.copySend w q i k a 0 true (min n copyBatch) [] else s, none)
        | none, true => (s, none)
        | _, false => (s.answer (.hostRead w.val i e.w1.toNat n), none)

/-- COPYIN (R396). -/
def execCopyin (w : Fin 256) (s : State) : Host.Outcome State Fault Refusal :=
  runs s fun s => s.runEntry w 0x02 true fun q i e s => s.copyStart w q i e false

/-- COPYOUT (R396). -/
def execCopyout (w : Fin 256) (s : State) : Host.Outcome State Fault Refusal :=
  runs s fun s => s.runEntry w 0x03 true fun q i e s => s.copyStart w q i e true

/-- A copy ends: its bytes are counted. -/
def State.copyEnd (s : State) (w : Fin 256) (q : Round) (i status : Nat) : State :=
  match ((s.roundOf w q.serial).getD q).entries[i]? with
  | none => s
  | some e =>
    let s := if e.opc = 0x02 then s.count .pciCpyin F.pciCpyin_BYTES e.moved else s.count .pciCpyout F.pciCpyout_BYTES e.moved
    (s.endEntry w q i status).weed w

/-- A running copy goes on: `host` is the host's completion status, 0 for success, and `data` the host's bytes of a COPYIN: all of them, or
those of the next batch where the device range lies at another module. -/
def State.copyStep (s : State) (w : Fin 256) (q : Round) (i : Nat) (e : IEntry) (host : Nat) (data : List Byte) : State :=
  let n := getBits e.w3 (0, 32)
  let left := min copyBatch (n - e.moved)
  if s.copyPending w q.serial i then s
  else if host ≠ 0 then
    ((s.count .pciErr F.pciErr_HOSTERR 1).raiseEv 0 7 0x10 [(1, w.val), (1, i), (8, e.w1.toNat), (1, host)]).copyEnd w q i 4
  else if e.status ≠ 0 then s.copyEnd w q i e.status
  else match s.copyTarget e.w2 n with
    | none => s.copyEnd w q i 3
    | some (none, a) => if s.hostCut a then s else
      let s := s.p3Touch a
      let s' := s.modEntry w q.serial i fun (e : IEntry) => { e with moved := n }
      if e.opc = 0x02 then
        if data.length ≠ n then s else (s'.writeMem .host a data).1.copyEnd w q i 0
      else match s.readRange .host a n with
        | (s, some _) => s.copyEnd w q i 5
        | (s, none) => ((s.modEntry w q.serial i fun (e : IEntry) => { e with moved := n }).toHost e.w1.toNat (s.bytes a n)).copyEnd w q i 0
    | some (some m, a) =>
      if n ≤ e.moved then s.copyEnd w q i 0
      else if s.batchFree = false then s
      else if e.opc = 0x03 then s.copySend w q i m a e.moved true left []
      else if data.length ≠ left then s
      else s.copySend w q i m a e.moved false left data

/-- COPY_COMPLETE (R397): of running entry `nth` of a window's round. -/
def execCopyComplete (w : Fin 256) (nth : Nat) (host : BitVec 8) (data : List Byte) (s : State) : Host.Outcome State Fault Refusal :=
  runs s fun s => match (s.window w).rounds with
    | [] => s
    | q :: _ => match q.entries[nth]? with
      | some e => if e.phase = 1 then s.copyStep w q nth e host.toNat data else s
      | none => s

/-! ## The other entries -/

/-- ENTRY_NOP (R396). -/
def execEntryNop (w : Fin 256) (s : State) : Host.Outcome State Fault Refusal :=
  runs s fun s => s.runEntry w 0x01 true fun _ _ _ s => (s, some 0)

/-- REGW (R396): a write of 8 bytes at privilege 1. -/
def execRegw (w : Fin 256) (s : State) : Host.Outcome State Fault Refusal :=
  runs s fun s => s.runEntry w 0x04 false fun _ _ e s =>
    let o := e.w1.toNat
    if o % 8 ≠ 0 then (s, some 1) else if 2 ^ 30 ≤ o then (s, some 3) else (s.ctlWrite .driver o .w8 e.w2, some 0)

/-- CLADD (R397): adds to a cleat here, at another module or at every member of a peloton. -/
def execCladd (w : Fin 256) (s : State) : Host.Outcome State Fault Refusal :=
  runs s fun s => s.runEntry w 0x05 true fun q _ e s =>
    match s.target e.w1 with
    | none => (s, some 3)
    | some t =>
      if (cleatAt (lowAddr e.w1)).isNone then (s, some 3)
      else match s.homeTarget t with
        | .here _ => (s.deliver s.gtag e.w1 e.w2, some 0)
        | _ => if q.priv = .job then (s, some 2) else (s.deliver s.gtag e.w1 e.w2, some 0)

/-- CTXCMD (R396): a context command (R159). -/
def execCtxcmd (w : Fin 256) (s : State) : Host.Outcome State Fault Refusal :=
  runs s fun s => s.runEntry w 0x06 false fun _ _ e s =>
    if getBits e.w1 (13, 51) ≠ 0 then (s, some 1)
    else (s.command ⟨Fin.ofNat _ (getBits e.w1 (0, 8)), Fin.ofNat _ (getBits e.w1 (8, 2))⟩ (getBits e.w1 (10, 3)), some 0)

/-- ROUND_COMPLETE (R398): SEQ goes to the completion page after every record, DONESEQ is set, and IRQ raises source 195. -/
def execRoundComplete (w : Fin 256) (s : State) : Host.Outcome State Fault Refusal :=
  runs s fun s => match (s.window w).rounds with
    | [] => s
    | q :: rest =>
      if (q.entries.all fun e => e.phase == 2) = false then s
      else
        let s := s.setWindow w { s.window w with rounds := rest }
        let s := if q.page = 0 then s else s.toHost (q.page + 0xFF8) (toBytes 8 q.seq)
        let s := (s.setFld (.pciIwstat w) F.pciIwstat_DONESEQ q.seq).setFld (.pciIwstat w) F.pciIwstat_BUSY 0
        let s := if q.entries.any fun e => getBits e.w0 (10, 1) == 1 then s.edge 0 195 else s
        s.weed w

/-! ## Hot reset and D3hot (R382, R390, R407, R410) -/

/-- The copies in flight. -/
def State.copiesInFlight (s : State) : List (Fin 256 × Round × Nat) :=
  s.host.wins.flatMap fun v => v.2.rounds.flatMap fun q =>
    ((List.range q.entries.length).zip q.entries).filterMap fun e => if e.2.phase = 1 then some (v.1, q, e.1) else none

/-- Forget the requests of copies. -/
def State.dropCopies (s : State) : State :=
  { s with fab := { s.fab with reqs := s.fab.reqs.filter fun (r : Req) => match r.kind with
    | .hostCopy _ _ _ _ _ => false
    | _ => true } }

/-- A hot reset (R382): the endpoint and the host-interface state return to what they are after power-up, and EN of every route to MSI-X
is cleared. Kinds: 0 link down, 1 hot reset, 2 function level reset. -/
def State.hotReset (s : State) (kind : Nat) : State :=
  let rounds := s.host.wins.foldl (fun n v => n + v.2.rounds.length) 0
  let s := { s.dropCopies with host := HostState.reset, regs := s.regs.filter fun (q : Reg × Word) => q.1.block != Block.pci }
  let s := forAll (List.finRange 2) s fun s d => forAll (List.finRange 256) s fun s n =>
    if s.flag (.icuRoute d n) F.icuRoute_KIND then s.setFld (.icuRoute d n) F.icuRoute_EN 0 else s
  let s := (s.count .pciLstat F.pciLstat_DOWNS 1).count .clkRststat F.clkRststat_HOTRST 1
  (s.raiseEv 0 7 0x41 [(1, kind), (4, rounds)]).raiseEv 0 1 0x50 [(1, 3), (1, s.fld .clkRststat F.clkRststat_CAUSE)]

/-- HOT_RESET. -/
def execHotReset (down : Bool) (s : State) : Host.Outcome State Fault Refusal :=
  runs s fun s => if s.pow.off = true ∨ s.host.up = false then s else s.hotReset (if down then 0 else 1)

/-- FUNCTION_LEVEL_RESET (R390). -/
def execFunctionLevelReset (s : State) : Host.Outcome State Fault Refusal :=
  runs s fun s => if s.pow.off = true ∨ s.host.up = false then s else s.hotReset 2

/-- D3HOT_ENTER (R390): copies in flight fail with status 8. -/
def execD3hotEnter (s : State) : Host.Outcome State Fault Refusal :=
  runs s fun s =>
    if s.hostServes = false then s
    else
      let l := s.copiesInFlight
      let s := { s.dropCopies with host := { s.host with d3hot := true } }
      forAll l s fun s q => s.copyEnd q.1 q.2.1 q.2.2 8

/-- D3HOT_LEAVE: the endpoint serves again, and held messages of vectors that nothing masks are sent. -/
def execD3hotLeave (s : State) : Host.Outcome State Fault Refusal :=
  runs s fun s =>
    if s.host.d3hot = false then s
    else
      let s := { s with host := { s.host with d3hot := false } }
      forAll (List.range 2048) s fun s n => s.msixRelease n

end Sys2Proof.Machine
end

