-- ==== Sys2Proof/Machine/Scalar.lean ====
section
/-!
DEFINITION. The scalar instructions that touch registers and predicates alone (R127, R128, R137).
-/

namespace Sys2Proof.Machine

/-- An immediate taken for arithmetic and comparisons (R137). -/
def immS (imm : Imm) : Word := imm.signExtend 64

/-- An immediate taken for andi, ori and xori (R137). -/
def immZ (imm : Imm) : Word := imm.zeroExtend 64

/-- add and sub, modulo 2^64. -/
def addSubVal : AddSub → Word → Word → Word
  | .add, a, b => a + b
  | .sub, a, b => a - b

/-- and, or, xor. -/
def logicVal : Logic → Word → Word → Word
  | .and, a, b => a &&& b
  | .or, a, b => a ||| b
  | .xor, a, b => a ^^^ b

/-- and, or, xor of predicates. -/
def logicBool : Logic → Bool → Bool → Bool
  | .and, a, b => a && b
  | .or, a, b => a || b
  | .xor, a, b => a ^^ b

/-- shl, shr, sar: the amount is the low 6 bits of its source. -/
def shiftVal : Shift → Word → Word → Word
  | .shl, a, b => a <<< (b.toNat % 64)
  | .shr, a, b => a >>> (b.toNat % 64)
  | .sar, a, b => a.sshiftRight (b.toNat % 64)

/-- The relations of cmp. -/
def cmpHolds : Cmp → Word → Word → Bool
  | .eq, a, b => a == b
  | .ne, a, b => a != b
  | .lt, a, b => a.slt b
  | .ltu, a, b => a.ult b
  | .ge, a, b => b.sle a
  | .geu, a, b => b.ule a

/-- The relations of cmpi. -/
def cmpiHolds : CmpI → Word → Word → Bool
  | .eq, a, b => a == b
  | .lt, a, b => a.slt b
  | .ltu, a, b => a.ult b
  | .ge, a, b => b.sle a

/-- Bits [127:64] of the 128-bit product, unsigned or signed. -/
def mulHigh (sgn : Bool) (a b : Word) : Word :=
  if sgn then BitVec.ofInt 64 (a.toInt * b.toInt / 2 ^ 64) else BitVec.ofNat 64 (a.toNat * b.toNat / 2 ^ 64)

/-- Signed minimum or maximum. -/
def minMaxS (mx : Bool) (a b : Word) : Word := if a.slt b ^^ mx then a else b

/-- Unsigned minimum or maximum. -/
def minMaxU (mx : Bool) (a b : Word) : Word := if a.ult b ^^ mx then a else b

/-- A predicate field names a predicate in bits [2:0]; bits [4:3] must be 0 (R137). -/
def predBad (p : R5) : Bool := decide (8 ≤ p.val)

/-- The predicate a field names. -/
def predOf (p : R5) : Fin 8 := Fin.ofNat _ p.val

/-- A scalar instruction that writes one register. -/
def execToReg (a : At) (op : Nat) (bad : Bool) (rd : R5) (v : Ins → State → Word) (s : State) :
    Host.Outcome State Fault Refusal :=
  execIns a op 1 0 bad (fun i s => (s.setSreg i.x rd (v i s)).advance i) s

/-- A scalar instruction that writes one predicate. -/
def execToPred (a : At) (op : Nat) (bad : Bool) (pd : R5) (v : Ins → State → Bool) (s : State) :
    Host.Outcome State Fault Refusal :=
  execIns a op 1 0 (bad || predBad pd) (fun i s => (s.setPred i.x (predOf pd) (v i s)).advance i) s

/-- nop (R137). -/
def execNop (a : At) (s : State) : Host.Outcome State Fault Refusal := execIns a 0x01 1 0 false (fun i s => s.advance i) s

/-- add, sub (R137). -/
def execAddSub (a : At) (op : AddSub) (rd ra rb : R5) (s : State) : Host.Outcome State Fault Refusal :=
  let code := match op with
    | .add => 0x02
    | .sub => 0x03
  execToReg a code false rd (fun i s => addSubVal op (s.sreg i.x ra) (s.sreg i.x rb)) s

/-- and, or, xor (R137). -/
def execAndOrXor (a : At) (op : Logic) (rd ra rb : R5) (s : State) : Host.Outcome State Fault Refusal :=
  let code := match op with
    | .and => 0x04
    | .or => 0x05
    | .xor => 0x06
  execToReg a code false rd (fun i s => logicVal op (s.sreg i.x ra) (s.sreg i.x rb)) s

/-- shl, shr, sar (R137). -/
def execShlShrSar (a : At) (op : Shift) (rd ra rb : R5) (s : State) : Host.Outcome State Fault Refusal :=
  let code := match op with
    | .shl => 0x07
    | .shr => 0x08
    | .sar => 0x09
  execToReg a code false rd (fun i s => shiftVal op (s.sreg i.x ra) (s.sreg i.x rb)) s

/-- mul (R137). -/
def execMul (a : At) (rd ra rb : R5) (s : State) : Host.Outcome State Fault Refusal :=
  execToReg a 0x0A false rd (fun i s => s.sreg i.x ra * s.sreg i.x rb) s

/-- mulhu, mulhs (R137). -/
def execMulhuMulhs (a : At) (sgn : Bool) (rd ra rb : R5) (s : State) : Host.Outcome State Fault Refusal :=
  execToReg a (if sgn then 0x0C else 0x0B) false rd (fun i s => mulHigh sgn (s.sreg i.x ra) (s.sreg i.x rb)) s

/-- min, max (R137). -/
def execMinMax (a : At) (mx : Bool) (rd ra rb : R5) (s : State) : Host.Outcome State Fault Refusal :=
  execToReg a (if mx then 0x0E else 0x0D) false rd (fun i s => minMaxS mx (s.sreg i.x ra) (s.sreg i.x rb)) s

/-- minu, maxu (R137). -/
def execMinuMaxu (a : At) (mx : Bool) (rd ra rb : R5) (s : State) : Host.Outcome State Fault Refusal :=
  execToReg a (if mx then 0x10 else 0x0F) false rd (fun i s => minMaxU mx (s.sreg i.x ra) (s.sreg i.x rb)) s

/-- cmp (R137). -/
def execCmp (a : At) (op : Cmp) (pd ra rb : R5) (s : State) : Host.Outcome State Fault Refusal :=
  let code := match op with
    | .eq => 0x11
    | .ne => 0x12
    | .lt => 0x13
    | .ltu => 0x14
    | .ge => 0x15
    | .geu => 0x16
  execToPred a code false pd (fun i s => cmpHolds op (s.sreg i.x ra) (s.sreg i.x rb)) s

/-- pand, por, pxor (R137). -/
def execPandPorPxor (a : At) (op : Logic) (pd pa pb : R5) (s : State) : Host.Outcome State Fault Refusal :=
  let code := match op with
    | .and => 0x17
    | .or => 0x18
    | .xor => 0x19
  execToPred a code (predBad pa || predBad pb) pd
    (fun i s => logicBool op (s.pred i.x (predOf pa)) (s.pred i.x (predOf pb))) s

/-- pandn (R137). -/
def execPandn (a : At) (pd pa pb : R5) (s : State) : Host.Outcome State Fault Refusal :=
  execToPred a 0x1A (predBad pa || predBad pb) pd (fun i s => s.pred i.x (predOf pa) && !s.pred i.x (predOf pb)) s

/-- addi, muli (R137). -/
def execAddiMuli (a : At) (mul : Bool) (rd ra : R5) (imm : Imm) (s : State) : Host.Outcome State Fault Refusal :=
  execToReg a (if mul then 0x27 else 0x20) false rd
    (fun i s => if mul then s.sreg i.x ra * immS imm else s.sreg i.x ra + immS imm) s

/-- andi, ori, xori (R137). -/
def execAndiOriXori (a : At) (op : Logic) (rd ra : R5) (imm : Imm) (s : State) : Host.Outcome State Fault Refusal :=
  let code := match op with
    | .and => 0x21
    | .or => 0x22
    | .xor => 0x23
  execToReg a code false rd (fun i s => logicVal op (s.sreg i.x ra) (immZ imm)) s

/-- shli, shri, sari (R137): IMM[31:6] nonzero is illegal. -/
def execShliShriSari (a : At) (op : Shift) (rd ra : R5) (imm : Imm) (s : State) : Host.Outcome State Fault Refusal :=
  let code := match op with
    | .shl => 0x24
    | .shr => 0x25
    | .sar => 0x26
  execToReg a code (decide (64 ≤ imm.toNat)) rd (fun i s => shiftVal op (s.sreg i.x ra) (immZ imm)) s

/-- li (R137). -/
def execLi (a : At) (rd : R5) (imm : Imm) (s : State) : Host.Outcome State Fault Refusal :=
  execToReg a 0x28 false rd (fun _ _ => immS imm) s

/-- lui (R137): bits [31:0] stay. -/
def execLui (a : At) (rd : R5) (imm : Imm) (s : State) : Host.Outcome State Fault Refusal :=
  execToReg a 0x29 false rd (fun i s => (immZ imm <<< 32) ||| (s.sreg i.x rd &&& 0xFFFFFFFF)) s

/-- cmpi (R137). -/
def execCmpi (a : At) (op : CmpI) (pd ra : R5) (imm : Imm) (s : State) : Host.Outcome State Fault Refusal :=
  let code := match op with
    | .eq => 0x2A
    | .lt => 0x2B
    | .ltu => 0x2C
    | .ge => 0x2D
  execToPred a code false pd (fun i s => cmpiHolds op (s.sreg i.x ra) (immS imm)) s

/-- Fast-clock cycles of a cluster (R128). -/
def State.clock (s : State) (k : Fin 16) : Nat := s.core.clock.get k 0

/-- A special register's value (R128). -/
def State.special (s : State) (x : CtxId) (n : Nat) : Word :=
  match n with
  | 0 => BitVec.ofNat 64 (4 * x.core.val + x.n.val)
  | 1 => BitVec.ofNat 64 (s.clock (clusterOf x.core))
  | 2 => BitVec.ofNat 64 s.time
  | 3 => s.stepOf x
  | 4 => (s.ctx x).mbatch.zeroExtend 64
  | 5 => (s.ctx x).layer.zeroExtend 64
  | 6 => BitVec.ofNat 64 (s.ctx x).latch.gen
  | 7 => BitVec.ofNat 64 s.lmn
  | 8 => BitVec.ofNat 64 (s.fld .spkmCoord F.spkmCoord_X + 4 * s.fld .spkmCoord F.spkmCoord_Y +
           16 * s.fld .spkmCoord F.spkmCoord_Z + 256 * s.fld .spkmCoord F.spkmCoord_W)
  | _ => BitVec.ofNat 64 (if s.privOf x = .driver then 1 else 2)

/-- Write special register 4 or 5 (R128). -/
def State.setSpecial (s : State) (x : CtxId) (n : Nat) (v : Word) : State :=
  if n = 4 then s.setCtx x { s.ctx x with mbatch := v.truncate 8 } else s.setCtx x { s.ctx x with layer := v.truncate 16 }

/-- srd (R128): another number than 0-9 is illegal. -/
def execSrd (a : At) (rd : R5) (imm : Imm) (s : State) : Host.Outcome State Fault Refusal :=
  execToReg a 0x2E (decide (10 ≤ imm.toNat)) rd (fun i s => s.special i.x imm.toNat) s

/-- swr (R128): another number than 4 and 5 is illegal. -/
def execSwr (a : At) (imm : Imm) (ra : R5) (s : State) : Host.Outcome State Fault Refusal :=
  execIns a 0x2F 1 0 (decide (imm.toNat ≠ 4 ∧ imm.toNat ≠ 5))
    (fun i s => (s.setSpecial i.x imm.toNat (s.sreg i.x ra)).advance i) s

end Sys2Proof.Machine
end

