-- ==== Sys2Proof/Machine/Selftest.lean ====
section
/-!
DEFINITION. Spot checks (R338, R339), detected errors (R343), targeted self-tests (R344, R345), votes and learned vectors (R346,
R347) and in-field tests (R348).
-/

namespace Sys2Proof.Machine

/-! ## Captures -/

/-- Whether a capture in flight still serves a spot check or a test. -/
def State.capWanted (s : State) (n : Nat) : Bool := (s.int.spots.any fun q => q.cap == n) || s.int.tests.any fun t => t.cap == some n

/-- A capture in flight is given up where nothing needs it. -/
def State.dropCap (s : State) (cap : Option Nat) : State :=
  match cap with
  | some n => if s.capWanted n then s else { s with int := { s.int with caps := s.int.caps.filter fun m => m != n } }
  | none => s

/-! ## Spot checks (R339) -/

/-- The spot core has compared a selected tile: `differs` says that k or a state differs. -/
def State.spotDone (s : State) (q : Spot) (differs : Bool) : State :=
  let s := { s with int := { s.int with spots := s.int.spots.filter fun r => r != q } }
  let s := (s.count .intSpotcnt F.intSpotcnt_CHECKED 1).background 3 0 0 (coreNs q.tile.clocks)
  let s := s.noteTile q.x fun b => if b.serial = q.serial ∧ b.raise = q.raise then
    { b with spots := b.spots - 1, failed := b.failed || differs } else b
  if differs = false then s.dropCap (some q.cap)
  else
    let s := s.count .intSpotcnt F.intSpotcnt_MIS 1
    let s := s.wrap (.cluUerr (clusterOf q.x.core)) F.cluUerr_DETECT 1
    let s := if clusterOf q.core = clusterOf q.x.core then s else s.wrap (.cluUerr (clusterOf q.core)) F.cluUerr_DETECT 1
    s.raiseEv (dieOf q.x.core) 4 0x8011 [(2, q.x.core.val), (2, q.core.val), (2, q.tile.ins.tag.toNat), (4, q.tile.ins.step.toNat), (2, q.cap)]

/-- SPOT_CHECK_RUN (R339). -/
def execSpotCheckRun (nth : Nat) (differs : Bool) (s : State) : Host.Outcome State Fault Refusal :=
  runs s fun s => match s.int.spots[nth]? with
    | some q => s.spotDone q differs
    | none => s

/-! ## Tests in progress -/

/-- The test of a unit. -/
def State.testOf (s : State) (u : Word) : Option SelfTest := s.int.tests.find? fun t => t.unit == u.toNat

/-- Show the state of a core's test in ISTAT (6 for an in-field test). -/
def State.showTest (s : State) (u : Word) : State :=
  match unitCore u with
  | none => s
  | some c =>
    let l := s.int.tests.filter fun t => unitCore (BitVec.ofNat 64 t.unit) == some c
    s.setFld (.coreIstat c) F.coreIstat_STATE ((l.map fun t => min t.state 6).foldl max 0)

/-- Set a test. -/
def State.setTest (s : State) (t : SelfTest) : State :=
  let l := s.int.tests
  let l := if l.any fun q => q.unit == t.unit then l.map fun (q : SelfTest) => if q.unit = t.unit then t else q else l ++ [t]
  ({ s with int := { s.int with tests := l } }).showTest (BitVec.ofNat 64 t.unit)

/-- A test is over: its unit's tiles return where the core is usable. -/
def State.endTest (s : State) (t : SelfTest) : State :=
  let u : Word := BitVec.ofNat 64 t.unit
  let s := ({ s with int := { s.int with tests := s.int.tests.filter fun q => q.unit != t.unit } }).showTest u
  let s := (s.dropCap t.cap).background 2 0 0 (10 * (s.time - t.since))
  match unitCore u with
  | none => s
  | some c =>
    if s.flag (.coreCstat c) F.coreCstat_USABLE = true ∧ (s.int.tests.any fun q => unitCore (BitVec.ofNat 64 q.unit) == some c) = false
    then s.handBack c else s

/-- Note a verdict in INT_STSTAT: 1 transient, 2 fenced by vote, 3 fenced by a pass, 4 fenced by TRLIM. -/
def State.verdict (s : State) (t : SelfTest) (v : Nat) : State :=
  s.setReg .intStstat (BitVec.ofNat 64 (t.unit % 2 ^ 43 + v * 2 ^ 43 + 2 ^ 47 + min ((s.time - t.since) / 100000) 65535 * 2 ^ 48))

/-- FENCE of the self-test states: the unit named is fenced. -/
def State.testFence (s : State) (t : SelfTest) (u : Word) (v : Nat) : State :=
  ((s.verdict { t with unit := u.toNat } v).fence u v t.cause).endTest t

/-- TRANSIENT of the self-test states. -/
def State.testTransient (s : State) (t : SelfTest) : State :=
  let day := 24 * 3600 * 100000000
  let l := (t.unit, s.time) :: s.int.transients.filter fun q => decide (s.time ≤ q.2 + day)
  let n := (l.filter fun q => q.1 == t.unit).length
  let s := ({ s with int := { s.int with transients := l } }).count .intStcnt F.intStcnt_TRANS 1
  let u : Word := BitVec.ofNat 64 t.unit
  let s := (s.verdict t 1).raiseEv (unitDie u) 4 0x8020 [(8, t.unit), (1, t.cause), (1, n)]
  if s.fld .intStctl F.intStctl_TRLIM ≤ n then s.testFence t u 4 else s.endTest t

/-! ## Detected errors and the start of a test (R343, R344) -/

/-- Whether a detected error ends the step at once (R343): the mismatches that are found before anything is sealed or written.
The causes are the rows of the table "Units involved": 2 prediction, 3 pair, 4 spot. -/
def endsStep (cause : Nat) : Bool := cause == 2 || cause == 3 || cause == 4

/-- The cores whose work a test of a unit withdraws. -/
def testCores (u : Word) : List (Fin 256) :=
  match unitCore u with
  | some c => [c]
  | none => if unitKind u = 7 then (List.finRange 16).map fun j => coreOf (Fin.ofNat _ (unitIndex u)) j else []

/-- The Hub withdraws a suspect for a targeted test; an error of a unit under test joins its test. -/
def State.startTest (s : State) (u : Word) (cause : Nat) (cap : Option Nat) : State :=
  let s := if endsStep cause then s.endStep 1 6 else s
  match s.testOf u with
  | some _ => s
  | none =>
    if unitOk u = false ∨ (s.isFenced u = true ∧ unitKind u ≠ 8) then s
    else
      let s := s.count .intStcnt F.intStcnt_TESTS 1
      let s := s.setTest { unit := u.toNat, state := 1, cause := cause, cap := cap, since := s.time, late := false }
      forAll (testCores u) s fun s c => s.handOver c 1

/-- SELF_TEST_START (R344): `cause` is the row of the table "Units involved". -/
def execSelfTestStart (unit : Word) (cause : Fin 8) (cap : Option (BitVec 16)) (s : State) : Host.Outcome State Fault Refusal :=
  runs s fun s => s.startTest unit cause.val (cap.map BitVec.toNat)

/-! ## The self-test states (R345) -/

/-- Whether no tile runs on a core and none of its contexts has work on it: what has moved runs on siblings. -/
def State.coreIdle (s : State) (c : Fin 256) : Bool :=
  (ctxsOf c).all fun x => s.isMoved x || ((s.ctx x).run.isNone && (s.ctxState x == 0 || s.ctxState x == 4))

/-- Whether a suspect is idle. -/
def State.suspectIdle (s : State) (u : Word) : Bool :=
  if unitKind u = 8 then s.fld .spkmSlotstat F.spkmSlotstat_INUSE == 0 else (testCores u).all s.coreIdle

/-- SELF_TEST_WITHDRAWN (R345): an idle suspect goes on to PASS1. -/
def execSelfTestWithdrawn (unit : Word) (s : State) : Host.Outcome State Fault Refusal :=
  runs s fun s => match s.testOf unit with
    | some t => if t.state = 1 ∧ s.suspectIdle unit = true then s.setTest { t with state := 2 }
      else forAll (testCores unit) s fun s c => s.handOver c 1
    | none => s

/-- The test that a unit's result belongs to: its own, or the in-field test of the core or cluster that holds it. -/
def State.testFor (s : State) (u : Word) : Option SelfTest :=
  (s.testOf u).or (s.int.tests.find? fun t => decide (6 ≤ t.state) &&
    (match unitCore (BitVec.ofNat 64 t.unit) with
     | some c => unitCore u == some c || (unitKind u == 6 && unitIndex u == (clusterOf c).val)
     | none => false))

/-- SELF_TEST_PASS_COMPLETE (R345, R348): state 6 is the pass of an in-field test, which goes on to its learned vectors. -/
def execSelfTestPassComplete (unit : Word) (clean : Bool) (s : State) : Host.Outcome State Fault Refusal :=
  runs s fun s => match s.testFor unit with
    | none => s
    | some t =>
      if t.state = 2 ∨ t.state = 3 ∨ t.state = 6 then
        (if clean then s.setTest { t with state := t.state + 1 } else s.testFence t unit 3)
      else s

/-- The time of a core's in-field test is noted, and the test is over (R348, R455). -/
def State.endInField (s : State) (t : SelfTest) : State :=
  match unitCore (BitVec.ofNat 64 t.unit) with
  | none => s
  | some c =>
    let s := { s with int := { s.int with lastTest := s.int.lastTest.set c s.time, inField := s.int.inField.filter fun d => d != c } }
    s.endTest t

/-- LEARNED_REPLAY_COMPLETE (R345). -/
def execLearnedReplayComplete (unit : Word) (clean : Bool) (s : State) : Host.Outcome State Fault Refusal :=
  runs s fun s => match s.testFor unit with
    | none => s
    | some t =>
      if t.state = 4 then
        (if clean = false then s.testFence t unit 3
         else if t.cap.isSome then s.setTest { t with state := 5 } else s.testTransient t)
      else if t.state = 7 then (if clean then s.endInField t else s.testFence t unit 3)
      else s

/-! ## Votes (R346) and learned vectors (R347) -/

/-- The unit of the same kind on another core. -/
def unitOn (u : Word) (c : Fin 256) : Word := unitId (unitKind u) c.val (unitSub u)

/-- The second voter's core (R346). -/
def voterB (c : Fin 256) : Fin 256 :=
  let k := (clusterOf c).val
  coreOf (Fin.ofNat _ (k / 8 * 8 + (k % 8 + 2) % 8)) (Fin.ofNat _ (c.val % 16 + 8))

/-- The check value of an agreed result in full A128 form (R329, R331): its CRC, and the image sum of its `n` elements. -/
def resultCheck (result : List Byte) (n : Nat) : Nat :=
  let sum := (List.range n).foldl (fun t i => t + elemImage 8 (ofBytes ((result.drop (16 * i)).take 16))) 0 % imageMod
  crc32c result + sum * 2 ^ 32

/-- Where a captured tile's agreed result lies in its slot: behind its operand planes. -/
def State.captureEnd (s : State) (a : Nat) : Nat :=
  let ops := (List.range 2).map fun i => Desc.ofBytes (s.bytes (a + 64 + 64 * i) 64)
  ops.foldl (fun n d => max n (lowAddr d.d0 + capBytes d)) 0 |> fun n => (n + 63) / 64 * 64

/-- Drop a unit's oldest learned vector (R347). -/
def State.forget (s : State) (v : Learned) : State :=
  ({ s with int := { s.int with learned := s.int.learned.filter fun q => q != v } }).raiseEv (unitDie (BitVec.ofNat 64 v.unit)) 4 0x8023
    [(8, v.unit), (2, v.cap)]

/-- A capture becomes a learned vector of a unit, with the agreed result (R347). A region without a free slot keeps no more. -/
def State.learn (s : State) (u : Word) (cap : Nat) (result : List Byte) : State :=
  let mine := s.int.learned.filter fun v => v.unit == u.toNat
  let s := if 64 ≤ mine.length then (match mine.head? with
    | some v => s.forget v
    | none => s) else s
  let free := (List.range (32 * s.fld .intCap F.intCap_SIZE)).find? fun n => decide (32 ≤ n) && !(s.int.learned.any fun v => v.cap == n)
  match free, s.capSlot cap with
  | some n, some a => match s.capSlot n with
    | none => s
    | some b =>
      let out := Desc.ofBytes (List.replicate 24 0 ++ s.bytes (a + 40) 24 ++ List.replicate 16 0)
      let e := s.captureEnd a
      let s := (s.writeMem .hub b (s.bytes a (4096 + e))).1
      let s := (s.writeMem .hub b (toBytes 8 u.toNat)).1
      let s := (s.writeMem .hub (b + 192) (toBytes 8 (resultCheck result (out.rows * out.cols)))).1
      let s := (s.writeMem .hub (b + 4096 + e) result).1
      let v : Learned := { unit := u.toNat, cap := n }
      let tag := s.int.capTag.get cap 0
      let s := { s with int := { s.int with learned := s.int.learned ++ [v] } }
      let s := s.background 2 (2 * (4096 + e) + 16 + result.length) 0 0
      (s.count .intStcnt F.intStcnt_LEARNED 1).raiseEv (unitDie u) 4 0x8022 [(8, u.toNat), (2, n), (2, tag)]
  | _, _ => s

/-- A voter becomes the suspect of a new test from PASS1, with the same capture (R346). -/
def State.suspect (s : State) (t : SelfTest) (u : Word) : State :=
  if (s.testOf u).isSome ∨ s.isFenced u = true then s
  else
    let s := s.count .intStcnt F.intStcnt_TESTS 1
    let s := s.setTest { t with unit := u.toNat, state := 2, since := s.time, late := false }
    forAll (testCores u) s fun s c => s.handOver c 1

/-- The outcome of a vote (R346): which of the three whole-tile results agree, S with A, S with B and A with B; `orig` says that
the suspect's own result of the mismatch differed from A's; `result` is A's. -/
def State.vote (s : State) (t : SelfTest) (sa sb ab orig : Bool) (result : List Byte) : State :=
  let u : Word := BitVec.ofNat 64 t.unit
  match unitCore u with
  | none => s
  | some c =>
    let a := unitOn u (s.spotCore c)
    let b := unitOn u (voterB c)
    if sa && sb && ab then (if orig then s.testTransient t else s.endTest t)
    else if ab && !sa && !sb then
      let s := match t.cap with
        | some n => s.learn u n result
        | none => s
      s.testFence t u 2
    else if sa && !sb && !ab then (s.suspect t b).endTest t
    else if sb && !sa && !ab then (s.suspect t a).endTest t
    else if !sa && !sb && !ab then ((s.suspect t a).suspect t b).testFence t u 2
    else s

/-- VOTE_COMPLETE (R346). -/
def execVoteComplete (unit : Word) (sa sb ab orig : Bool) (result : List Byte) (s : State) : Host.Outcome State Fault Refusal :=
  runs s fun s => match s.testOf unit with
    | some t => if t.state = 5 then s.vote t sa sb ab orig result else s
    | none => s

/-- SELF_TEST_LATE (R344): a verdict is later than 50 ms. -/
def execSelfTestLate (unit : Word) (s : State) : Host.Outcome State Fault Refusal :=
  runs s fun s => match s.testOf unit with
    | some t =>
      if t.late || decide (6 ≤ t.state) || decide (s.time ≤ t.since + 5000000) then s
      else (s.setTest { t with late := true }).raiseEv (unitDie unit) 4 0x8050 [(8, unit.toNat), (4, (s.time - t.since) / 100)]
    | none => s

/-! ## In-field tests (R348) -/

/-- A core's in-field test is due. -/
def State.ifDue (s : State) (c : Fin 256) (n : Nat) : Bool :=
  s.flag .intIfctl F.intIfctl_EN && decide (s.int.lastTest.get c 0 + n * s.fld .intIfctl F.intIfctl_PERIOD * 100000000 ≤ s.time)

/-- Whether a test runs on a core of a cluster. -/
def State.clusterInTest (s : State) (k : Fin 16) : Bool :=
  s.int.tests.any fun t => match unitCore (BitVec.ofNat 64 t.unit) with
    | some c => clusterOf c == k
    | none => false

/-- A core's in-field test begins: at most one of a cluster's cores at a time, at a tile boundary. In P1 it wakes the cluster. No detected error
causes it: its cause is 8 (log entry 75). -/
def State.inFieldStart (s : State) (c : Fin 256) : State :=
  let k := clusterOf c
  if s.ifDue c 1 = false ∨ s.clusterInTest k = true ∨ s.flag (.coreCstat c) F.coreCstat_USABLE = false then s
  else if s.pstate k = 1 then s.noteWake k false
  else if s.pstate k ≠ 0 ∨ ((ctxsOf c).any fun x => (s.ctx x).run.isSome) = true then s
  else
    let s := s.handOver c 0
    s.setTest { unit := (unitId 5 c.val 0).toNat, state := 6, cause := 8, cap := none, since := s.time, late := false }

/-- IN_FIELD_TEST_DUE (R348). -/
def execInFieldTestDue (c : Fin 256) (s : State) : Host.Outcome State Fault Refusal := runs s fun s => s.inFieldStart c

/-- IN_FIELD_TEST_OVERDUE (R348): once for each overdue test. -/
def execInFieldTestOverdue (c : Fin 256) (s : State) : Host.Outcome State Fault Refusal :=
  runs s fun s =>
    if s.ifDue c 2 = false ∨ s.int.inField.contains c = true then s
    else
      let age := (s.time - s.int.lastTest.get c 0) / 100000000
      ({ s with int := { s.int with inField := c :: s.int.inField } }).raiseEv (dieOf c) 4 0x8031 [(2, c.val), (4, min age (2 ^ 32 - 1))]

end Sys2Proof.Machine
end

