-- ==== Sys2Proof/Machine/Snapshots.lean ====
section
/-!
DEFINITION. Peer snapshots (R324, R325), and the rewind and re-forming of a job (R314, R315).
-/

namespace Sys2Proof.Machine

/-! ## Places -/

/-- Bytes of a snapshot slot. -/
def State.slotBytes (s : State) : Nat := s.fld .hubSnapbase F.hubSnapbase_SLOTSZ * 2 ^ 26

/-- Base of a local slot: A, then B. -/
def State.snapSlot (s : State) (b : Bool) : Nat := s.fld .hubSnapbase F.hubSnapbase_ADDR * 2 ^ 26 + b2n b * s.slotBytes

/-- Base of the slot that holds a partner's copy: behind the two local slots (log entry 49). -/
def State.partnerSlot (s : State) (b : Bool) : Nat := s.snapSlot b + 2 * s.slotBytes

/-- The partner of a module (R324): the next value of XMASK after its own x, cyclically; none where XMASK has one bit. -/
def State.partner (s : State) : Option Nat :=
  let x := s.fld .spkmCoord F.spkmCoord_X
  let mask := s.fld .spkmBlk F.spkmBlk_XMASK
  (((List.range 3).map fun i => (x + i + 1) % 4).find? fun v => mask.testBit v).map fun v => s.lmn - x + v

/-- The snapshot list's regions: local address and bytes (R324). -/
def State.snapRegions (s : State) : List (Nat × Nat) :=
  let a := s.fld .hubSnaplist F.hubSnaplist_ADDR * 64
  (List.range (s.fld .hubSnaplist F.hubSnaplist_COUNT)).map fun i =>
    (ofBytes (s.bytes (a + 16 * i) 6) / 64 * 64, ofBytes (s.bytes (a + 16 * i + 8) 6) / 64 * 64)

/-- Where each region lies in a slot: behind the header, one after another (log entry 49). -/
def regionPlaces (l : List (Nat × Nat)) : List (Nat × Nat × Nat) :=
  (l.foldl (fun (q : Nat × List (Nat × Nat × Nat)) r => (q.1 + r.2, q.2 ++ [(q.1, r.1, r.2)])) (64, [])).2

/-- Bytes of all regions. -/
def regionTotal (l : List (Nat × Nat)) : Nat := l.foldl (fun n r => n + r.2) 0

/-- The header of a slot (R325). -/
def State.snapHeader (s : State) (step total : Nat) (valid : Bool) : List Byte :=
  let a := s.fld .hubSnaplist F.hubSnaplist_ADDR * 64
  let crc := crc64 (s.bytes a (16 * s.fld .hubSnaplist F.hubSnaplist_COUNT))
  List.flatten
    [toBytes 8 0x50534E53, toBytes 8 step, toBytes 4 (s.fld .hubGenlive F.hubGenlive_GEN), toBytes 2 s.lmn, List.replicate 2 0,
     toBytes 8 total, toBytes 8 crc, toBytes 1 (b2n valid), List.replicate 23 0]

/-- Write bytes at the partner with WR packets on VC3 from a Hub fabric context (R324). -/
def State.toPartner (s : State) (m a region : Nat) (bs : List Byte) : State :=
  forAll (List.range ((bs.length + 4095) / 4096)) s fun s i =>
    let part := (bs.drop (4096 * i)).take 4096
    s.hubRequest (s.packet 0x01 3 m (a + 4096 * i) part) (.snapshot region)

/-! ## Taking a snapshot -/

/-- Copy one region: to the local slot and to the partner, or note that it cannot be copied (R325). -/
def State.copyRegion (s : State) (b : Bool) (q : Nat × Nat × Nat × Nat) : State :=
  let i := q.1
  let off := q.2.1
  let a := q.2.2.1
  let n := q.2.2.2
  let fail (s : State) : State := { s with plt := { s.plt with snap := s.plt.snap.map fun (p : Snap) => { p with failed := p.failed.or (some i) } } }
  if s.slotBytes < off + n ∨ (n ≠ 0 ∧ (0x020000000000 ≤ a ∨ (s.place .driver a).isNone = true ∨ (s.place .driver (a + n - 1)).isNone = true)) then fail s
  else match s.readRange .hub a n with
    | (s, some _) => fail s
    | (s, none) =>
      let bs := s.bytes a n
      let s := (s.writeMem .hub (s.snapSlot b + off) bs).1
      match (s.plt.snap.map Snap.partner).join with
      | some m => s.toPartner m (s.partnerSlot b + off) i bs
      | none => s

/-- A snapshot of a step begins (R324): the slot that is not the newest valid one loses its VALID, and its copies start. -/
def State.snapBegin (s : State) (step : Nat) : State :=
  let b := s.flag .hubSnapstat F.hubSnapstat_VALID && !s.flag .hubSnapstat F.hubSnapstat_SLOT
  let l := s.snapRegions
  let p : Snap := { slot := b, step := BitVec.ofNat 64 step, regions := l, failed := none, bytes := regionTotal l, partner := s.partner }
  let s := { s.setFld .hubSnapstat F.hubSnapstat_BUSY 1 with plt := { s.plt with snap := some p } }
  let s := (s.writeMem .hub (s.snapSlot b + 40) [0]).1
  let s := match p.partner with
    | some m => s.toPartner m (s.partnerSlot b + 40) l.length [0]
    | none => s
  forAll ((List.range l.length).zip (regionPlaces l)) s fun s q => s.copyRegion b q

/-- Whether a snapshot of a step is due (R324): a multiple of EVERY, or the first step of a re-formed run. -/
def State.snapDue (s : State) (step : Nat) : Bool :=
  s.flag .hubSnapctl F.hubSnapctl_EN && (step % s.fld .hubSnapctl F.hubSnapctl_EVERY == 0 || s.svc.reformed)

/-- Whether copies of the snapshot are unanswered. -/
def State.snapPending (s : State) : Bool :=
  s.fab.reqs.any fun r => match r.kind with
    | .snapshot _ => true
    | _ => false

/-- The snapshot in progress ends (R325): with its header written last, or as a failed one. -/
def State.snapEnd (s : State) (p : Snap) : State :=
  let s := { s.setFld .hubSnapstat F.hubSnapstat_BUSY 0 with plt := { s.plt with snap := none } }
  let partner := p.partner.getD 0xFFFF
  match p.failed with
  | some i =>
    (s.setFld .hubSnapstat F.hubSnapstat_FAIL 1).raiseEv 0 8 0x51 [(4, p.step.toNat), (1, b2n p.slot), (2, i), (2, partner)]
  | none =>
    let h := s.snapHeader p.step.toNat p.bytes true
    let s := (s.writeMem .hub (s.snapSlot p.slot) h).1
    let s := match p.partner with
      | some m => s.toPartner m (s.partnerSlot p.slot) p.regions.length h
      | none => s
    let v := putBits (putBits (putBits (s.reg .hubSnapstat) F.hubSnapstat_SLOT (b2n p.slot)) F.hubSnapstat_VALID 1) F.hubSnapstat_STEP
      (p.step.toNat % 2 ^ 32)
    let s := (s.setReg .hubSnapstat v).tally fun c => { c with snap := 1 }
    s.raiseEv 0 8 0x50 [(4, p.step.toNat), (1, b2n p.slot), (8, p.bytes), (2, partner)]

/-- SNAPSHOT_COMPLETE (R325). -/
def execSnapshotComplete (s : State) : Host.Outcome State Fault Refusal :=
  runs s fun s => match s.plt.snap with
    | none => s
    | some p => if p.failed.isSome || !s.snapPending then s.snapEnd p else s

/-! ## Rewinding (R314) -/

/-- The contexts of the plan are reset and loaded again (R159, R151). -/
def State.reloadPlan (s : State) : State :=
  forAll s.planCtxs s fun s x =>
    let s := (s.resetHard x).load x
    s.setCtx x { s.ctx x with planned := true }

/-- Whether a local slot holds a whole snapshot of a step (R325). -/
def State.slotHolds (s : State) (b : Bool) (step : Nat) : Bool :=
  let a := s.snapSlot b
  ofBytes (s.bytes a 4) == 0x50534E53 && ofBytes (s.bytes (a + 8) 4) == step % 2 ^ 32 && ofBytes (s.bytes (a + 40) 1) == 1

/-- The local slot that holds a whole snapshot of a step. -/
def State.slotOf (s : State) (step : Nat) : Option Bool := [false, true].find? fun b => s.slotHolds b step

/-- A snapshot being written is given up: its slot stays invalid (R325). -/
def State.snapDrop (s : State) : State :=
  match s.plt.snap with
  | none => s
  | some p =>
    let s := { s.setFld .hubSnapstat F.hubSnapstat_BUSY 0 with plt := { s.plt with snap := none } }
    (s.writeMem .hub (s.snapSlot p.slot + 40) [0]).1

/-- What the step in progress has gathered is forgotten. -/
def State.clearStep (s : State) : State :=
  { s with core := { s.core with prepass := [], once := [], amax := [], raised := [], reached := [], bounds := [], seeded := [] } }

/-- Nothing of the job's collectives stays. -/
def State.clearColls (s : State) : State :=
  { s with plt := { s.plt with attempts := [], colls := [], slots := [], regions := [], cache := [] } }

/-- The regions of a slot return to their addresses. -/
def State.restoreSlot (s : State) (b : Bool) : State :=
  forAll (regionPlaces s.snapRegions) s fun s q => (s.writeMem .hub q.2.1 (s.bytes (s.snapSlot b + q.1) q.2.2)).1

/-- The seeds that the histories hold at the start of a step (R222, R223): those written before it, with the maxima that took their
place in it or later taken back. -/
def seedsAt (step : Nat) (l : List SeedNote) : List SeedNote :=
  (l.filter fun q => q.since.all fun t => decide (t < step)).map fun q => { q with till := q.till.filter fun t => decide (t < step) }

/-- The job runs again from a step: its postings from that step on are forgotten (R400). -/
def State.runAgain (s : State) (step : Nat) : State :=
  let t : SvcState := { s.svc with
    next := step, active := false, abandoned := false, stop := none, late := false, ran := false, passed := false, cnt := StepCnt.zero, startMem := none
    seedsWritten := seedsAt step s.svc.seedsWritten
    posted := s.svc.posted.filter fun q => decide (q.1 < step) }
  ({ s with svc := t }).setFld .hubSvcstat F.hubSvcstat_STATE 2

/-- REWIND to a step (R314): every open attempt is aborted with cause 6, the state is restored from the local snapshot, and the job
runs again from there. -/
def State.rewind (s : State) (step cause : Nat) (b : Bool) : State :=
  let old := s.svcStep
  let s := (s.endStep 2 cause).snapDrop
  let s := (s.clearColls.clearStep.restoreSlot b).reloadPlan
  let s := (s.runAgain step).count .hubSvccnt F.hubSvccnt_REWINDS 1
  s.raiseEv 0 8 0x40 [(4, step), (1, cause), (4, old)]

/-- Whether the step service has a job that runs or holds. -/
def State.jobRuns (s : State) : Bool := s.svc.plan.isSome && (s.fld .hubSvcstat F.hubSvcstat_STATE == 2 || s.fld .hubSvcstat F.hubSvcstat_STATE == 3)

/-- JOB_REWIND (R314): S0 is the newest snapshot step that is valid on every member. -/
def execJobRewind (s0 : BitVec 32) (cause : BitVec 8) (s : State) : Host.Outcome State Fault Refusal :=
  runs s fun s => match s.slotOf s0.toNat with
    | some b => if s.jobRuns then s.rewind s0.toNat cause.toNat b else s
    | none => s

/-! ## Re-forming (R315) -/

/-- A partner loads the removed member's regions from the partner slot it holds (R315 item 5). -/
def State.loadTaken (s : State) (l : List (Nat × Nat × Nat)) : State :=
  forAll l s fun s q => (s.writeMem .hub q.2.1 (s.bytes q.1 q.2.2)).1

/-- Items 5 to 7 of R315, after a hold with cause 5: taken-over regions are loaded, the step is restored and the job runs again. -/
def State.reform (s : State) (step : Nat) (taken : List (Nat × Nat × Nat)) (b : Bool) : State :=
  let s := (s.loadTaken taken).rewind step 5 b
  { s with svc := { s.svc with reformed := true, taken := [] } }

/-- Item 1 of R315: the member aborts and holds until the host orders the rewind. The step that counts as completed is the one
before S0, so that the new generation can name S0 as its first step. -/
def State.reformHold (s : State) (step : Nat) (taken : List (Nat × Nat × Nat)) (lost : Option (Nat × Nat)) : State :=
  let s := s.endStep 1 6
  match lost with
  | some q => (s.raiseEv 0 8 0x42 [(2, q.1), (2, q.2), (4, step)]).svcHold 6
  | none =>
    let s := (s.svcHold 5).setFld .hubSvcstat F.hubSvcstat_CAUSE 5
    let s := { s with svc := { s.svc with taken := taken } }
    s.setFld .hubSvcstat F.hubSvcstat_STEP (step + 2 ^ 32 - 1)

/-- JOB_REFORM (R315): first it holds with cause 5; given again after the host's new generation, it performs items 5 to 7. `lost`
names a member and its partner that have both failed. -/
def execJobReform (s0 : BitVec 32) (taken : List (BitVec 48 × BitVec 48 × BitVec 32)) (lost : Option (BitVec 14 × BitVec 14)) (s : State) :
    Host.Outcome State Fault Refusal :=
  runs s fun s =>
    let l := taken.map fun q => (q.1.toNat, q.2.1.toNat, q.2.2.toNat)
    if s.jobRuns = false then s
    else if s.fld .hubSvcstat F.hubSvcstat_STATE = 3 ∧ s.fld .hubSvcstat F.hubSvcstat_CAUSE = 5 then
      match s.slotOf s0.toNat with
      | some b => s.reform s0.toNat l b
      | none => s
    else s.reformHold s0.toNat l (lost.map fun q => (q.1.toNat, q.2.toNat))

end Sys2Proof.Machine
end

