-- ==== Sys2Proof/Machine/Service.lean ====
section
/-!
DEFINITION. The step service: the plan (R399), inputs (R400), its states and commands (R401), and the work of a step boundary (R402):
histories, raise tables, health and its actions (R43, R82, R207, R222-R230), late cores (R322) and watchpoints (R454).
-/

namespace Sys2Proof.Machine

/-! ## Reading a plan (R399) -/

/-- Whether [a, a + n) is local DRAM that exists. -/
def State.inDram (s : State) (a n : Nat) : Bool :=
  n == 0 || (decide (a + n ≤ 0x020000000000) && (s.place .driver a).isSome && (s.place .driver (a + n - 1)).isSome)

/-- A number in a plan: bytes [o, o + n) of the header. -/
def at_ (bs : List Byte) (o n : Nat) : Nat := ofBytes ((bs.drop o).take n)

/-- Whether a plan header breaks R399: its fields' values, alignments and reserved bytes. -/
def State.badPlan (s : State) (bs : List Byte) : Bool :=
  let f := at_ bs
  let ring := f 184 4 * f 192 8
  f 0 4 != 0x4E414C50 || f 4 2 != 1 || decide (1 < f 6 1) || f 7 1 == 0 || f 32 16 != 0 || f 212 4 != 0 || f 224 32 != 0 ||
  ((List.range 8).any fun i => f (60 + 16 * i) 4 != 0) ||
  f 176 8 % 4096 != 0 || f 184 4 == 0 || decide (65536 < f 184 4) || f 188 4 == 0 || decide (f 184 4 < f 188 4) ||
  f 192 8 % 4096 != 0 || !s.inDram (f 176 8) ring || f 200 8 % 4096 != 0 || decide (f 208 4 < 2) || decide (65536 < f 208 4)

/-- The entries of section `i`, `n` bytes each: none where the section lies outside DRAM. -/
def State.section_ (s : State) (bs : List Byte) (i n : Nat) : State × Option (List Nat) :=
  let a := at_ bs (48 + 16 * i) 8
  let k := at_ bs (56 + 16 * i) 4
  if s.inDram a (n * k) = false then (s, none)
  else match s.readRange .hub a (n * k) with
    | (s, some _) => (s, none)
    | (s, none) => (s, some ((List.range k).map fun j => s.num (a + n * j) n))

/-- Bits [lo, lo + w) of a section entry. -/
def ent (v lo w : Nat) : Nat := v / 2 ^ lo % 2 ^ w

/-- Whether an entry of the contexts section has a value that it cannot take. -/
def badCtxEntry (v : Nat) : Bool := ent v 10 2 == 0 || ent v 10 2 == 3 || ent v 12 52 != 0 || ent v 64 6 != 0 || ent v 112 144 != 0

/-- A context of the contexts section. -/
def planCtx (v : Nat) : PlanCtx := { x := ⟨Fin.ofNat _ (ent v 0 8), Fin.ofNat _ (ent v 8 2)⟩, priv := ent v 10 2, image := ent v 64 48 }

/-- A tensor of the health list. -/
def planHealth (v : Nat) : HealthItem :=
  { tid := ent v 0 24, action := ent v 24 2, ctxmask := ent v 28 4, satlim := ent v 32 16, vanlim := ent v 48 16 }

/-- The plan at an address, or the code of HUB_SVCSTAT.PLANERR: 1 header, 2 a section, 5 the register list. -/
def State.readPlan (s : State) (a : Nat) : State × Except Nat Plan :=
  match s.readRange .hub a 256 with
  | (s, some _) => (s, .error 1)
  | (s, none) =>
    let bs := s.bytes a 256
    let f := at_ bs
    if s.badPlan bs then (s, .error 1)
    else match s.section_ bs 0 32 with
    | (s, none) => (s, .error 2)
    | (s, some cs) => match s.section_ bs 2 8 with
    | (s, none) => (s, .error 2)
    | (s, some ps) => match s.section_ bs 3 4 with
    | (s, none) => (s, .error 2)
    | (s, some rs) => match s.section_ bs 4 8 with
    | (s, none) => (s, .error 2)
    | (s, some hs) => match s.section_ bs 5 8 with
    | (s, none) => (s, .error 2)
    | (s, some ss) => match s.section_ bs 6 4 with
    | (s, none) => (s, .error 2)
    | (s, some zs) => match s.section_ bs 7 8 with
    | (s, none) => (s, .error 2)
    | (s, some ts) => match s.section_ bs 1 16 with
    | (s, none) => (s, .error 5)
    | (s, some gs) =>
      let xs := cs.map planCtx
      let bad := (cs.any badCtxEntry) || decide ((xs.map PlanCtx.x).eraseDups.length ≠ xs.length) ||
        (hs.any fun v => ent v 24 2 == 3 || ent v 26 2 != 0) || (ss.any fun v => ent v 24 8 != 0) || (zs.any fun v => ent v 24 8 != 0) ||
        (ts.any fun v => ent v 24 8 != 0)
      if bad then (s, .error 2)
      else match if 65536 < gs.length then none else s.stageList (f 64 8) gs.length with
      | none => (s, .error 5)
      | some l => (s, .ok
          { addr := a, nanpol := f 6 1, mbatch := f 7 1, job := BitVec.ofNat 64 (f 8 8), first := f 16 4, nsteps := f 20 4,
            baseseed := f 24 4, inwait := f 28 4, inbase := f 176 8, inslots := f 184 4, inper := f 188 4, inslotsz := f 192 8,
            rptbase := f 200 8, rptcount := f 208 4, hbase := f 216 8, ctxs := xs, regs := l, plts := ps,
            recompute := rs.map fun (v : Nat) => (ent v 0 16, ent v 16 16), health := hs.map planHealth,
            seeds := ss.map fun (v : Nat) => (ent v 0 24, ent v 32 32), frozen := zs, clips := ts.map fun (v : Nat) => (ent v 0 24, ent v 32 32) })

/-! ## Applying a plan (R401) -/

/-- The register section as one generation (R165): none where one is pending or draining (R163). -/
def State.planRegs (s : State) (l : List (Nat × Word)) (step : Nat) : Option State :=
  if l = [] then some s
  else if s.flag .hubGenstat F.hubGenstat_PEND || s.draining then none
  else
    let g : Staged := { gen := (s.live + 1) % 2 ^ 32, step := step, addr := 0, count := l.length, list := l }
    let blk := l.foldl (fun b q => if Reg.ofOffset q.1 = some .spkmBlk then s.stagedValue .spkmBlk b q.2 else b) (s.reg .spkmBlk)
    let s := { s with gen := { s.gen with staged := some g, next := [], opening := [], closing := [] } }
    some ((forAll l s fun s q => s.installBeside blk q).genEffect g step)

/-- LOAD one context of the plan (R151); whether it is loaded with the plan's job. -/
def State.planLoad (s : State) (job : Word) (c : PlanCtx) : State × Bool :=
  let r : Reg := .ctxCfg c.x.core c.x.n
  if s.ctxState c.x ≠ 0 then (s, false)
  else
    let s := ((s.setFld r F.ctxCfg_LOADED 0).setFld r F.ctxCfg_IMAGE (c.image / 64)).setFld r F.ctxCfg_PRIV c.priv
    let s := s.command c.x 1
    let ok := s.flag r F.ctxCfg_LOADED && (s.ctx c.x).job == job
    (if ok then s.setCtx c.x { s.ctx c.x with planned := true } else s.setFld r F.ctxCfg_LOADED 0, ok)

/-- OPEN the peloton of a descriptor (R297), whose handle the descriptor names; whether it opened. -/
def State.planOpen (s : State) (a : Nat) : State × Bool :=
  if s.inDram a 2 = false then (s, false)
  else
    let h := s.num a 2 % 2 ^ 14
    let n := s.plt.pelotons.length
    let s := s.pltOpen (s.reg .spkmBlk) h a
    (s, decide (s.plt.pelotons.length ≠ n))

/-- Run a step over a list up to its first failure: the items done, and whether all were. -/
def tryAll {α : Type} (f : State → α → State × Bool) : List α → State → State × List α × Bool
  | [], s => (s, [], true)
  | a :: l, s => match f s a with
    | (s, false) => (s, [], false)
    | (s, true) => match tryAll f l s with
      | (s, done, ok) => (s, a :: done, ok)

/-- Undo the loads of a plan. -/
def State.unload (s : State) (l : List CtxId) : State :=
  forAll l s fun s x =>
    let s := s.resetHard x
    s.setCtx x { s.ctx x with planned := false }

/-- The handles of a plan's pelotons. -/
def State.planHandles (s : State) (p : Plan) : List Nat := p.plts.map fun a => s.num a 2 % 2 ^ 14

/-- The tables of one kind that the plan's contexts use: the value of each enabled register, once. -/
def State.tables (s : State) (l : List CtxId) (r : CtxId → Reg) : List Word :=
  ((l.map fun x => s.reg (r x)).filter fun v => bit v 0).eraseDups

/-- Health tables (R226). -/
def State.healthTables (s : State) : List Nat :=
  (s.tables s.planCtxs fun x => .hlth x.core x.n).map fun v => getBits v F.hlth_BASE * 2 ^ 21

/-- A table update of the step service is skipped (R475). -/
def State.skipTable (s : State) (tid table a cause : Nat) : State := s.raiseEv 0 5 0x12 [(3, tid), (1, table), (6, a), (1, cause)]

/-- Update a slot of a table: skipped where it lies nowhere or reads as uncorrectable (R475). -/
def State.slotUpdate (s : State) (tid table a n : Nat) (f : State → State) : State :=
  if s.inDram a n = false then s.skipTable tid table a 6
  else match s.readRange .hub a n with
    | (s, some _) => s.skipTable tid table a 7
    | (s, none) => f s

/-- Write the plan's seeds into every history table of its contexts (R222). -/
def State.writeSeeds (s : State) (l : List (Nat × Nat)) : State :=
  let bases := s.histTables
  forAll l s fun s q => forAll bases s fun s b =>
    let a := b + 512 * (q.1 % 65536)
    s.slotUpdate q.1 0 a 272 fun s =>
      let n : SeedNote := { slot := a, tid := q.1, since := none, till := none }
      { s.seedSlot a q.1 q.2 with svc := { s.svc with seedsWritten := n :: s.svc.seedsWritten.filter fun r => r.slot != a } }

/-- Show the lowest step whose inputs are not all posted in HUB_SVCIN (R400). -/
def State.showNextIn (s : State) : State :=
  match s.svc.plan with
  | none => s
  | some p =>
    let full (t : Nat) : Bool := (List.range p.inper).all fun k => s.svc.posted.contains (t, k)
    let n := ((List.range (s.svc.posted.length + 1)).find? fun i => !full (s.svc.next + i)).getD 0
    s.setFld .hubSvcin F.hubSvcin_NEXTIN ((s.svc.next + n) % 2 ^ 32)

/-- The state of the step service. -/
def State.svcState (s : State) : Nat := s.fld .hubSvcstat F.hubSvcstat_STATE

/-- A plan is refused with PLANERR; the loads and openings are undone (R401). -/
def State.planFail (s : State) (e : Nat) (xs : List CtxId) (hs : List Nat) : State :=
  ((forAll hs (s.unload xs) State.pltClose)).setFld .hubSvcstat F.hubSvcstat_PLANERR e

/-- Load, open and seed a plan that has been read (R401). -/
def State.planApply (s : State) (p : Plan) : State × Bool :=
  match s.planRegs p.regs p.first with
  | none => (s.planFail 5 [] [], false)
  | some s => match tryAll (fun s c => s.planLoad p.job c) p.ctxs s with
    | (s, l, false) => (s.planFail 3 (l.map PlanCtx.x) [], false)
    | (s, l, true) => match tryAll State.planOpen p.plts s with
      | (s, hs, false) => (s.planFail 4 (l.map PlanCtx.x) (hs.map fun a => s.num a 2 % 2 ^ 14), false)
      | (s, _, true) =>
        let s := { s with svc := { SvcState.reset with plan := some p, next := p.first } }
        let v := putBits (putBits (putBits (s.reg .hubSvcstat) F.hubSvcstat_STATE 1) F.hubSvcstat_PLANERR 0) F.hubSvcstat_CAUSE 0
        ((s.setReg .hubSvcstat v).writeSeeds p.seeds |>.showNextIn, true)

/-- PLAN (R401): only in IDLE. Status 6 for a plan that is refused. -/
def execPlan (w : Fin 256) (s : State) : Host.Outcome State Fault Refusal :=
  runs s fun s => s.runEntry w 0x10 false fun _ _ e s =>
    let a := e.w1.toNat
    if s.svcState ≠ 0 then (s, some 6)
    else if a % 64 ≠ 0 then (s, some 1)
    else if s.inDram a 256 = false then (s, some 3)
    else match s.readPlan a with
      | (s, .error n) => (s.planFail n [] [], some 6)
      | (s, .ok p) => match s.planApply p with
        | (s, true) => (s, some 0)
        | (s, false) => (s, some 6)

/-! ## The other commands (R401) -/

/-- Run a command of the step service in the states that accept it. -/
def State.svcEntry (s : State) (w : Fin 256) (opc : Nat) (states : List Nat) (f : IEntry → State → State × Option Nat) : State :=
  s.runEntry w opc false fun _ _ e s => if states.contains s.svcState then f e s else (s, some 6)

/-- The service goes to RUNNING. -/
def State.svcRun (s : State) : State :=
  { s.setFld .hubSvcstat F.hubSvcstat_STATE 2 with svc := { s.svc with stop := none, late := false, abandoned := false } }

/-- The cores of the plan. -/
def State.planCores (s : State) : List (Fin 256) := (s.planCtxs.map fun x => x.core).eraseDups

/-- FSCTLn of every core and context number of the plan. -/
def State.fsctlNow (s : State) : Map (Fin 256 × Fin 4) Word :=
  (s.planCores.flatMap fun c => (List.finRange 4).map fun n => (c, n)).foldl
    (fun (m : Map (Fin 256 × Fin 4) Word) q => m.set q (s.reg (.fsctl q.1 q.2))) []

/-- ENTRY_START (R401): from step FIRST. -/
def execEntryStart (w : Fin 256) (s : State) : Host.Outcome State Fault Refusal :=
  runs s fun s => s.svcEntry w 0x11 [1] fun _ s => match s.svc.plan with
    | none => (s, some 6)
    | some p =>
      let t : SvcState := { s.svc with next := p.first, active := false, ended := s.time, ran := false, passed := false, fsbase := s.fsctlNow, cnt := StepCnt.zero,
                                       adjusts := [], due := [], undo := [], calm := [], late1 := [], late2 := [] }
      (({ s.clearStep with svc := t }).svcRun.showNextIn, some 0)

/-- ENTRY_HOLD (R401): NOW 1 ends the running step with cause 6; NOW 0 lets it finish. -/
def execEntryHold (w : Fin 256) (s : State) : Host.Outcome State Fault Refusal :=
  runs s fun s => s.svcEntry w 0x12 [2] fun e s =>
    if getBits e.w0 (32, 1) = 1 then ((s.endStep 1 1).svcHold 1, some 0)
    else if s.svc.active then ({ s with svc := { s.svc with stop := some (s.svcStep, 1) } }, some 0)
    else (s.svcHold 1, some 0)

/-- ENTRY_RESUME (R401): from the next step. After a step that was ended, the contexts are loaded again. -/
def execEntryResume (w : Fin 256) (s : State) : Host.Outcome State Fault Refusal :=
  runs s fun s => s.svcEntry w 0x13 [3] fun _ s =>
    let s := if s.svc.abandoned then
        let s := s.reloadPlan.clearStep
        { s with svc := { s.svc with cnt := StepCnt.zero } }
      else s
    (s.svcRun, some 0)

/-- ENTRY_REWIND (R401, R314, R315): to step S0, or to the newest common snapshot `newest`; after a hold with cause 5 the job is
re-formed. -/
def execEntryRewind (w : Fin 256) (newest : BitVec 32) (s : State) : Host.Outcome State Fault Refusal :=
  runs s fun s => s.svcEntry w 0x14 [3] fun e s =>
    let n := getBits e.w1 (0, 32)
    let step := if n = 2 ^ 32 - 1 then newest.toNat else n
    match s.slotOf step with
    | none => (s, some 6)
    | some b =>
      if s.fld .hubSvcstat F.hubSvcstat_CAUSE = 5 then ((s.reform step s.svc.taken b).showNextIn, some 0)
      else ((s.rewind step 1 b).showNextIn, some 0)

/-- ENTRY_END (R401): the step ends with cause 6, the plan's contexts are reset and its pelotons closed. -/
def execEntryEnd (w : Fin 256) (s : State) : Host.Outcome State Fault Refusal :=
  runs s fun s => s.svcEntry w 0x15 [1, 2, 3] fun _ s => match s.svc.plan with
    | none => (s, some 6)
    | some p =>
      let s := (s.endStep 1 1).snapDrop
      let s := (s.unload (p.ctxs.map PlanCtx.x)).clearStep
      let s := forAll (s.planHandles p) s fun s h => if s.openHandle h then s.pltClose h else s
      (({ s with svc := SvcState.reset }).setFld .hubSvcstat F.hubSvcstat_STATE 0, some 0)

/-- Whether a step has completed. -/
def State.stepDone (s : State) (t : Nat) : Bool := decide (t < s.svc.next) && !(s.svc.active && t == s.svcStep)

/-- INPUT (R400): input k of step S is posted; status 6 where its slot's previous step has not completed. -/
def execInput (w : Fin 256) (s : State) : Host.Outcome State Fault Refusal :=
  runs s fun s => s.runEntry w 0x16 true fun _ _ e s => match s.svc.plan with
    | none => (s, some 6)
    | some p =>
      let t := getBits e.w1 (0, 32)
      let k := getBits e.w1 (32, 32)
      let n := t * p.inper + k
      if p.inper ≤ k then (s, some 6)
      else if p.inslots ≤ n ∧ p.first ≤ (n - p.inslots) / p.inper ∧ s.stepDone ((n - p.inslots) / p.inper) = false then (s, some 6)
      else
        let l := if s.svc.posted.contains (t, k) then s.svc.posted else (t, k) :: s.svc.posted
        (({ s with svc := { s.svc with posted := l } }).showNextIn, some 0)

/-- Whether every input of the next step is posted (R400). -/
def State.inputsReady (s : State) (p : Plan) : Bool := (List.range p.inper).all fun k => s.svc.posted.contains (s.svc.next, k)

/-- INPUT_LATE (R400): once for a step, INWAIT after the step before it ended. -/
def execInputLate (s : State) : Host.Outcome State Fault Refusal :=
  runs s fun s => match s.svc.plan with
    | none => s
    | some p =>
      let n := ((List.range p.inper).filter fun k => s.svc.posted.contains (s.svc.next, k)).length
      if s.svcState = 2 ∧ s.svc.active = false ∧ s.svc.late = false ∧ s.inputsReady p = false ∧ p.inwait ≤ s.usSince s.svc.ended then
        ({ s with svc := { s.svc with late := true } }).raiseEv 0 7 0x31 [(4, s.svc.next), (4, n)]
      else s

/-! ## Boundary work: histories and raise tables -/

/-- Write one history entry (R82), over the seed where the slot's newest entry is one (R223): the seed is then no more in use. -/
def State.historyEntry (s : State) (base tid amax step : Nat) : State :=
  let a := base + 512 * (tid % 65536)
  s.slotUpdate tid 0 a 272 fun s =>
    let h := s.num (a + 256) 8
    let count := h / 2 ^ 16 % 128
    let head := h / 2 ^ 32 % 64
    let seed := s.svc.seedsWritten.any fun q => q.slot == a && q.tid == tid && q.till.isNone
    let place := if seed then (head + 63) % 64 else head
    let head' := if seed then head else (head + 1) % 64
    let count' := if seed then count else min 64 (count + 1)
    let s := { s with svc := { s.svc with seedsWritten := s.svc.seedsWritten.map fun (q : SeedNote) =>
      if q.slot = a ∧ q.till.isNone = true then { q with till := some step } else q } }
    let s := (s.writeMem .hub (a + 4 * place) (toBytes 4 amax)).1
    (s.writeMem .hub (a + 256) (toBytes 8 (tid / 65536 + 2 ^ 8 + count' * 2 ^ 16 + head' * 2 ^ 32) ++ toBytes 4 step)).1

/-- The histories of a step (R82): the maximum over this member and the others, for every tensor that was converted. -/
def State.writeHistories (s : State) (others : List (Nat × BitVec 32)) (step : Nat) : State :=
  let all := others.foldl (fun (m : Map Nat Nat) q => m.set q.1 (max (m.get q.1 0) q.2.toNat)) s.core.amax
  let bases := s.histTables
  forAll all s fun s q => forAll bases s fun s b => s.historyEntry b q.1 q.2 step

/-- Write an entry of a raise table (R43). -/
def State.raiseEntry (s : State) (base tag n : Nat) : State :=
  let a := base * 2 ^ 14 + tag / 4
  s.slotUpdate 0 2 a 1 fun s =>
    let old := s.num a 1
    let sh := 4 ^ (tag % 4)
    (s.writeMem .hub a (toBytes 1 (old - old / sh % 4 * sh + n % 4 * sh))).1

/-- The raise tables of a step (R43, R207): each operation's highest raise count in the table that its context read, and of a recompute
pair whose two operations ran the higher count for both. Pairs are compared whatever tables their operations ran under. -/
def State.writeRaises (s : State) (pairs : List (Nat × Nat)) : State :=
  let done := s.core.raised
  let got := s.core.reached
  let both := pairs.filter fun p => got.has p.1 && got.has p.2
  let up := both.foldl (fun (m : Map (Nat × Nat) Nat) p =>
    let n := max (got.get p.1 0) (got.get p.2 0)
    m.map fun q => if q.1.2 = p.1 ∨ q.1.2 = p.2 then (q.1, max n q.2) else q) done
  let differ := both.any fun p => got.get p.1 0 != got.get p.2 0
  let s := forAll up s fun s q => if q.2 = 0 ∧ done.get q.1 0 = 0 then s else s.raiseEntry q.1.1 q.1.2 q.2
  if differ then s.tally fun c => { c with flags := c.flags ||| 1 } else s

/-! ## Boundary work: health (R227-R230) -/

/-- Add sums of one tensor or format to a list. -/
def addSum (l : List HealthSum) (q : HealthSum) : List HealthSum :=
  if l.any fun r => r.tid == q.tid then
    l.map fun (r : HealthSum) => if r.tid = q.tid then
      { r with conv := r.conv + q.conv, sat := r.sat + q.sat, van := r.van + q.van, clash := r.clash || q.clash, mix := r.mix || q.mix }
    else r
  else l ++ [q]

/-- The key under which the sums of a format code go: no tensor id, which has 24 bits. -/
def fmtKey (f : Nat) : Nat := 2 ^ 24 + f

/-- Read and zero the slots of one health table (R227). -/
def State.drainTable (s : State) (base : Nat) (l : List HealthSum) : State × List HealthSum :=
  (List.range 65536).foldl (fun (q : State × List HealthSum) i =>
    let a := base + 32 * i
    if (q.1.byte (a + 1)).toNat % 2 = 0 then q
    else match q.1.readRange .hub a 32 with
      | (s, some _) => (s.skipTable i 1 a 7, q.2)
      | (s, none) =>
        let h := s.num a 8
        let v : HealthSum := { tid := h % 256 * 65536 + i, conv := s.num (a + 8) 8, sat := s.num (a + 16) 8, van := s.num (a + 24) 8,
                               clash := h / 2 ^ 9 % 2 == 1, mix := h / 2 ^ 10 % 2 == 1 }
        let f : HealthSum := { v with tid := fmtKey (h / 2 ^ 12 % 16), clash := false, mix := false }
        ((s.writeMem .hub a (List.replicate 32 0)).1, addSum (addSum q.2 v) f)) (s, l)

/-- Reduce the health of a step over this module's tables and the other members' sums (R227). -/
def State.reduceHealth (s : State) (others : List HealthSum) : State :=
  match s.healthTables.foldl (fun (q : State × List HealthSum) b => q.1.drainTable b q.2) (s, []) with
  | (s, l) => { s with svc := { s.svc with health := others.foldl addSum l } }

/-- The share of a count in units of 2^-16 (R227); a tensor without conversions has none (log entry 50). -/
def share (n conv : Nat) : Nat := if conv = 0 then 0 else 65536 * n / conv

/-- The reduced sums under a key. -/
def State.healthOf (s : State) (tid : Nat) : HealthSum :=
  (s.svc.health.find? fun q => q.tid == tid).getD { tid := tid, conv := 0, sat := 0, van := 0, clash := false, mix := false }

/-- Whether a tensor of the health list is above a limit (R228). -/
def State.unwell (s : State) (h : HealthItem) : Bool :=
  let q := s.healthOf h.tid
  decide (h.satlim < share q.sat q.conv ∨ h.vanlim < share q.van q.conv)

/-- One entry of the health block (R403). -/
def State.healthEntry (s : State) (tid flags : Nat) : List Byte :=
  let q := s.healthOf tid
  let u (n : Nat) : List Byte := toBytes 8 (min n (2 ^ 64 - 1))
  List.flatten
    [toBytes 4 tid, toBytes 4 (min (share q.sat q.conv) (2 ^ 32 - 1)), toBytes 4 (min (share q.van q.conv) (2 ^ 32 - 1)), toBytes 4 flags,
     u q.conv, u q.sat, u q.van, List.replicate 8 0]

/-- The entry of a format code in the health block (R403). -/
def State.formatEntry (s : State) (f : Nat) : List Byte :=
  toBytes 4 (0xFFFF00 + f) ++ (s.healthEntry (fmtKey f) 0).drop 4

/-- Write the health block of a step (R403). -/
def State.writeHealth (s : State) (p : Plan) (step : Nat) : State :=
  if p.hbase = 0 then s
  else
    let one (h : HealthItem) : List Byte :=
      let q := s.healthOf h.tid
      let pre := s.core.prepass.any fun r => r.1 == h.tid
      let seed := s.core.seeded.contains h.tid && !pre
      s.healthEntry h.tid (b2n q.clash + 2 * b2n q.mix + 4 * b2n seed + 8 * b2n pre + 16 * b2n (s.unwell h))
    let bs := (p.health.map one).flatten ++ ((List.range 16).map fun f => s.formatEntry f).flatten
    s.toHost (p.hbase + step % p.rptcount * 48 * (p.health.length + 16)) bs

/-- The contexts of a mask that no earlier change of this step has taken. -/
def freeMask (l : List Adjust) (m : Nat) : Nat :=
  (List.range 4).foldl (fun v n => if m.testBit n = true ∧ (l.any fun a => a.ctxmask.testBit n) = false then v + 2 ^ n else v) 0

/-- The increments that the health of one step calls for (R228, R229): saturation first, each context number once. -/
def State.callsFor (s : State) (l : List HealthItem) : List Adjust :=
  let sat (h : HealthItem) : Bool := decide (h.satlim < share (s.healthOf h.tid).sat (s.healthOf h.tid).conv)
  let take (margin : Bool) (acc : List Adjust) (h : HealthItem) : List Adjust :=
    let m := freeMask acc h.ctxmask
    if m = 0 then acc else acc ++ [{ tid := h.tid, ctxmask := m, margin := margin }]
  (l.filter fun h => !sat h).foldl (take false) ((l.filter sat).foldl (take true) [])

/-- Take the health actions of a step (R228): a tensor under a seed or after a pre-pass is only reported (R224). -/
def State.healthActions (s : State) (p : Plan) (now : Nat) : State :=
  let bad := p.health.filter s.unwell
  let s := if bad = [] then s else s.tally fun c => { c with flags := c.flags ||| 4 }
  let acts := bad.filter fun h => !s.core.seeded.contains h.tid
  let s := if acts.any fun h => h.action == 1 then
    { s with svc := { s.svc with stop := s.svc.stop.or (some (now, 2)) } } else s
  let calm (h : HealthItem) : Bool :=
    let q := s.healthOf h.tid
    decide (2 * share q.sat q.conv ≤ h.satlim ∧ 2 * share q.van q.conv ≤ h.vanlim)
  let adj := p.health.filter fun h => h.action == 2
  let calms : Map Nat Nat := adj.foldl (fun m h => m.set h.tid (if calm h then m.get h.tid 0 + 1 else 0)) s.svc.calm
  let rested := adj.filter fun h => calms.get h.tid 0 == 256
  let undo := rested.filterMap fun h => s.svc.adjusts.find? fun a => a.tid == h.tid
  let calms := rested.foldl (fun (m : Map Nat Nat) h => m.set h.tid 0) calms
  let due := s.svc.due ++ s.callsFor (acts.filter fun h => h.action == 2)
  { s with svc := { s.svc with calm := calms, due := due, undo := s.svc.undo ++ undo } }

/-- FSCTLn with one change applied (R228). -/
def adjusted (v : Word) (a : Adjust) : Word :=
  if a.margin then putBits v F.fsctl_MARGIN (min 7 (getBits v F.fsctl_MARGIN + 1))
  else putBits v F.fsctl_FLOORSPAN (min 63 (getBits v F.fsctl_FLOORSPAN + 4))

/-- FSCTLn with one change taken back, never below what the plan started with (R228). -/
def takenBack (base v : Word) (a : Adjust) : Word :=
  if a.margin then putBits v F.fsctl_MARGIN (max (getBits base F.fsctl_MARGIN) (getBits v F.fsctl_MARGIN - 1))
  else putBits v F.fsctl_FLOORSPAN (max (getBits base F.fsctl_FLOORSPAN) (getBits v F.fsctl_FLOORSPAN - 4))

/-- Changes of FSCTLn of one context number. -/
def changesOf (n : Fin 4) (l : List Adjust) : List Adjust := l.filter fun a => a.ctxmask.testBit n.val

/-- What FSCTLn becomes: `base` is its value when the plan started, `old` and `next` are the changes in force before and after. Where the
register holds what the changes before made of it, the changes after are made to `base`; where it has been written otherwise, the live
value takes the new changes and gives up the undone ones (log entry 84). -/
def adjustedTo (n : Fin 4) (base live : Word) (old next due gone : List Adjust) : Word :=
  let of (l : List Adjust) : Word := (changesOf n l.reverse).foldl adjusted base
  if live = of old then of next
  else (changesOf n due).foldl adjusted ((changesOf n gone).foldl (takenBack base) live)

/-- Stage the ADJUST generation that is due (R228, R230). -/
def State.stageAdjust (s : State) (step : Nat) : State :=
  let gone := s.svc.undo
  let left := gone.foldl (fun (l : List Adjust) a => l.erase a) s.svc.adjusts
  let next := s.svc.due.reverse ++ left
  let touched := s.svc.due ++ gone
  let keys := s.planCores.flatMap fun c => ((List.finRange 4).filter fun n => touched.any fun a => a.ctxmask.testBit n.val).map fun n => (c, n)
  let list := keys.map fun (q : Fin 256 × Fin 4) =>
    let live := s.reg (.fsctl q.1 q.2)
    ((Reg.fsctl q.1 q.2).offset, adjustedTo q.2 (s.svc.fsbase.get q live) live s.svc.adjusts next s.svc.due gone)
  let t : SvcState := { s.svc with adjusts := next, due := [], undo := [] }
  let s := { s with svc := t }
  if list = [] then s
  else
    let g : Staged := { gen := (s.live + 1) % 2 ^ 32, step := step % 2 ^ 32, addr := 0, count := list.length, list := list }
    let s := (s.setFld .hubGenstat F.hubGenstat_PEND 1).setFld .hubGenstat F.hubGenstat_COPIED 1
    { s with gen := { s.gen with staged := some g, next := [] } }

/-! ## Boundary work: late cores and watchpoints -/

/-- The median of a list; of an even number of values the mean of the middle two, rounded down (log entry 51). -/
def median (l : List Nat) : Nat :=
  let o := sortBy (fun (a b : Nat) => decide (a ≤ b)) l
  (o.getD ((o.length - 1) / 2) 0 + o.getD (o.length / 2) 0) / 2

/-- The cores whose lateness exceeded LATELIM in the step that ended (R322). -/
def State.lateCores (s : State) : List (Fin 256) :=
  let lim := 100 * s.fld .hubPlnctl F.hubPlnctl_LATELIM
  let tend (c : Fin 256) : Nat := (s.reg (.coreTend c)).toNat
  (List.finRange 16).flatMap fun k =>
    let l := ((List.finRange 16).map fun j => coreOf k j).filter fun c => s.flag (.coreCstat c) F.coreCstat_USABLE
    let m := median (l.map tend)
    l.filter fun c => decide (m + lim < tend c)

/-- The watchpoints at the boundary after a step (R454). -/
def State.endWatches (s : State) (step : Nat) : State :=
  forAll ((List.finRange 16).filter fun n => s.flag (.pmuWpCtli n) F.pmuWpCtli_EN) s fun s n =>
    let back := (step + 2 ^ 32 - s.fld (.pmuWpIdi n) F.pmuWpIdi_STEP) % 2 ^ 32
    if back = 0 ∨ (back < 2 ^ 31 ∧ s.flag (.pmuWpStati n) F.pmuWpStati_DONE = false) then
      let s := s.setFld (.pmuWpStati n) F.pmuWpStati_DONE 1
      if s.reg (.pmuWpCli n) = 0 then s else s.deliver s.gtag (s.reg (.pmuWpCli n)) 1
    else s

/-! ## Starting and ending a step (R402) -/

/-- Item 2 of R402: the boundary work of the step that ended. -/
def State.boundaryWork (s : State) (p : Plan) (others : List HealthSum) (amax : List (Nat × BitVec 32)) (digestError : Bool) : State :=
  let last := s.svc.next - 1
  let s := { s with svc := { s.svc with ran := false, cnt := { StepCnt.zero with start := s.time } } }
  let s := if s.tandem then s.endGroup none digestError else s
  let s := ((s.writeHistories amax last).writeRaises p.recompute).reduceHealth others
  let s := (s.writeHealth p last).healthActions p s.svc.next
  let l := s.lateCores
  let s := { s with svc := { s.svc with late1 := l, late2 := l.filter fun c => s.svc.late1.contains c } }
  (s.endWatches last).clearStep

/-- What event 0x08:0x0041 records of a re-form: the values of x that the slab took with it, the handles that the generation replaces,
and the holders of their shares (log entry 75). -/
def State.reformData (s after : State) : List (Nat × Nat) :=
  let was := s.fld .spkmBlk F.spkmBlk_XMASK
  let replaced := s.plt.pelotons.filter fun (p : Peloton) => p.next.isSome
  (1, was ^^^ (was &&& after.fld .spkmBlk F.spkmBlk_XMASK)) :: replaced.map (fun p => (2, p.handle)) ++
    replaced.flatMap fun p => (p.next.getD p.desc).shares.map fun m => (2, m)

/-- Item 3 of R402: a pending generation, and the event of a re-formed run (R315 item 8). -/
def State.boundaryGen (s : State) : State :=
  let t := s.genBoundary s.svc.next
  if s.svc.reformed then t.raiseEv 0 8 0x41 (s.reformData t) else t

/-- Items 4 and 5 of R402: the snapshot begins and every context of the plan starts. Raise tables and histories are read as they stand
now (R43, R83). -/
def State.stepBegin (s : State) (p : Plan) : State :=
  let step := s.svc.next
  let s := if s.snapDue step then s.snapBegin step else s
  let t : SvcState := { s.svc with
    next := step + 1, active := true, startMem := some s.mem, late := false, passed := false, reformed := false
    cnt := { s.svc.cnt with start := s.time, last := s.time } }
  let s := ({ s with svc := t }).setFld .hubSvcstat F.hubSvcstat_STEP (step % 2 ^ 32)
  let s := forAll p.ctxs s fun s c =>
    let x := c.x
    let s := s.setReg (.xseed x.core x.n) (BitVec.ofNat 64 ((p.baseseed + step) % 2 ^ 32))
    let s := s.setReg (.ctxStep x.core x.n) (BitVec.ofNat 64 step)
    let h := c.image
    (s.setPc x (h + s.num (h + 8) 4 + s.num (h + 16) 4)).command x 2
  s.showNextIn

/-- Whether the next step may start (R402 item 1, R382, and the timebase rule of bring-up). -/
def State.stepReady (s : State) (p : Plan) : Bool :=
  s.svcState == 2 && !s.svc.active && !s.svc.abandoned && s.inputsReady p && s.flag .clkBrstat F.clkBrstat_TBSYNC && s.host.up

/-- STEP_START (R402): `others` and `amax` are what the other members' step services report of the step before, and `digestError` a hardware
error in it that made the dies' results differ. After unequal digests, and while an ADJUST generation waits for draining (R230), no
context starts. -/
def execStepStart (others : List HealthSum) (amax : List (Nat × BitVec 32)) (digestError : Bool) (s : State) :
    Host.Outcome State Fault Refusal :=
  runs s fun s => match s.svc.plan with
    | none => s
    | some p =>
      if s.stepReady p = false then s
      else
        let ran := s.svc.ran
        let s := if ran then s.boundaryWork p others amax digestError else s
        if ran = true ∧ s.tandem = true ∧ s.reg .intTddig0 ≠ s.reg .intTddig1 then (s.svcHold 4)
        else
          let s := if s.svc.passed then s else
            { s.boundaryGen with svc := { s.boundaryGen.svc with passed := true } }
          let wants := (s.svc.due ≠ [] ∨ s.svc.undo ≠ []) ∧ s.flag .hubGenstat F.hubGenstat_PEND = false
          if wants ∧ s.draining = true then s
          else (if wants then s.stageAdjust (s.svc.next + 1) else s).stepBegin p

/-- What the step service does about the plan's contexts that have halted (R402 item 6, R313): a trap under NANPOL 1 is resumed,
anything else holds with cause 4. -/
def State.pollHalted (s : State) (p : Plan) : State :=
  forAll (p.ctxs.map PlanCtx.x) s fun s x =>
    if s.ctxState x ≠ 4 then s
    else if (s.ctx x).why = 2 ∧ p.nanpol = 1 then s.runOn x
    else if (s.ctx x).why = 2 then
      let s := s.svcHold 4
      match (s.ctx x).bracket with
      | some b => if b.op.ph ≠ 0 ∧ b.aborted = false then s.resetCtx x else s
      | none => s
    else if (s.ctx x).why = 1 then s.svcHold 4
    else s

/-- The step in progress completes (R402 item 8): its report, and then what was ordered for its end (R228, R401). -/
def State.stepFinish (s : State) (p : Plan) : State :=
  let step := s.svcStep
  let s := s.writeReport 0 0
  let s := { s with svc := { s.svc with active := false, startMem := none, ended := s.time, ran := true } }
  let s := s.count .hubSvccnt F.hubSvccnt_STEPS 1
  let s := { s with svc := { s.svc with posted := s.svc.posted.filter fun q => decide (step < q.1) } }
  if p.nsteps ≠ 0 ∧ p.first + p.nsteps ≤ s.svc.next then
    ({ s with svc := { s.svc with next := p.first, posted := [], ran := false, stop := none } }).setFld .hubSvcstat F.hubSvcstat_STATE 1
  else match s.svc.stop with
    | some q => if q.1 ≤ step then (({ s with svc := { s.svc with stop := none } }).svcHold q.2) else s
    | none => s

/-- STEP_END (R402 items 6 to 8). -/
def execStepEnd (s : State) : Host.Outcome State Fault Refusal :=
  runs s fun s => match s.svc.plan with
    | none => s
    | some p =>
      if s.svc.active = false ∨ (s.svcState ≠ 2 ∧ s.svcState ≠ 3) then s
      else
        let s := s.pollHalted p
        if (p.ctxs.all fun c => s.ctxState c.x == 0) && s.plt.snap.isNone then s.stepFinish p else s

end Sys2Proof.Machine
end

