-- ==== Sys2Proof/Machine/Sideband.lean ====
section
/-!
DEFINITION. The side-band (R408, R409): its dynamic address, MCTP control messages, the vendor-defined commands, and the SPDM responder
(R430-R432).
-/

namespace Sys2Proof.Machine

/-! ## The link -/

/-- Whether the side-band works: the module has power and bring-up step 2 has ended (R408). -/
def State.sbServes (s : State) : Bool := !s.pow.off && s.phase != 0

/-- The provisioned ID (R408). -/
def State.provisionedId (s : State) : Nat := 0x5A1C * 2 ^ 33 + 0x0A12 * 2 ^ 16 + s.fld .clkPhys F.clkPhys_MOD_POS

/-- I3C_DYNAMIC_ADDRESS (R408): the target answers ENTDAA with its provisioned ID and takes the address. -/
def execI3cDynamicAddress (addr : BitVec 7) (s : State) : Host.Outcome State Fault Refusal :=
  runs s fun s =>
    if s.sbServes = false ∨ s.fw.i3c.isSome = true then s
    else ({ s with fw := { s.fw with i3c := some addr } }).answer (.sideband 0 0 (beBytes 6 s.provisionedId))

/-- Whether a message reaches the side-band: it works and has its dynamic address. -/
def State.sbReady (s : State) : Bool := s.sbServes && s.fw.i3c.isSome

/-- MCTP_CONTROL (R408): Set and Get Endpoint ID, Get MCTP Version Support, Get Message Type Support and Get Vendor Defined Message
Support; any other command is answered as unsupported. The forms are those of DMTF DSP0236 (PRESUMED, log entry 52). -/
def execMctpControl (cmd : BitVec 8) (data : List Byte) (s : State) : Host.Outcome State Fault Refusal :=
  runs s fun s =>
    let c := cmd.toNat
    let reply (s : State) (completion : Nat) (bs : List Byte) : State := s.answer (.sideband c completion bs)
    if s.sbReady = false then s
    else if c = 1 then match data with
      | [op, eid] =>
        if 1 < op.toNat ∨ eid = 0 ∨ eid = 255 then reply s 2 []
        else reply { s with fw := { s.fw with eid := eid.toNat } } 0 [0, eid, 0]
      | _ => reply s 3 []
    else if c = 2 then (if data = [] then reply s 0 (List.flatten [toBytes 1 s.fw.eid, [0, 0]]) else reply s 3 [])
    else if c = 4 then (if data.length = 1 then reply s 0 [1, 0xF0, 0xF1, 0xF3, 0xF1] else reply s 3 [])
    else if c = 5 then (if data = [] then reply s 0 [2, 0x05, 0x7E] else reply s 3 [])
    else if c = 6 then (if data = [0] then reply s 0 [0xFF, 0x00, 0x1F, 0x4C, 0x00, 0x00] else reply s 3 [])
    else reply s 5 []

/-! ## The vendor-defined commands (R409) -/

/-- A command is malformed (1) or refused (2): completion code 1 and event 0x07:0x0060. -/
def State.sbRefuse (s : State) (code reason : Nat) : State :=
  (s.raiseEv 0 7 0x60 [(1, code), (1, reason)]).answer (.sideband code 1 [])

/-- Serve a command outside recovery. -/
def State.sbCommand (s : State) (code : Nat) (f : State → State) : State :=
  if s.sbReady = false then s else if s.phase = 4 then s.sbRefuse code 2 else f s

/-- SB_REGISTER_READ (R409). -/
def execSbRegisterRead (off : BitVec 32) (s : State) : Host.Outcome State Fault Refusal :=
  runs s fun s => s.sbCommand 1 fun s =>
    let o := off.toNat
    if o % 8 ≠ 0 ∨ 2 ^ 30 ≤ o then s.sbRefuse 1 1
    else
      let q := s.ctlRead .driver o .w8
      q.1.answer (.sideband 1 0 (toBytes 8 q.2.toNat))

/-- SB_REGISTER_WRITE (R409). -/
def execSbRegisterWrite (off : BitVec 32) (value : Word) (s : State) : Host.Outcome State Fault Refusal :=
  runs s fun s => s.sbCommand 2 fun s =>
    let o := off.toNat
    if o % 8 ≠ 0 ∨ 2 ^ 30 ≤ o then s.sbRefuse 2 1
    else (s.ctlWrite .driver o .w8 value).answer (.sideband 2 0 [])

/-- SB_STATUS (R409). -/
def execSbStatus (s : State) : Host.Outcome State Fault Refusal :=
  runs s fun s => s.sbCommand 3 fun s =>
    s.answer (.sideband 3 0 (List.flatten [toBytes 8 (s.view .clkBrstat).toNat, toBytes 8 (s.view .clkPwrstat).toNat,
      toBytes 8 (s.view .hubSvcstat).toNat]))

/-- SB_ODOMETER_READ (R437): the record at the cursor, or 64 zero bytes; its own cursor moves past it. -/
def execSbOdometerRead (cursor : BitVec 32) (s : State) : Host.Outcome State Fault Refusal :=
  runs s fun s => s.sbCommand 4 fun s =>
    match s.flash.atCursor cursor.toNat with
    | none => ({ s with fw := { s.fw with sbCursor := cursor.toNat } }).answer (.sideband 4 0 (List.replicate 64 0))
    | some r => ({ s with fw := { s.fw with sbCursor := (r.seq + 1) % 2 ^ 32 } }).answer (.sideband 4 0 r.bytes)

/-- A delivery command of the side-band (R420): none where it is malformed. `src` 0x10000 names the side-band among the sources of
fragments. -/
def State.sbDelivery (s : State) (data : List Byte) : Option State :=
  let f (o n : Nat) : Nat := ofBytes ((data.drop o).take n)
  let cmd := f 0 1
  let live := f 1 1
  let body := data.drop 8
  if data.length < 8 ∨ 8 + 4096 < data.length ∨ 1 < live ∨ f 4 4 % 4096 ≠ 0 then none
  else if cmd = 1 then some (s.fragment 0x10000 none (f 4 4) body .sideband)
  else if cmd = 2 then (if body.length = 4096 ∧ f 4 4 < 65536 then some (s.fragment 0x10000 (some (f 2 2)) (f 4 4) body .sideband) else none)
  else if cmd = 3 then some (s.fwCommit [] .sideband)
  else if cmd = 4 then some (if live = 1 then s.fwActivateLive .sideband else s.fwActivate .sideband)
  else if cmd = 5 then some (s.fwConfirm .sideband)
  else if cmd = 6 then some (s.fwAbandon .sideband)
  else none

/-- SB_IMAGE_PIECE (R420): served in recovery too (R419). -/
def execSbImagePiece (data : List Byte) (s : State) : Host.Outcome State Fault Refusal :=
  runs s fun s =>
    if s.sbReady = false then s
    else
      let rej := s.fld .hubFwstat F.hubFwstat_REJ
      match (s.setFld .hubFwstat F.hubFwstat_REJ 0).sbDelivery data with
      | none => s.sbRefuse 5 1
      | some t =>
        let refused := t.flag .hubFwstat F.hubFwstat_REJ
        let t := if refused then t else t.setFld .hubFwstat F.hubFwstat_REJ rej
        if refused then t.sbRefuse 5 2 else t.answer (.sideband 5 0 [])

/-! ## SPDM (R432) -/

/-- Serve an SPDM request: the firmware runs. -/
def State.spdmServe (s : State) (f : State → State) : State := if s.sbReady = false ∨ s.phase = 4 then s else f s

/-- An ERROR response with its error code: 1 invalid request, 3 busy. -/
def State.spdmError (s : State) (code : Nat) : State := s.answer (.spdm 0x7F (toBytes 1 code))

/-- Whether the identity key is derived (R430). -/
def State.keyReady (s : State) : Bool := s.flag .clkBrstat F.clkBrstat_KEYOK

/-- GET_VERSION (R432): 1.2 and 1.3. -/
def execGetVersion (s : State) : Host.Outcome State Fault Refusal :=
  runs s fun s => s.spdmServe fun s => s.answer (.spdm 0x04 [0, 2, 0x00, 0x12, 0x00, 0x13])

/-- GET_CAPABILITIES (R432): CERT_CAP, CHAL_CAP and MEAS_CAP with signatures, as the bits 1, 2 and 4:3 of the DMTF flags. -/
def execGetCapabilities (s : State) : Host.Outcome State Fault Refusal :=
  runs s fun s => s.spdmServe fun s => s.answer (.spdm 0x61 (toBytes 4 0x16))

/-- NEGOTIATE_ALGORITHMS (R432): of what the requester names, TPM_ALG_RSASSA_3072 (bit 2) and TPM_ALG_SHA_256 (bit 0), and the DMTF
measurement specification. -/
def execNegotiateAlgorithms (asym hash : BitVec 32) (s : State) : Host.Outcome State Fault Refusal :=
  runs s fun s => s.spdmServe fun s =>
    s.answer (.spdm 0x63 (List.flatten [[1], toBytes 4 (asym &&& 4).toNat, toBytes 4 (hash &&& 1).toNat]))

/-- GET_DIGESTS (R432): slot 0. -/
def execGetDigests (s : State) : Host.Outcome State Fault Refusal :=
  runs s fun s => s.spdmServe fun s => s.answer (.spdm 0x01 (1 :: sha256 Config.certChain))

/-- GET_CERTIFICATE (R432): part of the chain of slot 0. -/
def execGetCertificate (slot : BitVec 8) (off len : BitVec 16) (s : State) : Host.Outcome State Fault Refusal :=
  runs s fun s => s.spdmServe fun s =>
    let chain := Config.certChain
    if slot ≠ 0 ∨ chain.length ≤ off.toNat then s.spdmError 1
    else
      let part := (chain.drop off.toNat).take len.toNat
      s.answer (.spdm 0x02 (List.flatten [[0], toBytes 2 part.length, toBytes 2 (chain.length - off.toNat - part.length), part]))

/-- The bytes of an SPDM response that the DMTF standard and not the spec lays out: a nonce and a transcript (log entry 53). -/
def State.spdmDraw (s : State) (code : Nat) : State × List Byte :=
  ({ s with fw := { s.fw with answers := s.fw.answers + 1 } }, Config.spdmBytes code s.fw.answers)

/-- CHALLENGE (R432): Busy before the key exists; else the certificate digest and a signature. -/
def execChallenge (slot : BitVec 8) (nonce : List Byte) (s : State) : Host.Outcome State Fault Refusal :=
  runs s fun s => s.spdmServe fun s =>
    if slot ≠ 0 ∨ nonce.length ≠ 32 then s.spdmError 1
    else if s.keyReady = false then s.spdmError 3
    else
      let (s, free) := s.spdmDraw 0x03
      let body := List.flatten [[0, 1], sha256 Config.certChain, free]
      s.answer (.spdm 0x03 (List.flatten [body, Config.sign (List.flatten [nonce, body])]))

/-- The bytes of a component of the running image. -/
def State.componentBytes (s : State) (kind : Nat) : List Byte :=
  match s.fw.running.component kind with
  | none => []
  | some c => (((List.range c.count).map fun i => s.fw.running.pieces.get (c.first + i) []).flatten).take c.length

/-- The digest of a component of the running image: as its manifest gives it, which a slot that runs matches (R417). -/
def State.componentDigest (s : State) (kind : Nat) : List Byte :=
  match s.fw.running.component kind with
  | none => (List.range 32).map fun i => BitVec.ofNat 8 (Config.shippedImage s.fw.runSlot (4096 * kind + i))
  | some c => if s.fw.running.sound then c.digest else sha256 (s.componentBytes kind)

/-- The value of a measurement and whether it is in raw form (R432). -/
def State.measurement (s : State) (raw : Bool) (i : Nat) : Bool × List Byte :=
  if i = 1 then (false, Config.bootRomDigest)
  else if 2 ≤ i ∧ i ≤ 5 then (false, s.componentDigest (i - 1))
  else if i = 6 then
    if raw then (true, List.flatten [toBytes 4 (imageField s.fw.runSlot s.fw.running 12 4), toBytes 4 (imageVer s.fw.runSlot s.fw.running)])
    else (false, if s.fw.running.manifest = [] then s.componentDigest 0 else sha256 s.fw.running.manifest)
  else if i = 7 then (false, sha256 s.bootNow.bytes)
  else if i = 8 then (false, if s.fw.baseMap = [] then List.replicate 32 0 else sha256 s.fw.baseMap)
  else (true, toBytes 8 (s.reg .hubFwucmix).toNat)

/-- A measurement block in DMTF form: index, specification 1, size, type, size, value. -/
def State.measurementBlock (s : State) (raw : Bool) (i : Nat) : List Byte :=
  let m := s.measurement raw i
  let n := m.2.length
  List.flatten [toBytes 1 i, [1], toBytes 2 (n + 3), toBytes 1 (i % 128 + (if m.1 then 128 else 0)), toBytes 2 n, m.2]

/-- GET_MEASUREMENTS (R432): index 0 gives the number of measurements, 0xFF all of them. A signed request before the key exists is
answered Busy. -/
def execGetMeasurements (index : BitVec 8) (signed raw : Bool) (nonce : List Byte) (s : State) : Host.Outcome State Fault Refusal :=
  runs s fun s => s.spdmServe fun s =>
    let i := index.toNat
    let l : List Nat := if i = 0 then [] else if i = 255 then [1, 2, 3, 4, 5, 6, 7, 8, 9] else [i]
    if (9 < i ∧ i ≠ 255) ∨ (signed = true ∧ nonce.length ≠ 32) then s.spdmError 1
    else if signed = true ∧ s.keyReady = false then s.spdmError 3
    else
      let (s, free) := s.spdmDraw 0x60
      let blocks := (l.map (s.measurementBlock raw)).flatten
      let body := List.flatten [toBytes 1 (if i = 0 then 9 else 0), toBytes 1 l.length, toBytes 3 blocks.length, blocks, free]
      s.answer (.spdm 0x60 (if signed then List.flatten [body, Config.sign (List.flatten [nonce, body])] else body))

end Sys2Proof.Machine
end

