-- ==== Sys2Proof/Machine/Telemetry.lean ====
section
/-!
DEFINITION. Writing queued trace records into their rings (R448, R449), and the telemetry page (R456).
-/

namespace Sys2Proof.Machine

/-! ## Trace rings -/

/-- The LOST record that goes before the next record of a source (R449). -/
def TraceRec.lost (r : TraceRec) (n : Nat) : TraceRec :=
  { r with kind := 13, ctx := 0, tag := 0, layer := 0, mbatch := 0, raise := 0, step := 0, data := min n (2 ^ 32 - 1) }

/-- Note that a record of a source was dropped (R449). -/
def State.noteLost (s : State) (source n : Nat) : State := { s with obs := { s.obs with lost := s.obs.lost.set source n } }

/-- Write one record (R448, R449): after a LOST record where records of its source have been dropped. -/
def State.putRecord (s : State) (r : TraceRec) : State :=
  let n := s.obs.lost.get r.source 0
  let first := if n = 0 then (s, true) else s.ringPut r.die (r.lost n).bytes
  if first.2 = false then first.1.noteLost r.source (n + 1)
  else
    let q := first.1.ringPut r.die r.bytes
    q.1.noteLost r.source (if q.2 then 0 else 1)

/-- TRACE_RECORD_WRITE (R448): the oldest queued record of a source, a core or 256 + d for the Hub of die d. One that is written while
tracing is off is discarded without counting (R450). -/
def execTraceRecordWrite (source : Nat) (s : State) : Host.Outcome State Fault Refusal :=
  runs s fun s => match s.obs.trace.findIdx? fun r => r.source == source with
    | none => s
    | some i => match s.obs.trace[i]? with
      | none => s
      | some r =>
        let s := { s with obs := { s.obs with trace := s.obs.trace.eraseIdx i } }
        if s.pannier r.die = false ∨ s.flag (.pmuTrCtl r.die) F.pmuTrCtl_EN = false ∨ s.fld (.pmuTrCtl r.die) F.pmuTrCtl_TRGIB = 0 then s
        else s.putRecord r

/-! ## The telemetry page -/

/-- A counter that the page takes differences of: 0-15 UQUAD of a cluster, 16-31 UCLK, 32-37 DRAM bytes of a background category, 38 all
DRAM bytes. -/
def State.telCounter (s : State) (i : Nat) : Nat :=
  let k : Fin 16 := Fin.ofNat _ i
  if i < 16 then s.fld (.cluUquad k) F.cluUquad_COUNT
  else if i < 32 then s.fld (.cluUclk k) F.cluUclk_CLOCKS
  else if i < 38 then s.fld (.pmuBgDram (Fin.ofNat _ (i - 32))) F.pmuBgDram_BYTES
  else s.fld .pmuBgtotDram F.pmuBgtotDram_BYTES

/-- How far a counter went in the period that ends. -/
def State.telDelta (s : State) (i : Nat) : Nat := (s.telCounter i + 2 ^ 64 - s.obs.base.get i 0) % 2 ^ 64

/-- A share in units of 1/65,535. -/
def share16 (n all : Nat) : Nat := if all = 0 then 0 else min 65535 (65535 * n / all)

/-- The causes of ALERT_N (R456). -/
def State.alertCauses (s : State) : Nat :=
  let any (f : Nat × Nat) : Bool := (List.finRange 16).any fun k => s.flag (.cluDrlstat k) f
  b2n (s.flag .clkPwrstat F.clkPwrstat_PEAKACT) + 2 * b2n (s.flag .clkPwrstat F.clkPwrstat_SUSTACT) + 4 * b2n (any F.cluDrlstat_FORCED) +
  8 * b2n (s.flag .clkPwrstat F.clkPwrstat_LOWV) + 16 * b2n (any F.cluDrlstat_THERM)

/-- The hottest cluster and the hottest stack (R456). -/
def State.hottest (s : State) : Nat × Nat :=
  let c := (List.finRange 16).foldl (fun m k =>
    if s.flag (.cluDrlstat k) F.cluDrlstat_TVALID then max m (s.fld (.cluDrlstat k) F.cluDrlstat_TEMP) else m) 0
  let sites : List (Fin 2 × Fin 12) := (List.finRange 2).flatMap fun d => (List.finRange 12).map fun n => (d, n)
  let t := sites.foldl (fun m q =>
    if s.flag (.stkStat q.1 q.2) F.stkStat_TVALID then max m (s.fld (.stkStat q.1 q.2) F.stkStat_TEMP) else m) 0
  (c, t)

/-- Clusters in a power state, as a bitmap. -/
def State.cluBitmap (s : State) (p : Nat) : Nat := (List.finRange 16).foldl (fun n k => if s.pstate k = p then n + 2 ^ k.val else n) 0

/-- The 256 bytes of a telemetry page (R456). -/
def State.telPage (s : State) (seq : Nat) : List Byte :=
  let h := s.hottest
  List.flatten
    [toBytes 8 s.time, toBytes 4 seq, toBytes 2 (s.fld .clkPwrstat F.clkPwrstat_P10), toBytes 2 (s.fld .clkPwrstat F.clkPwrstat_P1M),
     toBytes 2 (s.fld .clkPwrstat F.clkPwrstat_VIN), toBytes 1 h.1, toBytes 1 h.2, toBytes 2 (s.cluBitmap 0), toBytes 2 (s.cluBitmap 1),
     toBytes 1 s.alertCauses, toBytes 1 (s.fld .hubSvcstat F.hubSvcstat_STATE), List.replicate 6 0, toBytes 8 s.svcStep,
     toBytes 8 (s.fld .clkEnergy F.clkEnergy_MJ),
     (List.range 16).flatMap fun k => toBytes 2 (share16 (s.telDelta k) (16 * s.telDelta (16 + k))),
     toBytes 8 (s.obs.bytes.get 0 0), toBytes 8 (s.obs.bytes.get 1 0),
     (List.finRange 8).flatMap fun p => toBytes 4 (min (s.fld (.spkTxf p) F.spkTxf_COUNT) (2 ^ 32 - 1)),
     (List.range 6).flatMap fun c => toBytes 2 (share16 (s.telDelta (32 + c)) (s.telDelta 38)),
     List.replicate 108 0, toBytes 8 (seq % 2 ^ 32 + 2 ^ 63)]

/-- TELEMETRY_PAGE (R456): every PERIOD ms, but not during a takeover freeze. -/
def execTelemetryPage (s : State) : Host.Outcome State Fault Refusal :=
  runs s fun s =>
    if s.pow.off = true ∨ s.phase = 0 ∨ s.phase = 4 ∨ s.fw.takeover.isSome = true ∨
        s.time < s.obs.telAt + 100000 * s.fld .pmuTelctl F.pmuTelctl_PERIOD then s
    else
      let seq := s.obs.telSeq
      let bs := s.telPage seq
      let base : Map Nat Nat := (List.range 39).map fun i => (i, s.telCounter i)
      let s := { s with obs := { s.obs with telSeq := (seq + 1) % 2 ^ 32, telAt := s.time, base := base } }
      let s : State := forAll (List.finRange 32) s fun s (i : Fin 32) => s.setReg (.pmuTelpage i) (BitVec.ofNat 64 (ofBytes ((bs.drop (8 * i.val)).take 8)))
      let a : Nat := s.fld .pmuTelctl F.pmuTelctl_ADDR * 4096
      if s.flag .pmuTelctl F.pmuTelctl_EN = true ∧ a ≠ 0 then (s.toHost a (bs.take 248)).toHost (a + 248) (bs.drop 248) else s

end Sys2Proof.Machine
end

