-- ==== Sys2Proof/Machine/Dispatch.lean ====
section
/-!
DEFINITION. `exec`: one arm for each command, each one call of its meaning.
-/

namespace Sys2Proof.Machine

def exec (i : Instr) (s : State) : Host.Outcome State Fault Refusal :=
  match i with
  | .registerWrite q value => Sys2Proof.Machine.execRegisterWrite q value s
  | .rcCounterRead q => Sys2Proof.Machine.execRcCounterRead q s
  | .controlWindowNarrowAccess who off two write value => Sys2Proof.Machine.execControlWindowNarrowAccess who off two write value s
  | .unassignedOffsetWrite q value => Sys2Proof.Machine.execUnassignedOffsetWrite q value s
  | .hubLockWrite priv size value => Sys2Proof.Machine.execHubLockWrite priv size value s
  | .nop a => Sys2Proof.Machine.execNop a s
  | .addSub a op rd ra rb => Sys2Proof.Machine.execAddSub a op rd ra rb s
  | .andOrXor a op rd ra rb => Sys2Proof.Machine.execAndOrXor a op rd ra rb s
  | .shlShrSar a op rd ra rb => Sys2Proof.Machine.execShlShrSar a op rd ra rb s
  | .mul a rd ra rb => Sys2Proof.Machine.execMul a rd ra rb s
  | .mulhuMulhs a signed rd ra rb => Sys2Proof.Machine.execMulhuMulhs a signed rd ra rb s
  | .minMax a max rd ra rb => Sys2Proof.Machine.execMinMax a max rd ra rb s
  | .minuMaxu a max rd ra rb => Sys2Proof.Machine.execMinuMaxu a max rd ra rb s
  | .cmp a op pd ra rb => Sys2Proof.Machine.execCmp a op pd ra rb s
  | .pandPorPxor a op pd pa pb => Sys2Proof.Machine.execPandPorPxor a op pd pa pb s
  | .pandn a pd pa pb => Sys2Proof.Machine.execPandn a pd pa pb s
  | .amoAdd a rd ra rb => Sys2Proof.Machine.execAmoAdd a rd ra rb s
  | .addiMuli a mul rd ra imm => Sys2Proof.Machine.execAddiMuli a mul rd ra imm s
  | .andiOriXori a op rd ra imm => Sys2Proof.Machine.execAndiOriXori a op rd ra imm s
  | .shliShriSari a op rd ra imm => Sys2Proof.Machine.execShliShriSari a op rd ra imm s
  | .li a rd imm => Sys2Proof.Machine.execLi a rd imm s
  | .lui a rd imm => Sys2Proof.Machine.execLui a rd imm s
  | .cmpi a op pd ra imm => Sys2Proof.Machine.execCmpi a op pd ra imm s
  | .srd a rd imm => Sys2Proof.Machine.execSrd a rd imm s
  | .swr a imm ra => Sys2Proof.Machine.execSwr a imm ra s
  | .ld a w rd ra imm => Sys2Proof.Machine.execLd a w rd ra imm s
  | .ldSigned a w rd ra imm => Sys2Proof.Machine.execLdSigned a w rd ra imm s
  | .st a w rd ra imm => Sys2Proof.Machine.execSt a w rd ra imm s
  | .storeTargetFault x => Sys2Proof.Machine.execStoreTargetFault x s
  | .br a imm => Sys2Proof.Machine.execBr a imm s
  | .call a rd imm => Sys2Proof.Machine.execCall a rd imm s
  | .jr a ra imm => Sys2Proof.Machine.execJr a ra imm s
  | .loop a ra imm => Sys2Proof.Machine.execLoop a ra imm s
  | .halt a => Sys2Proof.Machine.execHalt a s
  | .trap a imm => Sys2Proof.Machine.execTrap a imm s
  | .fenceM a => Sys2Proof.Machine.execFenceM a s
  | .fenceT a => Sys2Proof.Machine.execFenceT a s
  | .ctxc a ra imm => Sys2Proof.Machine.execCtxc a ra imm s
  | .tld a td sa tag => Sys2Proof.Machine.execTld a td sa tag s
  | .tst a sa ts tag => Sys2Proof.Machine.execTst a sa ts tag s
  | .tget a sa ts w tag => Sys2Proof.Machine.execTget a sa ts w tag s
  | .tput a td w sa tag => Sys2Proof.Machine.execTput a td w sa tag s
  | .tadv a td sa dir tag => Sys2Proof.Machine.execTadv a td sa dir tag s
  | .tcopy a td ts cl tag => Sys2Proof.Machine.execTcopy a td ts cl tag s
  | .tcopyComplete x nth => Sys2Proof.Machine.execTcopyComplete x nth s
  | .pumpStream a td ts sa sb dir depth cl tag => Sys2Proof.Machine.execPumpStream a td ts sa sb dir depth cl tag s
  | .pumpTransferStart x nth => Sys2Proof.Machine.execPumpTransferStart x nth s
  | .pumpTransferComplete x nth => Sys2Proof.Machine.execPumpTransferComplete x nth s
  | .pumpStop a cl tag => Sys2Proof.Machine.execPumpStop a cl tag s
  | .pumpCache a ts cl tag => Sys2Proof.Machine.execPumpCache a ts cl tag s
  | .pumpCacheComplete x nth => Sys2Proof.Machine.execPumpCacheComplete x nth s
  | .sprkGather a td ts sa cl zpad tag => Sys2Proof.Machine.execSprkGather a td ts sa cl zpad tag s
  | .sprkGatherComplete x nth => Sys2Proof.Machine.execSprkGatherComplete x nth s
  | .backgroundTransferFault x => Sys2Proof.Machine.execBackgroundTransferFault x s
  | .mma a pair ad ta tb tc f tag => Sys2Proof.Machine.execMma a pair ad ta tb tc f tag s
  | .accLd a ad ta tc f tag => Sys2Proof.Machine.execAccLd a ad ta tc f tag s
  | .accSt a ta ad free tag => Sys2Proof.Machine.execAccSt a ta ad free tag s
  | .accCvt a ta ad free fn tag => Sys2Proof.Machine.execAccCvt a ta ad free fn tag s
  | .opBegin a clb cln sa tag => Sys2Proof.Machine.execOpBegin a clb cln sa tag s
  | .opEnd a cl sig tag => Sys2Proof.Machine.execOpEnd a cl sig tag s
  | .participantSeal x => Sys2Proof.Machine.execParticipantSeal x s
  | .attemptCommit x => Sys2Proof.Machine.execAttemptCommit x s
  | .vOp a tc ta tb opc bmode tag => Sys2Proof.Machine.execVOp a tc ta tb opc bmode tag s
  | .vFn a tc ta fn tag => Sys2Proof.Machine.execVFn a tc ta fn tag s
  | .vDfn a tc ta tb fn bmode tag => Sys2Proof.Machine.execVDfn a tc ta tb fn bmode tag s
  | .vRed a ad ta tc f tag => Sys2Proof.Machine.execVRed a ad ta tc f tag s
  | .bpGw a ta tb ad free tag => Sys2Proof.Machine.execBpGw a ta tb ad free tag s
  | .crankUpd a ta tb tc tg sp rule tag => Sys2Proof.Machine.execCrankUpd a ta tb tc tg sp rule tag s
  | .mmaRs a pair ad ta tb tc f tag w1 => Sys2Proof.Machine.execMmaRs a pair ad ta tb tc f tag w1 s
  | .agMma a pair ad ta tb tc f tag w1 => Sys2Proof.Machine.execAgMma a pair ad ta tb tc f tag w1 s
  | .xdDisp a ta tb f tag w1 => Sys2Proof.Machine.execXdDisp a ta tb f tag w1 s
  | .xdComb a ta tb tc f tag w1 => Sys2Proof.Machine.execXdComb a ta tb tc f tag w1 s
  | .clAdd a cl imm => Sys2Proof.Machine.execClAdd a cl imm s
  | .clAddr a cl sa => Sys2Proof.Machine.execClAddr a cl sa s
  | .clWait a cl sa imm => Sys2Proof.Machine.execClWait a cl sa imm s
  | .cleatWaitSatisfied x => Sys2Proof.Machine.execCleatWaitSatisfied x s
  | .clTest a pd cl sa imm => Sys2Proof.Machine.execClTest a pd cl sa imm s
  | .clRd a sd cl => Sys2Proof.Machine.execClRd a sd cl s
  | .clSig a sa sb => Sys2Proof.Machine.execClSig a sa sb s
  | .clSigi a sa imm => Sys2Proof.Machine.execClSigi a sa imm s
  | .signalRelease x => Sys2Proof.Machine.execSignalRelease x s
  | .ctxLoad priv x => Sys2Proof.Machine.execCtxLoad priv x s
  | .ctxStart priv x => Sys2Proof.Machine.execCtxStart priv x s
  | .ctxHalt priv x => Sys2Proof.Machine.execCtxHalt priv x s
  | .ctxResume priv x => Sys2Proof.Machine.execCtxResume priv x s
  | .ctxSkip priv x => Sys2Proof.Machine.execCtxSkip priv x s
  | .ctxReset priv x => Sys2Proof.Machine.execCtxReset priv x s
  | .sqaccOwnerChange c slot => Sys2Proof.Machine.execSqaccOwnerChange c slot s
  | .clrnWrite priv x size value => Sys2Proof.Machine.execClrnWrite priv x size value s
  | .tileEnd x bad => Sys2Proof.Machine.execTileEnd x bad s
  | .spotCheckRun nth differs => Sys2Proof.Machine.execSpotCheckRun nth differs s
  | .handover c reason => Sys2Proof.Machine.execHandover c reason s
  | .handoverTileAssign nth => Sys2Proof.Machine.execHandoverTileAssign nth s
  | .latenessHandover c => Sys2Proof.Machine.execLatenessHandover c s
  | .modeChange priv tandem => Sys2Proof.Machine.execModeChange priv tandem s
  | .bridgeFlitReceive die vc seq errors => Sys2Proof.Machine.execBridgeFlitReceive die vc seq errors s
  | .genStage priv gen step => Sys2Proof.Machine.execGenStage priv gen step s
  | .genCancel priv => Sys2Proof.Machine.execGenCancel priv s
  | .genListCopied => Sys2Proof.Machine.execGenListCopied s
  | .genDrained => Sys2Proof.Machine.execGenDrained s
  | .genDrainOver => Sys2Proof.Machine.execGenDrainOver s
  | .stackTempMeasure d m temp => Sys2Proof.Machine.execStackTempMeasure d m temp s
  | .dramRefresh d m => Sys2Proof.Machine.execDramRefresh d m s
  | .scrubStep d upset => Sys2Proof.Machine.execScrubStep d upset s
  | .scrubClusterStep k upset => Sys2Proof.Machine.execScrubClusterStep k upset s
  | .rowRepair d m => Sys2Proof.Machine.execRowRepair d m s
  | .repairCommand priv d m value => Sys2Proof.Machine.execRepairCommand priv d m value s
  | .codewordReceive p slots crc fec first => Sys2Proof.Machine.execCodewordReceive p slots crc fec first s
  | .linkEqualisationComplete p lanes => Sys2Proof.Machine.execLinkEqualisationComplete p lanes s
  | .retrain priv p => Sys2Proof.Machine.execRetrain priv p s
  | .retrainTimeout p => Sys2Proof.Machine.execRetrainTimeout p s
  | .linkControlSend p => Sys2Proof.Machine.execLinkControlSend p s
  | .ctrlCreditAck p seq cred => Sys2Proof.Machine.execCtrlCreditAck p seq cred s
  | .ctrlNak p seq => Sys2Proof.Machine.execCtrlNak p seq s
  | .nakRepeat p => Sys2Proof.Machine.execNakRepeat p s
  | .ctrlTimestamp p time rtt => Sys2Proof.Machine.execCtrlTimestamp p time rtt s
  | .timebaseExchange => Sys2Proof.Machine.execTimebaseExchange s
  | .ctrlRetrainRequest p => Sys2Proof.Machine.execCtrlRetrainRequest p s
  | .ctrlGoingDown p => Sys2Proof.Machine.execCtrlGoingDown p s
  | .linkDown p cause => Sys2Proof.Machine.execLinkDown p cause s
  | .probeTimeout p => Sys2Proof.Machine.execProbeTimeout p s
  | .spillReinject => Sys2Proof.Machine.execSpillReinject s
  | .packetForward frm nth => Sys2Proof.Machine.execPacketForward frm nth s
  | .escapeToVc7 p nth => Sys2Proof.Machine.execEscapeToVc7 p nth s
  | .pktWr => Sys2Proof.Machine.execPktWr s
  | .pktAmo => Sys2Proof.Machine.execPktAmo s
  | .pktRdreq => Sys2Proof.Machine.execPktRdreq s
  | .pktRdrsp => Sys2Proof.Machine.execPktRdrsp s
  | .pktWrack => Sys2Proof.Machine.execPktWrack s
  | .pktAmorsp => Sys2Proof.Machine.execPktAmorsp s
  | .pktErrrsp => Sys2Proof.Machine.execPktErrrsp s
  | .pktSig => Sys2Proof.Machine.execPktSig s
  | .noticeJoin => Sys2Proof.Machine.execNoticeJoin s
  | .noticeGo => Sys2Proof.Machine.execNoticeGo s
  | .noticeSeal => Sys2Proof.Machine.execNoticeSeal s
  | .noticeReplay => Sys2Proof.Machine.execNoticeReplay s
  | .noticeAbort => Sys2Proof.Machine.execNoticeAbort s
  | .noticeDone => Sys2Proof.Machine.execNoticeDone s
  | .noticeRepeat nth => Sys2Proof.Machine.execNoticeRepeat nth s
  | .pktSum res err => Sys2Proof.Machine.execPktSum res err s
  | .slotTimeout nth => Sys2Proof.Machine.execSlotTimeout nth s
  | .pktGath => Sys2Proof.Machine.execPktGath s
  | .pktXrow => Sys2Proof.Machine.execPktXrow s
  | .pktMgmt => Sys2Proof.Machine.execPktMgmt s
  | .pktMgrsp => Sys2Proof.Machine.execPktMgrsp s
  | .pktProbe => Sys2Proof.Machine.execPktProbe s
  | .pktPrbrsp => Sys2Proof.Machine.execPktPrbrsp s
  | .requestTimeout tag => Sys2Proof.Machine.execRequestTimeout tag s
  | .spokeReset priv p => Sys2Proof.Machine.execSpokeReset priv p s
  | .pelotonOpen priv handle addr => Sys2Proof.Machine.execPelotonOpen priv handle addr s
  | .pelotonClose priv handle => Sys2Proof.Machine.execPelotonClose priv handle s
  | .pelotonReplace priv handle addr => Sys2Proof.Machine.execPelotonReplace priv handle addr s
  | .joinTimeout ph seq => Sys2Proof.Machine.execJoinTimeout ph seq s
  | .completionTimeout ph seq => Sys2Proof.Machine.execCompletionTimeout ph seq s
  | .jobRewind s0 cause => Sys2Proof.Machine.execJobRewind s0 cause s
  | .jobReform s0 taken lost => Sys2Proof.Machine.execJobReform s0 taken lost s
  | .snapshotComplete => Sys2Proof.Machine.execSnapshotComplete s
  | .selfTestStart unit cause cap => Sys2Proof.Machine.execSelfTestStart unit cause cap s
  | .selfTestWithdrawn unit => Sys2Proof.Machine.execSelfTestWithdrawn unit s
  | .selfTestPassComplete unit clean => Sys2Proof.Machine.execSelfTestPassComplete unit clean s
  | .learnedReplayComplete unit clean => Sys2Proof.Machine.execLearnedReplayComplete unit clean s
  | .voteComplete unit sa sb ab orig result => Sys2Proof.Machine.execVoteComplete unit sa sb ab orig result s
  | .selfTestLate unit => Sys2Proof.Machine.execSelfTestLate unit s
  | .inFieldTestDue c => Sys2Proof.Machine.execInFieldTestDue c s
  | .inFieldTestOverdue c => Sys2Proof.Machine.execInFieldTestOverdue c s
  | .unitMapLoadBase priv => Sys2Proof.Machine.execUnitMapLoadBase priv s
  | .unitMapLoadSupplement priv => Sys2Proof.Machine.execUnitMapLoadSupplement priv s
  | .cadenceLoss => Sys2Proof.Machine.execCadenceLoss s
  | .cadenceRestore => Sys2Proof.Machine.execCadenceRestore s
  | .pllLockTimeout k => Sys2Proof.Machine.execPllLockTimeout k s
  | .freewheelEnter k => Sys2Proof.Machine.execFreewheelEnter k s
  | .freewheelWake k => Sys2Proof.Machine.execFreewheelWake k s
  | .wakeDeadline k => Sys2Proof.Machine.execWakeDeadline k s
  | .clusterWakeComplete k => Sys2Proof.Machine.execClusterWakeComplete k s
  | .drlctlTargetWrite priv k size value => Sys2Proof.Machine.execDrlctlTargetWrite priv k size value s
  | .p2Enter k => Sys2Proof.Machine.execP2Enter k s
  | .p2ShadowAccess q write value => Sys2Proof.Machine.execP2ShadowAccess q write value s
  | .p2Wake k => Sys2Proof.Machine.execP2Wake k s
  | .p3Enter priv => Sys2Proof.Machine.execP3Enter priv s
  | .p3Leave priv => Sys2Proof.Machine.execP3Leave priv s
  | .selfRefreshReturn d => Sys2Proof.Machine.execSelfRefreshReturn d s
  | .powerMeasure watts => Sys2Proof.Machine.execPowerMeasure watts s
  | .inputVoltageChange vin => Sys2Proof.Machine.execInputVoltageChange vin s
  | .voltageShutdown => Sys2Proof.Machine.execVoltageShutdown s
  | .clusterTempMeasure k temp => Sys2Proof.Machine.execClusterTempMeasure k temp s
  | .thermalComparatorTrip d => Sys2Proof.Machine.execThermalComparatorTrip d s
  | .coolantSensorRead inlet outlet => Sys2Proof.Machine.execCoolantSensorRead inlet outlet s
  | .powerUp pos => Sys2Proof.Machine.execPowerUp pos s
  | .inputLoss => Sys2Proof.Machine.execInputLoss s
  | .perstAssert long => Sys2Proof.Machine.execPerstAssert long s
  | .perstDeassert => Sys2Proof.Machine.execPerstDeassert s
  | .begin priv => Sys2Proof.Machine.execBegin priv s
  | .dramTrainingComplete d failed => Sys2Proof.Machine.execDramTrainingComplete d failed s
  | .memoryTestComplete d rows => Sys2Proof.Machine.execMemoryTestComplete d rows s
  | .clusterSelfTestComplete k whole failed => Sys2Proof.Machine.execClusterSelfTestComplete k whole failed s
  | .identityKeyDerived helper same => Sys2Proof.Machine.execIdentityKeyDerived helper same s
  | .fullService => Sys2Proof.Machine.execFullService s
  | .debugCopy => Sys2Proof.Machine.execDebugCopy s
  | .moduleReset priv key => Sys2Proof.Machine.execModuleReset priv key s
  | .dieReset priv d key => Sys2Proof.Machine.execDieReset priv d key s
  | .clusterRestart priv k => Sys2Proof.Machine.execClusterRestart priv k s
  | .hotReset down => Sys2Proof.Machine.execHotReset down s
  | .functionLevelReset => Sys2Proof.Machine.execFunctionLevelReset s
  | .d3hotEnter => Sys2Proof.Machine.execD3hotEnter s
  | .bar0Access off len write data => Sys2Proof.Machine.execBar0Access off len write data s
  | .bar2Access off len write data => Sys2Proof.Machine.execBar2Access off len write data s
  | .issueWindowWrite w off data => Sys2Proof.Machine.execIssueWindowWrite w off data s
  | .issueCommit w value => Sys2Proof.Machine.execIssueCommit w value s
  | .entryNop w => Sys2Proof.Machine.execEntryNop w s
  | .copyin w => Sys2Proof.Machine.execCopyin w s
  | .copyout w => Sys2Proof.Machine.execCopyout w s
  | .copyComplete w nth host data => Sys2Proof.Machine.execCopyComplete w nth host data s
  | .regw w => Sys2Proof.Machine.execRegw w s
  | .cladd w => Sys2Proof.Machine.execCladd w s
  | .ctxcmd w => Sys2Proof.Machine.execCtxcmd w s
  | .plan w => Sys2Proof.Machine.execPlan w s
  | .entryStart w => Sys2Proof.Machine.execEntryStart w s
  | .entryHold w => Sys2Proof.Machine.execEntryHold w s
  | .entryResume w => Sys2Proof.Machine.execEntryResume w s
  | .entryRewind w newest => Sys2Proof.Machine.execEntryRewind w newest s
  | .entryEnd w => Sys2Proof.Machine.execEntryEnd w s
  | .input w => Sys2Proof.Machine.execInput w s
  | .roundComplete w => Sys2Proof.Machine.execRoundComplete w s
  | .stepStart others amax digestError => Sys2Proof.Machine.execStepStart others amax digestError s
  | .stepEnd => Sys2Proof.Machine.execStepEnd s
  | .inputLate => Sys2Proof.Machine.execInputLate s
  | .interruptEdge d src => Sys2Proof.Machine.execInterruptEdge d src s
  | .icuPendClear priv d i0 value => Sys2Proof.Machine.execIcuPendClear priv d i0 value s
  | .icuRouteWrite priv d src value => Sys2Proof.Machine.execIcuRouteWrite priv d src value s
  | .icuRaise priv d src => Sys2Proof.Machine.execIcuRaise priv d src s
  | .hubTimerExpire d n t => Sys2Proof.Machine.execHubTimerExpire d n t s
  | .msixUnmask vector => Sys2Proof.Machine.execMsixUnmask vector s
  | .i3cDynamicAddress addr => Sys2Proof.Machine.execI3cDynamicAddress addr s
  | .mctpControl cmd data => Sys2Proof.Machine.execMctpControl cmd data s
  | .sbRegisterRead off => Sys2Proof.Machine.execSbRegisterRead off s
  | .sbRegisterWrite off value => Sys2Proof.Machine.execSbRegisterWrite off value s
  | .sbStatus => Sys2Proof.Machine.execSbStatus s
  | .sbOdometerRead cursor => Sys2Proof.Machine.execSbOdometerRead cursor s
  | .sbImagePiece data => Sys2Proof.Machine.execSbImagePiece data s
  | .getVersion => Sys2Proof.Machine.execGetVersion s
  | .getCapabilities => Sys2Proof.Machine.execGetCapabilities s
  | .negotiateAlgorithms asym hash => Sys2Proof.Machine.execNegotiateAlgorithms asym hash s
  | .getDigests => Sys2Proof.Machine.execGetDigests s
  | .getCertificate slot off len => Sys2Proof.Machine.execGetCertificate slot off len s
  | .challenge slot nonce => Sys2Proof.Machine.execChallenge slot nonce s
  | .getMeasurements index signed raw nonce => Sys2Proof.Machine.execGetMeasurements index signed raw nonce s
  | .fwBegin priv addr => Sys2Proof.Machine.execFwBegin priv addr s
  | .fwPiece priv index addr => Sys2Proof.Machine.execFwPiece priv index addr s
  | .pieceWriteComplete ok => Sys2Proof.Machine.execPieceWriteComplete ok s
  | .fwCommit priv bad => Sys2Proof.Machine.execFwCommit priv bad s
  | .fwActivate priv => Sys2Proof.Machine.execFwActivate priv s
  | .fwActivateLive priv => Sys2Proof.Machine.execFwActivateLive priv s
  | .takeoverStandbyStarted adopts => Sys2Proof.Machine.execTakeoverStandbyStarted adopts s
  | .takeoverAbandon => Sys2Proof.Machine.execTakeoverAbandon s
  | .fwConfirm priv => Sys2Proof.Machine.execFwConfirm priv s
  | .fwAbandon priv => Sys2Proof.Machine.execFwAbandon priv s
  | .autoConfirm => Sys2Proof.Machine.execAutoConfirm s
  | .hubWatchdogExpire d n => Sys2Proof.Machine.execHubWatchdogExpire d n s
  | .odometerRecordWrite fails => Sys2Proof.Machine.execOdometerRecordWrite fails s
  | .evrCursorWrite priv size value => Sys2Proof.Machine.execEvrCursorWrite priv size value s
  | .evrWindowAdvance priv size => Sys2Proof.Machine.execEvrWindowAdvance priv size s
  | .odometerClear priv upto sevmax => Sys2Proof.Machine.execOdometerClear priv upto sevmax s
  | .odometerClearDone => Sys2Proof.Machine.execOdometerClearDone s
  | .lifeCounterWrite fails => Sys2Proof.Machine.execLifeCounterWrite fails s
  | .pmuLatch priv => Sys2Proof.Machine.execPmuLatch priv s
  | .pmuMark priv value => Sys2Proof.Machine.execPmuMark priv value s
  | .traceRecordWrite source => Sys2Proof.Machine.execTraceRecordWrite source s
  | .telemetryPage => Sys2Proof.Machine.execTelemetryPage s
  | .spokeLinkEnable priv p en => Sys2Proof.Machine.execSpokeLinkEnable priv p en s
  | .pcieLinkTrained speed width rev => Sys2Proof.Machine.execPcieLinkTrained speed width rev s
  | .d3hotLeave => Sys2Proof.Machine.execD3hotLeave s
  | .scratchWaysChange priv k value => Sys2Proof.Machine.execScratchWaysChange priv k value s
  | .pairCheckingEnable priv c en => Sys2Proof.Machine.execPairCheckingEnable priv c en s

end Sys2Proof.Machine
end

