-- ==== Sys2Proof/Machine/Tick.lean ====
section
/-!
DEFINITION. One tick of the 100 MHz timebase, which passes where no command waits (log entry 2): the counters that count time move on.
Everything else that happens at a time is a command of the table, which looks at the time.
-/

namespace Sys2Proof.Machine

/-- The timebase moves on (R128), corrected by at most 1 ns in a microsecond (R291): 10 ns each 1,000 ticks. -/
def State.tickTime (s : State) : State :=
  let a := s.fab.timeAdjust
  if -10 < a ∧ a < 10 then { s with time := s.time + 1, fab := { s.fab with adjPhase := 0 } }
  else if s.fab.adjPhase + 1 < 1000 then { s with time := s.time + 1, fab := { s.fab with adjPhase := s.fab.adjPhase + 1 } }
  else if 0 < a then { s with time := s.time + 2, fab := { s.fab with adjPhase := 0, timeAdjust := a - 10 } }
  else { s with fab := { s.fab with adjPhase := 0, timeAdjust := a + 10 } }

/-- Fast-clock cycles of a cluster in the tick after time t (R128, R443): 17.5 at full rate, half of that at half rate. -/
def clocksIn (half : Bool) (t : Nat) : Nat := if half then 35 * (t + 1) / 4 - 35 * t / 4 else 35 * (t + 1) / 2 - 35 * t / 2

/-- A cluster's clocks and idle ticks (R442, R443). -/
def State.tickCluster (s : State) (t : Nat) (k : Fin 16) : State :=
  let p := s.pstate k
  if p = 0 then
    let n := clocksIn (s.fld (.cluDrlstat k) F.cluDrlstat_RATE == 1) t
    let s := (s.wrap (.cluUclk k) F.cluUclk_CLOCKS n).pmu 0x01 k none n
    { s with core := { s.core with clock := s.core.clock.set k ((s.core.clock.get k 0 + n) % 2 ^ 64) } }
  else if p = 1 ∨ p = 2 then s.wrap (.cluUidle k) F.cluUidle_TICKS 1
  else s

/-- Whether a cluster meets the conditions of R361 is followed from tick to tick. -/
def State.tickIdle (s : State) (k : Fin 16) : State :=
  let ok := s.pstate k == 0 && s.fld (.cluDrlctl k) F.cluDrlctl_TARGET == 0 && s.canSleep k
  s.setPow fun q => { q with idleSince :=
    if ok then (if q.idleSince.has k then q.idleSince else q.idleSince.set k s.time) else q.idleSince.del k }

/-- The contexts that wait on a cleat. -/
def State.cleatWaits (s : State) : List (CtxId × Cleat × OpTag) :=
  s.core.ctxs.filterMap fun q => match q.2.wait with
    | some (.cleat cl _ _ _ tag) => if s.ctxState q.1 = 2 then some (q.1, cl, tag) else none
    | _ => none

/-- Whether every context of a core that is not idle waits on one of `n` cleats from `b` on, and one does (R322). -/
def State.allWaitOn (s : State) (l : List (CtxId × Cleat × OpTag)) (c : Fin 256) (b n : Nat) : Bool :=
  (ctxsOf c).all fun x => s.ctxState x == 0 || l.any fun q => q.1 == x && decide (b ≤ q.2.1.val ∧ q.2.1.val < b + n)

/-- A core's ticks of waiting (R322), and the step's (R403). -/
def State.tickWait (s : State) (l : List (CtxId × Cleat × OpTag)) (c : Fin 256) : State :=
  let r : Reg := .corePlncl c
  let starved := s.allWaitOn l c (s.fld r F.corePlncl_INB) (s.fld r F.corePlncl_INN)
  let blocked := s.allWaitOn l c (s.fld r F.corePlncl_CRB) (s.fld r F.corePlncl_CRN)
  let s := if starved then (s.count (.coreWaitin c) F.coreWaitin_COUNT 1).tally fun q => { q with waitIn := q.waitIn.set c (q.waitIn.get c 0 + 1) } else s
  if blocked then (s.count (.coreWaitcr c) F.coreWaitcr_COUNT 1).tally fun q => { q with waitCr := q.waitCr.set c (q.waitCr.get c 0 + 1) } else s

/-- One tick of the module: nothing moves without power. -/
def tick (s : State) : State :=
  if s.pow.off then s
  else
    let t := s.time
    let s := s.tickTime
    let s := forAll (List.finRange 16) s fun s k => (s.tickCluster t k).tickIdle k
    let l := s.cleatWaits
    let s := forAll l s fun s q => s.pmu 0x09 (clusterOf q.1.core) (some (s.ins q.1 0 1 q.2.2)) 1
    let s := forAll (l.map fun q => q.1.core).eraseDups s fun s c => s.tickWait l c
    let s := if s.flag .clkPwrstat F.clkPwrstat_HIGHV = true ∧ s.pow.highAt + 100000 ≤ s.time then s.setFld .clkPwrstat F.clkPwrstat_HIGHV 0 else s
    forAll (s.host.wins.map fun q => q.1) s fun s w => s.setFld (.pciIwstat w) F.pciIwstat_BUSY 0

end Sys2Proof.Machine
end

