-- ==== Sys2Proof/WellFormed.lean ====
section
/-!
DEFINITION. Well-formed commands: the limits that the spec sets on operands and that their types do not express. A command that is not
well formed names nothing that can reach the module; `exec` still answers a next state for it.
-/

namespace Sys2Proof

/-- An access to the control window is aligned to its width (R3, R4). -/
def CtlAcc.wf (q : CtlAcc) : Bool :=
  match q.size with
  | .w4 => q.off.toNat % 4 == 0
  | .w8 => q.off.toNat % 8 == 0

/-- The data of an access of `len` bytes: `len` bytes for a write, none for a read. -/
def dataFits (write : Bool) (len : Nat) (data : List Byte) : Bool := if write then data.length == len else data.isEmpty

/-- Whether a command is well formed. -/
def Instr.wf : Instr → Bool
  | .registerWrite q _ => q.wf
  | .rcCounterRead q => q.wf
  | .codewordReceive _ slots _ _ _ => slots.length == 20
  | .ctrlCreditAck _ _ cred => cred.length == 18
  | .bar0Access off len write data => decide (0 < len ∧ off.toNat + len ≤ 2 ^ 26) && dataFits write len data
  | .bar2Access off len write data => decide (0 < len ∧ off.toNat + len ≤ 2 ^ 36) && dataFits write len data
  | .issueWindowWrite _ off data => decide (0 < data.length ∧ off.toNat + data.length ≤ 4096)
  | .stepStart others amax _ =>
    (others.all fun q => decide (q.tid < 2 ^ 24 + 16 ∧ q.sat ≤ q.conv ∧ q.van ≤ q.conv)) && amax.all fun q => decide (q.1 < 2 ^ 24)
  | .mctpControl _ data => decide (data.length ≤ 64)
  | .sbImagePiece data => decide (8 ≤ data.length ∧ data.length ≤ 4104)
  | .challenge _ nonce => nonce.length == 32
  | .getMeasurements _ signed _ nonce => if signed then nonce.length == 32 else nonce.isEmpty
  | .traceRecordWrite source => decide (source < 258)
  | _ => true

end Sys2Proof
end

