-- ==== Sys2Proof/Safety.lean ====
section
/-!
DEFINITION. What counts as a safe run: every step answers a next state, and every state of it keeps the invariant; and the vocabulary in
which statements say when a command has its own effect and what it leaves alone.
-/

namespace Sys2Proof.Machine

/-- The state that a step answers, if it answers one. -/
def after (o : Host.Outcome State Fault Refusal) : Option State :=
  match o with
  | .next t => some t
  | .fault _ => none
  | .refused _ => none

/-- The invariant of the module between commands: memory is in its canonical form, and no store of a command is left over. -/
structure State.Inv (s : State) : Prop where
  memory : s.mem.wf = true
  stores : s.stores = []

/-- A run of `n` steps that stays safe: every step answers a next state, and the invariant holds throughout. -/
def State.safeFor : Nat → State → Prop
  | 0, s => s.Inv
  | n + 1, s => s.Inv ∧ ∃ t, step s = .next t ∧ t.safeFor n

/-! ## When an instruction has its own effect -/

/-- The context that an instruction's `At` names. -/
def issuer (a : At) : CtxId := ⟨a.core, a.n⟩

/-- The 64-bit words of an instruction, by its opcode (R134). -/
def opWords (op : Nat) : Nat := if 0xC0 ≤ op ∧ op ≤ 0xDF then 2 else 1

/-- An instruction issues with its own effect (R3, R102, R134, R136, R154, R375): its context can issue, the fetch of its words meets no
fault and no error to correct, no reserved bit of its words is set, its guard is 1, and outside full service it is not one of the opcodes that Kickstand service refuses. -/
structure State.Issues (s : State) (a : At) (op : Nat) : Prop where
  idle : s.stores = []
  can : s.canIssue (issuer a) = true
  fetch : s.fetch (issuer a) (s.pc (issuer a)) (opWords op) = (s, none)
  legal : a.rsv = false
  guard : (s.pred (issuer a) a.gp ^^ a.gn) = true
  service : kickOp op = true → s.phase = 3

/-! ## What an instruction leaves alone -/

/-- The context runs on at an address. -/
structure State.RunsAt (s t : State) (x : CtxId) (address : Nat) : Prop where
  pc : t.pc x = address % 2 ^ 48
  state : t.ctxState x = if s.isMoved x = true then 5 else 1
  wait : (t.ctx x).wait = none

/-- The context runs on where it stood, and no register, predicate, descriptor or byte of memory has changed. -/
structure State.RunsAtSame (s t : State) (x : CtxId) : Prop where
  state : t.ctxState x = if s.isMoved x = true then 5 else 1
  pc : t.pc x = s.pc x
  sregs : ∀ r, t.sreg x r = s.sreg x r
  preds : ∀ p, t.pred x p = s.pred x p
  tiles : ∀ d, t.tile x d = s.tile x d
  memory : ∀ a, t.byte a = s.byte a

/-- Nothing but one context, its PC and its state number has changed: every other register, context, byte of memory and unit is as before. -/
structure State.OnlyCtx (s t : State) (x : CtxId) : Prop where
  regs : ∀ r, r ≠ .ctxPc x.core x.n → r ≠ .coreSqstat x.core → t.reg r = s.reg r
  states : ∀ y : CtxId, y ≠ x → t.ctxState y = s.ctxState y
  ctxs : ∀ y, y ≠ x → t.ctx y = s.ctx y
  memory : ∀ a, t.byte a = s.byte a
  rest : t = { s with regs := t.regs, core := { s.core with ctxs := t.core.ctxs } }

/-- One scalar register of a context has taken a value (s0 takes none, R127), and nothing else has changed but that the context runs on at
an address. -/
structure State.WroteReg (s t : State) (x : CtxId) (address : Nat) (rd : R5) (v : Word) : Prop where
  only : s.OnlyCtx t x
  ran : s.RunsAt t x address
  value : rd ≠ 0 → t.sreg x rd = v
  zero : t.sreg x 0 = 0
  others : ∀ q, q ≠ rd → t.sreg x q = s.sreg x q
  preds : ∀ p, t.pred x p = s.pred x p
  kept : t.ctx x = { s.ctx x with sreg := (t.ctx x).sreg, wait := none }

/-- One predicate of a context has taken a value (p0 takes none, R127), and nothing else has changed but that the context runs on at the
next instruction. -/
structure State.WrotePred (s t : State) (x : CtxId) (pd : Fin 8) (v : Bool) : Prop where
  only : s.OnlyCtx t x
  ran : s.RunsAt t x (s.pc x + 8)
  value : pd ≠ 0 → t.pred x pd = v
  one : t.pred x 0 = true
  others : ∀ q, q ≠ pd → t.pred x q = s.pred x q
  sregs : ∀ r, t.sreg x r = s.sreg x r
  kept : t.ctx x = { s.ctx x with pred := (t.ctx x).pred, wait := none }

/-- A register of which a write changes its fields as their access codes say, and does nothing else. -/
def Reg.plain : Reg → Bool
  | .ctxCmd _ _ | .coreSqacc _ | .cluCccfg _ | .corePairctl _ | .clt _ _ | .cluDrlctl _ | .hubModctl | .hubGencmd | .hubPltcmd | .hubDbgsel
  | .hubFwcmd | .stkRprcmd _ _ | .memScrctl _ | .spkLctl _ | .intUmcmd | .clkPscmd | .clkBrcmd | .clkRstcmd | .icuRoute _ _ | .icuRaise _
  | .evrCur | .evrClr | .pmuCtl | .pmuMark | .pmuTrRp _ | .pmuWpDsti _ => false
  | _ => true

/-- The counters of memory traffic (R257, R444, R455). -/
def trafficReg : Reg → Bool
  | .cluSprstat _ => true
  | .pmuCtr _ => true
  | .pmuBgtotDram => true
  | _ => false

/-- One context has read memory: nothing but that context, its PC, its state number and the counters of memory traffic has changed. -/
structure State.ReadMem (s t : State) (x : CtxId) : Prop where
  regs : ∀ r, r ≠ .ctxPc x.core x.n → r ≠ .coreSqstat x.core → trafficReg r = false → t.reg r = s.reg r
  states : ∀ y : CtxId, y ≠ x → t.ctxState y = s.ctxState y
  ctxs : ∀ y, y ≠ x → t.ctx y = s.ctx y
  memory : ∀ a, t.byte a = s.byte a
  rest : t = { s with regs := t.regs, core := { s.core with ctxs := t.core.ctxs }, obs := t.obs }

/-- Addresses that a store of `n` bytes at `a` may change: its bytes, their mirror on Yalar-1 in Tandem mode (R120), and the byte of VALID
in the check entries of the blocks it touches (R332), mirrored likewise. -/
def State.touches (s : State) (a n b : Nat) : Prop :=
  (a ≤ b ∧ b < a + n) ∨ (s.tandem = true ∧ a < 2 ^ 40 ∧ a + 2 ^ 40 ≤ b ∧ b < a + 2 ^ 40 + n) ∨
  (a < 2 ^ 41 ∧ ∃ k, a < 4096 * k + 4096 ∧ 4096 * k < a + n ∧
    ∃ e, s.checkEntry (4096 * k) = some e ∧ (b = e + 8 ∨ (s.tandem = true ∧ b = 2 ^ 40 + e + 8)))

/-- One context has stored bytes at an address: those bytes hold them, no other byte that a store of that length does not touch has
changed, and of the rest only the context, its PC, its state number, the cluster caches, the counters of memory traffic and the Tandem
digest have. -/
structure State.StoredMem (s t : State) (x : CtxId) (a : Nat) (bs : List Byte) : Prop where
  stored : ∀ k (h : k < bs.length), t.byte (a + k) = bs[k]
  memory : ∀ b, ¬ s.touches a bs.length b → t.byte b = s.byte b
  regs : ∀ r, r ≠ .ctxPc x.core x.n → r ≠ .coreSqstat x.core → trafficReg r = false → t.reg r = s.reg r
  states : ∀ y : CtxId, y ≠ x → t.ctxState y = s.ctxState y
  ctxs : ∀ y, y ≠ x → t.ctx y = s.ctx y
  rest : t = { s with mem := t.mem, regs := t.regs, core := { s.core with ctxs := t.core.ctxs, cache := t.core.cache }, obs := t.obs,
                      int := { s.int with digest := t.int.digest } }

/-- A scalar access of `n` bytes at a global address reaches memory of this module that the context may access (R3, R10, R11, R12, R154):
not the control window, and no word in error. -/
structure State.Reaches (s : State) (x : CtxId) (g : Word) (n : Nat) (write : Bool) (a : Nat) : Prop where
  check : s.checkAccess x g n write = .ok (.here a)
  plain : a < 0xFF0000000000 ∨ 0xFF0040000000 ≤ a
  exists_ : s.populated (s.privOf x) a = true
  sound : s.flawed a n = []
  mirror : s.tandem = true → s.flawed (a + 2 ^ 40) n = []

/-- A precise fault (R155, R156, R158): the instruction has written nothing, its context has halted at it with the record written, and
interrupt source 129 and event 0x04:0x0040 of its die have been raised. -/
structure State.FaultedAt (s t : State) (a : At) (op : Nat) (tag : OpTag) (code detail : Nat) (value : Nat) : Prop where
  halted : t.ctxState (issuer a) = 4
  pc : t.pc (issuer a) = s.pc (issuer a)
  code : t.fld (.ctxFlt0 a.core a.n) F.ctxFlt0_CODE = code
  detail : t.fld (.ctxFlt0 a.core a.n) F.ctxFlt0_DETAIL = detail
  op : t.fld (.ctxFlt0 a.core a.n) F.ctxFlt0_OP = op
  optag : t.fld (.ctxFlt0 a.core a.n) F.ctxFlt0_OPTAG = tag.toNat
  layer : t.fld (.ctxFlt0 a.core a.n) F.ctxFlt0_LAYER = (s.ctx (issuer a)).layer.toNat
  mbatch : t.fld (.ctxFlt0 a.core a.n) F.ctxFlt0_MBATCH = (s.ctx (issuer a)).mbatch.toNat
  precise : t.flag (.ctxFlt0 a.core a.n) F.ctxFlt0_ASYNC = false
  valid : t.flag (.ctxFlt0 a.core a.n) F.ctxFlt0_VALID = true
  lost : s.flag (.ctxFlt0 a.core a.n) F.ctxFlt0_VALID = true → t.flag (.ctxFlt0 a.core a.n) F.ctxFlt0_LOST = true
  iaddr : t.fld (.ctxFlt1 a.core a.n) F.ctxFlt1_IADDR = s.pc (issuer a)
  value : t.reg (.ctxFlt2 a.core a.n) = BitVec.ofNat 64 value
  step : t.fld (.ctxFlt3 a.core a.n) F.ctxFlt3_STEP = (s.reg (.ctxStep a.core a.n)).toNat % 2 ^ 32
  sregs : ∀ r, t.sreg (issuer a) r = s.sreg (issuer a) r
  preds : ∀ p, t.pred (issuer a) p = s.pred (issuer a) p
  tiles : ∀ d, t.tile (issuer a) d = s.tile (issuer a) d
  others : ∀ y, y ≠ issuer a → t.ctx y = s.ctx y
  slots : t.core.slots = s.core.slots
  memory : ∀ b, t.byte b = s.byte b
  source : bit (t.reg (.icuPend (dieOf a.core) 2)) 1 = true
  event : s.events.length < 4096 → ∃ d, t.events = s.events ++ [{ cls := 4, code := 0x40, die := dieOf a.core, data := d }]

/-! ## What the accumulating instructions leave -/

/-- An accumulating instruction has entered the sums of its cells into its slot (R20, R95, R181): each of their elements holds what it
held, or zero where the instruction prepares it anew, plus the sum of its terms; every other element holds what it held, or zero where it
is prepared anew; no other slot of the core has changed; and the slot shows the anchor and the op tag, and SINF where it was set or is
inherited (R42). -/
structure State.Accumulated (s t : State) (q : AccOp) (cells : List Cell) (sinf : Bool) : Prop where
  sums : ∀ c ∈ cells, (t.slot q.i.x.core q.ad).elems.get c.idx Elem.zero =
    ((s.preparedElems q).get c.idx Elem.zero).add ⟨BitVec.ofInt 128 (q.sum c).k, (q.sum c).st⟩
  kept : ∀ k, (∀ c ∈ cells, c.idx ≠ k) → (t.slot q.i.x.core q.ad).elems.get k Elem.zero =
    (s.preparedElems q).get k Elem.zero
  others : ∀ j, j ≠ q.ad → t.slot q.i.x.core j = s.slot q.i.x.core j
  anchor : t.slotAnchor q.i.x.core q.ad = q.anchor
  full : t.slotEmpty q.i.x.core q.ad = false
  tag : t.slotTag q.i.x.core q.ad = q.i.tag
  infinite : t.slotSinf q.i.x.core q.ad = (sinf || (!q.fresh && s.slotSinf q.i.x.core q.ad))

/-- The sums of an accumulating instruction neither overflow (R38) nor meet a NaN that its context traps at (R87), and its anchor is one
that ATSTAT can show. -/
structure State.Commits (s : State) (q : AccOp) (cells : List Cell) (consumed : List NanSeen) : Prop where
  fits : ∀ c ∈ cells, (q.sum c).ovf = false
  quiet : s.armed q.i.x = false ∨ (consumed = [] ∧ ∀ c ∈ cells,
    ((s.preparedElems q).get c.idx Elem.zero).st.join (q.sum c).st ≠ .nan)
  anchor : -2048 ≤ q.anchor ∧ q.anchor ≤ 2047

/-- The scalar registers, predicates and descriptors of a context, and every other context, are as before. -/
structure State.KeepsRegs (s t : State) (x : CtxId) : Prop where
  sregs : ∀ r, t.sreg x r = s.sreg x r
  preds : ∀ p, t.pred x p = s.pred x p
  tiles : ∀ d, t.tile x d = s.tile x d
  others : ∀ y, y ≠ x → t.ctx y = s.ctx y

end Sys2Proof.Machine
end

