-- ==== Sys2Proof/Certificates/Slice0/Obligations.lean ====
section
/-!
DEFINITION. The statements for the provers: each def is one statement, whose docstring says what it states.
-/

open Sys2Proof Sys2Proof.Machine

/-- For every state whose queue has a command at its front, a step is exec of that command on the state with the queue's rest. (The queue
is the model's own; log entry 2.) -/
def Obligations.StepRunsTheFrontCommand : Prop :=
  ∀ (s : State) (c : Instr) (rest : List Instr), s.pending = c :: rest → step s = exec c { s with pending := rest }

/-- Every step answers a next state. With a command at the front, the next state's queue is the rest and it holds no store that has not
reached memory; with none, the queue stays empty and memory is as before. -/
def Obligations.EveryStepAnswersAState : Prop :=
  (∀ (s : State) (c : Instr) (rest : List Instr), s.pending = c :: rest →
    ∃ t, step s = .next t ∧ t.pending = rest ∧ t.stores = []) ∧
  (∀ s : State, s.pending = [] → ∃ t, step s = .next t ∧ t.pending = [] ∧ t.mem = s.mem ∧ t.stores = s.stores)

/-- For every state that meets the invariant (memory lists its bytes in strictly rising order of address, none of them equal to what an
unlisted address reads as; no store of a command is left over), if a step answers a next state, that state meets the invariant too. -/
def Obligations.StepKeepsTheInvariant : Prop :=
  ∀ s t : State, s.Inv → step s = .next t → t.Inv

/-- The state after power-up lists no byte of memory and holds no store, so it meets the invariant of StepKeepsTheInvariant; its queue is
empty and the module is without power until POWER_UP. -/
def Obligations.ResetMeetsTheInvariant : Prop :=
  State.reset.Inv ∧ State.reset.mem.cells = [] ∧ State.reset.pending = [] ∧ State.reset.pow.off = true

/-- After power-up every context is idle with s0-s31, p1-p7, all words of t0-t15, LAYER, MBATCH and PC 0 and p0 1, at privilege 2 and
unloaded; every slot is EMPTY with every k 0 and finite, and belongs to context 0; every cleat is 0; and every register reads the value of
its After power-up column. -/
def Obligations.PowerUpValues : Prop :=
  (∀ (x : CtxId), State.reset.ctxState x = 0 ∧ State.reset.pc x = 0 ∧ State.reset.privOf x = .job ∧
    State.reset.flag (.ctxCfg x.core x.n) F.ctxCfg_LOADED = false ∧
    (State.reset.ctx x).layer = 0 ∧ (State.reset.ctx x).mbatch = 0) ∧
  (∀ (x : CtxId) (r : R5), State.reset.sreg x r = 0) ∧
  (∀ (x : CtxId) (p : Fin 8), State.reset.pred x p = decide (p = 0)) ∧
  (∀ (x : CtxId) (d : T4), State.reset.tile x d = ⟨0, 0, 0, 0, 0, 0, 0, 0⟩) ∧
  (∀ (c : Fin 256) (i : A3) (e : Nat), ((State.reset.slot c i).elems.get e Elem.zero) = ⟨0, .fin⟩ ∧
    State.reset.flag (.coreAtstat c i) F.coreAtstat_EMPTY = true ∧ State.reset.fld (.coreSqacc c) (2 * i.val, 2) = 0) ∧
  (∀ (c : Fin 256) (n : Cleat), State.reset.cleat c n = 0) ∧
  (∀ r : Reg, State.reset.reg r = r.reset &&& r.mask)

/-- A step on an empty queue is one tick (the model's choice, log entry 2): with power, and no timebase correction outstanding, TIME grows
by 1; memory and every context stay as they were. Without power nothing changes. -/
def Obligations.IdleTickMovesTime : Prop :=
  (∀ s : State, s.pending = [] → s.pow.off = true → step s = .next s) ∧
  (∀ s : State, s.pending = [] → s.pow.off = false → -10 < s.fab.timeAdjust → s.fab.timeAdjust < 10 →
    ∃ t, step s = .next t ∧ t.time = s.time + 1 ∧ t.mem = s.mem ∧ t.core.ctxs = s.core.ctxs ∧ t.core.slots = s.core.slots)

/-- Where they issue, add and sub write sa + sb and sa - sb modulo 2^64, mul the low 64 bits of the product, mulhu and mulhs the high 64
bits of the unsigned and signed 128-bit product, addi and muli the sum and the low 64 bits of the product with the sign-extended
immediate, and li the sign-extended immediate. The PC passes one word; every other register, predicate, descriptor, context, special
register and byte of memory is as before (a write to s0 is discarded). -/
def Obligations.ScalarSumsAndProducts : Prop :=
  ∀ (s : State) (a : At) (rd ra rb : R5) (imm : Imm),
    let u := s.sreg (issuer a) ra
    let v := s.sreg (issuer a) rb
    let next := s.pc (issuer a) + 8
    (s.Issues a 0x02 → ∃ t, exec (.addSub a .add rd ra rb) s = .next t ∧ s.WroteReg t (issuer a) next rd (u + v)) ∧
    (s.Issues a 0x03 → ∃ t, exec (.addSub a .sub rd ra rb) s = .next t ∧ s.WroteReg t (issuer a) next rd (u - v)) ∧
    (s.Issues a 0x0A → ∃ t, exec (.mul a rd ra rb) s = .next t ∧ s.WroteReg t (issuer a) next rd (u * v)) ∧
    (s.Issues a 0x0B → ∃ t, exec (.mulhuMulhs a false rd ra rb) s = .next t ∧
      s.WroteReg t (issuer a) next rd (BitVec.ofNat 64 (u.toNat * v.toNat / 2 ^ 64))) ∧
    (s.Issues a 0x0C → ∃ t, exec (.mulhuMulhs a true rd ra rb) s = .next t ∧
      s.WroteReg t (issuer a) next rd (((u.signExtend 128 * v.signExtend 128) >>> 64).truncate 64)) ∧
    (s.Issues a 0x20 → ∃ t, exec (.addiMuli a false rd ra imm) s = .next t ∧ s.WroteReg t (issuer a) next rd (u + imm.signExtend 64)) ∧
    (s.Issues a 0x27 → ∃ t, exec (.addiMuli a true rd ra imm) s = .next t ∧ s.WroteReg t (issuer a) next rd (u * imm.signExtend 64)) ∧
    (s.Issues a 0x28 → ∃ t, exec (.li a rd imm) s = .next t ∧ s.WroteReg t (issuer a) next rd (imm.signExtend 64))

/-- Where they issue, and, or, xor work bit by bit (andi, ori, xori with the zero-extended immediate); shl, shr, sar shift by the low 6
bits of their source (shli, shri, sari by an immediate below 64); min and max are signed, minu and maxu unsigned; lui writes the immediate
into bits [63:32] and keeps bits [31:0]. The PC passes one word; every other register, predicate, descriptor, context, special register
and byte of memory is as before. -/
def Obligations.ScalarLogicShiftsAndExtremes : Prop :=
  ∀ (s : State) (a : At) (rd ra rb : R5) (imm : Imm),
    let u := s.sreg (issuer a) ra
    let v := s.sreg (issuer a) rb
    let n := v.toNat % 64
    let next := s.pc (issuer a) + 8
    (s.Issues a 0x04 → ∃ t, exec (.andOrXor a .and rd ra rb) s = .next t ∧ s.WroteReg t (issuer a) next rd (u &&& v)) ∧
    (s.Issues a 0x05 → ∃ t, exec (.andOrXor a .or rd ra rb) s = .next t ∧ s.WroteReg t (issuer a) next rd (u ||| v)) ∧
    (s.Issues a 0x06 → ∃ t, exec (.andOrXor a .xor rd ra rb) s = .next t ∧ s.WroteReg t (issuer a) next rd (u ^^^ v)) ∧
    (s.Issues a 0x07 → ∃ t, exec (.shlShrSar a .shl rd ra rb) s = .next t ∧ s.WroteReg t (issuer a) next rd (u <<< n)) ∧
    (s.Issues a 0x08 → ∃ t, exec (.shlShrSar a .shr rd ra rb) s = .next t ∧ s.WroteReg t (issuer a) next rd (u >>> n)) ∧
    (s.Issues a 0x09 → ∃ t, exec (.shlShrSar a .sar rd ra rb) s = .next t ∧ s.WroteReg t (issuer a) next rd (u.sshiftRight n)) ∧
    (s.Issues a 0x0D → ∃ t, exec (.minMax a false rd ra rb) s = .next t ∧
      s.WroteReg t (issuer a) next rd (if u.toInt ≤ v.toInt then u else v)) ∧
    (s.Issues a 0x0E → ∃ t, exec (.minMax a true rd ra rb) s = .next t ∧
      s.WroteReg t (issuer a) next rd (if v.toInt ≤ u.toInt then u else v)) ∧
    (s.Issues a 0x0F → ∃ t, exec (.minuMaxu a false rd ra rb) s = .next t ∧
      s.WroteReg t (issuer a) next rd (if u.toNat ≤ v.toNat then u else v)) ∧
    (s.Issues a 0x10 → ∃ t, exec (.minuMaxu a true rd ra rb) s = .next t ∧
      s.WroteReg t (issuer a) next rd (if v.toNat ≤ u.toNat then u else v)) ∧
    (s.Issues a 0x21 → ∃ t, exec (.andiOriXori a .and rd ra imm) s = .next t ∧
      s.WroteReg t (issuer a) next rd (u &&& imm.zeroExtend 64)) ∧
    (s.Issues a 0x22 → ∃ t, exec (.andiOriXori a .or rd ra imm) s = .next t ∧
      s.WroteReg t (issuer a) next rd (u ||| imm.zeroExtend 64)) ∧
    (s.Issues a 0x23 → ∃ t, exec (.andiOriXori a .xor rd ra imm) s = .next t ∧
      s.WroteReg t (issuer a) next rd (u ^^^ imm.zeroExtend 64)) ∧
    (s.Issues a 0x24 → imm.toNat < 64 → ∃ t, exec (.shliShriSari a .shl rd ra imm) s = .next t ∧
      s.WroteReg t (issuer a) next rd (u <<< imm.toNat)) ∧
    (s.Issues a 0x25 → imm.toNat < 64 → ∃ t, exec (.shliShriSari a .shr rd ra imm) s = .next t ∧
      s.WroteReg t (issuer a) next rd (u >>> imm.toNat)) ∧
    (s.Issues a 0x26 → imm.toNat < 64 → ∃ t, exec (.shliShriSari a .sar rd ra imm) s = .next t ∧
      s.WroteReg t (issuer a) next rd (u.sshiftRight imm.toNat)) ∧
    (s.Issues a 0x29 → ∃ t, exec (.lui a rd imm) s = .next t ∧
      s.WroteReg t (issuer a) next rd (imm ++ (s.sreg (issuer a) rd).truncate 32))

/-- Where they issue and name predicates 0-7, cmp sets pd to whether its relation holds between two registers (lt and ge signed, ltu and
geu unsigned), cmpi likewise with the sign-extended immediate, pand, por, pxor and pandn combine two predicates, and nop changes nothing
but the PC. Every other predicate, register, descriptor, context, special register and byte of memory is as before (a write to p0 is
discarded). -/
def Obligations.PredicatesTakeRelations : Prop :=
  ∀ (s : State) (a : At) (pd pa pb ra rb : R5) (imm : Imm), pd.val < 8 → pa.val < 8 → pb.val < 8 →
    let u := s.sreg (issuer a) ra
    let v := s.sreg (issuer a) rb
    let w := imm.signExtend 64
    let d : Fin 8 := Fin.ofNat _ pd.val
    let p := s.pred (issuer a) (Fin.ofNat _ pa.val)
    let q := s.pred (issuer a) (Fin.ofNat _ pb.val)
    (s.Issues a 0x11 → ∃ t, exec (.cmp a .eq pd ra rb) s = .next t ∧ s.WrotePred t (issuer a) d (decide (u = v))) ∧
    (s.Issues a 0x12 → ∃ t, exec (.cmp a .ne pd ra rb) s = .next t ∧ s.WrotePred t (issuer a) d (decide (u ≠ v))) ∧
    (s.Issues a 0x13 → ∃ t, exec (.cmp a .lt pd ra rb) s = .next t ∧ s.WrotePred t (issuer a) d (decide (u.toInt < v.toInt))) ∧
    (s.Issues a 0x14 → ∃ t, exec (.cmp a .ltu pd ra rb) s = .next t ∧ s.WrotePred t (issuer a) d (decide (u.toNat < v.toNat))) ∧
    (s.Issues a 0x15 → ∃ t, exec (.cmp a .ge pd ra rb) s = .next t ∧ s.WrotePred t (issuer a) d (decide (v.toInt ≤ u.toInt))) ∧
    (s.Issues a 0x16 → ∃ t, exec (.cmp a .geu pd ra rb) s = .next t ∧ s.WrotePred t (issuer a) d (decide (v.toNat ≤ u.toNat))) ∧
    (s.Issues a 0x17 → ∃ t, exec (.pandPorPxor a .and pd pa pb) s = .next t ∧ s.WrotePred t (issuer a) d (p && q)) ∧
    (s.Issues a 0x18 → ∃ t, exec (.pandPorPxor a .or pd pa pb) s = .next t ∧ s.WrotePred t (issuer a) d (p || q)) ∧
    (s.Issues a 0x19 → ∃ t, exec (.pandPorPxor a .xor pd pa pb) s = .next t ∧ s.WrotePred t (issuer a) d (p ^^ q)) ∧
    (s.Issues a 0x1A → ∃ t, exec (.pandn a pd pa pb) s = .next t ∧ s.WrotePred t (issuer a) d (p && !q)) ∧
    (s.Issues a 0x2A → ∃ t, exec (.cmpi a .eq pd ra imm) s = .next t ∧ s.WrotePred t (issuer a) d (decide (u = w))) ∧
    (s.Issues a 0x2B → ∃ t, exec (.cmpi a .lt pd ra imm) s = .next t ∧ s.WrotePred t (issuer a) d (decide (u.toInt < w.toInt))) ∧
    (s.Issues a 0x2C → ∃ t, exec (.cmpi a .ltu pd ra imm) s = .next t ∧ s.WrotePred t (issuer a) d (decide (u.toNat < w.toNat))) ∧
    (s.Issues a 0x2D → ∃ t, exec (.cmpi a .ge pd ra imm) s = .next t ∧ s.WrotePred t (issuer a) d (decide (w.toInt ≤ u.toInt))) ∧
    (s.Issues a 0x01 → ∃ t, exec (.nop a) s = .next t ∧ s.WroteReg t (issuer a) (s.pc (issuer a) + 8) 0 0)

/-- Where they issue, srd writes into sd the special register that imm names: CTXID, CLOCK, TIME, STEP, MBATCH, LAYER, GEN, LMOD, COORD or
PRIV; swr 4 writes bits [7:0] of its source to MBATCH and swr 5 bits [15:0] to LAYER, and changes nothing else but the PC; srd of a number
above 9 and swr to another number than 4 and 5 are illegal-instruction faults. -/
def Obligations.SpecialRegistersReadAndWrite : Prop :=
  ∀ (s : State) (a : At) (rd ra : R5) (imm : Imm),
    let x := issuer a
    let c := s.fld .spkmCoord
    (s.Issues a 0x2E →
      (imm.toNat < 10 → ∃ t, exec (.srd a rd imm) s = .next t ∧ s.WroteReg t x (s.pc x + 8) rd
        (match imm.toNat with
          | 0 => BitVec.ofNat 64 (4 * a.core.val + a.n.val)
          | 1 => BitVec.ofNat 64 (s.core.clock.get (clusterOf a.core) 0)
          | 2 => BitVec.ofNat 64 s.time
          | 3 => s.reg (.ctxStep a.core a.n)
          | 4 => (s.ctx x).mbatch.zeroExtend 64
          | 5 => (s.ctx x).layer.zeroExtend 64
          | 6 => BitVec.ofNat 64 (s.ctx x).latch.gen
          | 7 => BitVec.ofNat 64 s.lmn
          | 8 => BitVec.ofNat 64 (c F.spkmCoord_X + 4 * c F.spkmCoord_Y + 16 * c F.spkmCoord_Z + 256 * c F.spkmCoord_W)
          | _ => if s.fld (.ctxCfg a.core a.n) F.ctxCfg_PRIV = 1 then 1 else 2)) ∧
      (10 ≤ imm.toNat → ∃ t, exec (.srd a rd imm) s = .next t ∧ s.FaultedAt t a 0x2E 0 1 0 0)) ∧
    (s.Issues a 0x2F →
      (imm.toNat = 4 → ∃ t, exec (.swr a imm ra) s = .next t ∧ s.OnlyCtx t x ∧ s.RunsAt t x (s.pc x + 8) ∧
        t.ctx x = { s.ctx x with mbatch := (s.sreg x ra).truncate 8, wait := none }) ∧
      (imm.toNat = 5 → ∃ t, exec (.swr a imm ra) s = .next t ∧ s.OnlyCtx t x ∧ s.RunsAt t x (s.pc x + 8) ∧
        t.ctx x = { s.ctx x with layer := (s.sreg x ra).truncate 16, wait := none }) ∧
      (imm.toNat ≠ 4 → imm.toNat ≠ 5 → ∃ t, exec (.swr a imm ra) s = .next t ∧ s.FaultedAt t a 0x2F 0 1 0 0))

/-- Where they issue, br and call go to their own address plus 8 x OFF and jr to sa plus 8 x OFF, modulo 2^64, OFF the signed immediate;
call writes the address after it to sd; loop decrements sa, branches to its own address plus 8 x OFF where the result is not 0, and goes
on to the next word where it is 0. That is so of a target in an EXEC window, of jr one that is a multiple of 8 too, and every other
register, predicate, descriptor and context and every byte of memory is as before. Of br, call, jr and a loop that branches, a target
outside every EXEC window is an address fault (jr: where it is a multiple of 8), and a target of jr that is no multiple of 8 an alignment
fault, with the target in CTXn_FLT2 and no link or counter written. loop with RA 0 is an illegal instruction. -/
def Obligations.BranchesSetThePc : Prop :=
  ∀ (s : State) (a : At) (rd ra : R5) (imm : Imm),
    let x := issuer a
    let here := (BitVec.ofNat 64 (s.pc x) + 8 * imm.signExtend 64).toNat
    let far := (s.sreg x ra + 8 * imm.signExtend 64).toNat
    let left := s.sreg x ra - 1
    (s.Issues a 0x40 → s.execWindow a.core here = true → ∃ t, exec (.br a imm) s = .next t ∧ s.WroteReg t x here 0 0) ∧
    (s.Issues a 0x40 → s.execWindow a.core here = false → ∃ t, exec (.br a imm) s = .next t ∧ s.FaultedAt t a 0x40 0 6 0 here) ∧
    (s.Issues a 0x41 → s.execWindow a.core here = true → ∃ t, exec (.call a rd imm) s = .next t ∧
      s.WroteReg t x here rd (BitVec.ofNat 64 (s.pc x + 8))) ∧
    (s.Issues a 0x41 → s.execWindow a.core here = false → ∃ t, exec (.call a rd imm) s = .next t ∧ s.FaultedAt t a 0x41 0 6 0 here) ∧
    (s.Issues a 0x42 → far % 8 = 0 → s.execWindow a.core far = true → ∃ t, exec (.jr a ra imm) s = .next t ∧ s.WroteReg t x far 0 0) ∧
    (s.Issues a 0x42 → far % 8 ≠ 0 → ∃ t, exec (.jr a ra imm) s = .next t ∧ s.FaultedAt t a 0x42 0 5 0 far) ∧
    (s.Issues a 0x42 → far % 8 = 0 → s.execWindow a.core far = false → ∃ t, exec (.jr a ra imm) s = .next t ∧ s.FaultedAt t a 0x42 0 6 0 far) ∧
    (s.Issues a 0x43 → ra ≠ 0 → left ≠ 0 → s.execWindow a.core here = false →
      ∃ t, exec (.loop a ra imm) s = .next t ∧ s.FaultedAt t a 0x43 0 6 0 here) ∧
    (s.Issues a 0x43 → ra ≠ 0 → left ≠ 0 → s.execWindow a.core here = true → ∃ t, exec (.loop a ra imm) s = .next t ∧
      s.WroteReg t x here ra left) ∧
    (s.Issues a 0x43 → ra ≠ 0 → left = 0 → ∃ t, exec (.loop a ra imm) s = .next t ∧ s.WroteReg t x (s.pc x + 8) ra 0) ∧
    (s.Issues a 0x43 → ra = 0 → ∃ t, exec (.loop a ra imm) s = .next t ∧ s.FaultedAt t a 0x43 0 1 0 0)

/-- Where they issue and their address, sa + imm (sa for tld), passes the checks of R3, R10-R12 and R154 and leads to sound memory of this
module outside the control window, ld.b, .h, .w and .d write the 1, 2, 4 or 8 bytes there, zero-extended, ld.bs, .hs and .ws the 1, 2 or 4
bytes sign-extended, and tld fills a descriptor with 64 bytes. The PC passes one word. Every other register, predicate, descriptor and
context and every byte of memory is as before; of the control registers only PC, SQSTAT, the cluster's SPRSTAT and the free-running
traffic counters change. -/
def Obligations.LocalLoadsReadMemory : Prop :=
  ∀ (s : State) (a : At) (rd ra : R5) (imm : Imm) (td : T4) (tag : OpTag) (p : Nat),
    let x := issuer a
    let g := s.sreg x ra + imm.signExtend 64
    let done (t : State) (v : Word) : Prop := s.ReadMem t x ∧ s.RunsAt t x (s.pc x + 8) ∧ (rd ≠ 0 → t.sreg x rd = v) ∧
      t.sreg x 0 = 0 ∧ (∀ q, q ≠ rd → t.sreg x q = s.sreg x q) ∧ t.ctx x = { s.ctx x with sreg := (t.ctx x).sreg, wait := none }
    (∀ q ∈ [(Width.b, 1, 0x30), (.h, 2, 0x31), (.w, 4, 0x32), (.d, 8, 0x33)], s.Issues a q.2.2 → s.Reaches x g q.2.1 false p →
      ∃ t, exec (.ld a q.1 rd ra imm) s = .next t ∧ done t (BitVec.ofNat 64 (ofBytes (s.bytes p q.2.1)))) ∧
    (∀ q ∈ [(SWidth.bs, 1, 0x34), (.hs, 2, 0x35), (.ws, 4, 0x36)], s.Issues a q.2.2 → s.Reaches x g q.2.1 false p →
      ∃ t, exec (.ldSigned a q.1 rd ra imm) s = .next t ∧
        done t ((BitVec.ofNat (8 * q.2.1) (ofBytes (s.bytes p q.2.1))).signExtend 64)) ∧
    (s.Issues a 0x60 → s.Reaches x (s.sreg x ra) 64 false p →
      ∃ t, exec (.tld a td ra tag) s = .next t ∧ s.ReadMem t x ∧ s.RunsAt t x (s.pc x + 8) ∧
        (∀ w : Fin 8, (t.tile x td).word w = BitVec.ofNat 64 (ofBytes (s.bytes (p + 8 * w.val) 8))) ∧
        (∀ d, d ≠ td → t.tile x d = s.tile x d) ∧ t.ctx x = { s.ctx x with tile := (t.ctx x).tile, wait := none })

/-- Where they issue and their address, sa + imm for st and sa for tst and amo.add, passes the checks and leads to sound memory of this
module outside the control window, st.b, .h, .w and .d store the low 1, 2, 4 or 8 bytes of the register named by RD there, tst the 64
bytes of a descriptor, and amo.add the sum of the 8 bytes there and sb, whose old value goes to sd. Every byte outside the stored ones is
as before, but for the mirror in Tandem mode and the VALID bits of the touched blocks' check entries; no other register, predicate,
descriptor or context changes, and of the control registers only PC, SQSTAT, the cluster's SPRSTAT and the traffic counters. -/
def Obligations.LocalStoresWriteMemory : Prop :=
  ∀ (s : State) (a : At) (rd ra rb : R5) (imm : Imm) (ts : T4) (tag : OpTag) (p : Nat),
    let x := issuer a
    let g := s.sreg x ra + imm.signExtend 64
    let old : Word := BitVec.ofNat 64 (ofBytes (s.bytes p 8))
    (∀ q ∈ [(Width.b, 1, 0x37), (.h, 2, 0x38), (.w, 4, 0x39), (.d, 8, 0x3A)], s.Issues a q.2.2 → s.Reaches x g q.2.1 true p →
      ∃ t, exec (.st a q.1 rd ra imm) s = .next t ∧ s.StoredMem t x p (toBytes q.2.1 (s.sreg x rd).toNat) ∧
        s.RunsAt t x (s.pc x + 8) ∧ t.ctx x = { s.ctx x with wait := none }) ∧
    (s.Issues a 0x61 → s.Reaches x (s.sreg x ra) 64 true p →
      ∃ t, exec (.tst a ra ts tag) s = .next t ∧ s.StoredMem t x p (s.tile x ts).bytes ∧
        s.RunsAt t x (s.pc x + 8) ∧ t.ctx x = { s.ctx x with wait := none }) ∧
    (s.Issues a 0x1B → s.Reaches x (s.sreg x ra) 8 true p →
      ∃ t, exec (.amoAdd a rd ra rb) s = .next t ∧ s.StoredMem t x p (toBytes 8 (old + s.sreg x rb).toNat) ∧
        s.RunsAt t x (s.pc x + 8) ∧ (rd ≠ 0 → t.sreg x rd = old) ∧ (∀ q, q ≠ rd → t.sreg x q = s.sreg x q) ∧
        t.ctx x = { s.ctx x with sreg := (t.ctx x).sreg, wait := none })

/-- Where they issue, ld, st, ldSigned (2, 4 and 8 bytes), amo.add (8 bytes), tld and tst (64 bytes) at an address that is not a multiple
of the access size are alignment faults that name the address, whatever the address is: nothing is written, no register changes, and the
context halts at the instruction. -/
def Obligations.MisalignedAccessFaults : Prop :=
  ∀ (s : State) (a : At) (rd ra rb : R5) (imm : Imm) (td : T4) (tag : OpTag),
    let x := issuer a
    let g := s.sreg x ra + imm.signExtend 64
    let u := s.sreg x ra
    (∀ q ∈ [(Width.h, 2, 0x31), (.w, 4, 0x32), (.d, 8, 0x33)], s.Issues a q.2.2 → g.toNat % q.2.1 ≠ 0 →
      ∃ t, exec (.ld a q.1 rd ra imm) s = .next t ∧ s.FaultedAt t a q.2.2 0 5 0 g.toNat) ∧
    (∀ q ∈ [(SWidth.hs, 2, 0x35), (.ws, 4, 0x36)], s.Issues a q.2.2 → g.toNat % q.2.1 ≠ 0 →
      ∃ t, exec (.ldSigned a q.1 rd ra imm) s = .next t ∧ s.FaultedAt t a q.2.2 0 5 0 g.toNat) ∧
    (∀ q ∈ [(Width.h, 2, 0x38), (.w, 4, 0x39), (.d, 8, 0x3A)], s.Issues a q.2.2 → g.toNat % q.2.1 ≠ 0 →
      ∃ t, exec (.st a q.1 rd ra imm) s = .next t ∧ s.FaultedAt t a q.2.2 0 5 0 g.toNat) ∧
    (s.Issues a 0x1B → u.toNat % 8 ≠ 0 → ∃ t, exec (.amoAdd a rd ra rb) s = .next t ∧ s.FaultedAt t a 0x1B 0 5 0 u.toNat) ∧
    (s.Issues a 0x60 → u.toNat % 64 ≠ 0 → ∃ t, exec (.tld a td ra tag) s = .next t ∧ s.FaultedAt t a 0x60 tag 5 0 u.toNat) ∧
    (s.Issues a 0x61 → u.toNat % 64 ≠ 0 → ∃ t, exec (.tst a ra td tag) s = .next t ∧ s.FaultedAt t a 0x61 tag 5 0 u.toNat)

/-- Where ld.d and st.d issue with an 8-byte aligned address of kind 0b11, of kind 0b00 with bits [61:48] nonzero, of kind 0b01 with a
logical module number of 8,256 or more or outside the job's block, or of kind 0b10 with a peloton handle that is not open, they are
address faults that name the address, and no packet leaves. -/
def Obligations.GlobalAddressesThatFault : Prop :=
  ∀ (s : State) (a : At) (rd ra : R5) (imm : Imm),
    let x := issuer a
    let g := s.sreg x ra + imm.signExtend 64
    let kind := g.toNat / 2 ^ 62
    let m := g.toNat / 2 ^ 48 % 2 ^ 14
    g.toNat % 8 = 0 →
    kind = 3 ∨ (kind = 0 ∧ m ≠ 0) ∨ (kind = 1 ∧ (8256 ≤ m ∨ s.inBlock m = false)) ∨
      (kind = 2 ∧ ∀ q ∈ s.plt.pelotons, q.handle ≠ m) →
    (s.Issues a 0x33 → ∃ t, exec (.ld a .d rd ra imm) s = .next t ∧ s.FaultedAt t a 0x33 0 6 0 g.toNat ∧ t.fab = s.fab) ∧
    (s.Issues a 0x3A → ∃ t, exec (.st a .d rd ra imm) s = .next t ∧ s.FaultedAt t a 0x3A 0 6 0 g.toNat ∧ t.fab = s.fab)

/-- Where they issue and their address names another module of the block that the context may access, with a free tag and no unanswered
access of the context to the same 64 bytes, ld.d sends an RDREQ on VC5 and amo.add an AMO on VC3, each with the next free tag and its
core's scalar fabric context, and the context waits for the answer at its instruction; st.d sends a WR of its 8 bytes on VC3 and goes on.
No byte of memory and no register changes. -/
def Obligations.RemoteScalarAccessesTravel : Prop :=
  ∀ (s : State) (a : At) (rd ra rb : R5) (imm : Imm) (m p : Nat),
    let x := issuer a
    let g := s.sreg x ra + imm.signExtend 64
    let sent (t : State) (typ vc : Nat) (bs : List Byte) : Prop :=
      (∃ k, t.fab.inject = s.fab.inject ++ [k] ∧ k.typ = typ ∧ k.vc = vc ∧ k.dst = m ∧ k.addr = p ∧ k.tag = s.freeTag ∧
        k.fctx = 48 * a.core.val + 47 ∧ k.payload = bs ∧ k.src = s.lmn ∧ k.mc = false) ∧
      (∃ r, t.fab.reqs = s.fab.reqs ++ [r] ∧ r.tag = s.freeTag ∧ r.dst = m ∧ r.addr = p ∧ r.x = x ∧ r.acks = 1) ∧
      (∀ b, t.byte b = s.byte b) ∧ (∀ r, t.sreg x r = s.sreg x r) ∧ (∀ y, y ≠ x → t.ctx y = s.ctx y)
    let free := s.tagFree = true ∧ s.sameAddress x p = false ∧ m ≠ s.lmn ∧ p < 2 ^ 48
    (s.Issues a 0x33 → s.checkAccess x g 8 false = .ok (.remote m p) → free → ∃ t, exec (.ld a .d rd ra imm) s = .next t ∧
      sent t 0x03 5 [] ∧ t.ctxState x = 3 ∧ t.pc x = s.pc x ∧ (t.ctx x).wait = some (.reply s.freeTag)) ∧
    (s.Issues a 0x3A → s.checkAccess x g 8 true = .ok (.remote m p) → free → ∃ t, exec (.st a .d rd ra imm) s = .next t ∧
      sent t 0x01 3 (toBytes 8 (s.sreg x rd).toNat) ∧ s.RunsAt t x (s.pc x + 8)) ∧
    (s.Issues a 0x1B → s.checkAccess x (s.sreg x ra) 8 true = .ok (.remote m p) → free → ∃ t, exec (.amoAdd a rd ra rb) s = .next t ∧
      sent t 0x02 3 (toBytes 8 (s.sreg x rb).toNat) ∧ t.ctxState x = 3 ∧ t.pc x = s.pc x ∧ (t.ctx x).wait = some (.reply s.freeTag))

/-- In every state s0 of every context reads 0 and p0 reads 1; writing a value to s0 or p0 leaves the whole state as it was; and li to s0
and cmp.eq to p0, where they issue, pass on with every scalar register and predicate as before and no fault. -/
def Obligations.ZeroRegisterAndTruePredicate : Prop :=
  (∀ (s : State) (x : CtxId), s.sreg x 0 = 0 ∧ s.pred x 0 = true) ∧
  (∀ (s : State) (x : CtxId) (v : Word) (b : Bool), s.setSreg x 0 v = s ∧ s.setPred x 0 b = s) ∧
  (∀ (s : State) (a : At) (imm : Imm), s.Issues a 0x28 → ∃ t, exec (.li a 0 imm) s = .next t ∧
    s.WroteReg t (issuer a) (s.pc (issuer a) + 8) 0 0) ∧
  (∀ (s : State) (a : At) (ra rb : R5), s.Issues a 0x11 → ∃ t, exec (.cmp a .eq 0 ra rb) s = .next t ∧
    s.WroteReg t (issuer a) (s.pc (issuer a) + 8) 0 0)

/-- Where trap issues in a context whose CTXn_FLT0.VALID is 1, CTXn_FLT0-FLT3 hold the record of the new fault, code 8 with its own
opcode, address and immediate, VALID is 1 and LOST is 1. The same holds of every fault that halts a context (haltFault, the one operation
by which an instruction's fault is taken): its code, address and value replace those of the record, and LOST is 1. -/
def Obligations.LaterFaultOverwritesTheRecord : Prop :=
  (∀ (s : State) (a : At) (imm : Imm), s.Issues a 0x45 → s.flag (.ctxFlt0 a.core a.n) F.ctxFlt0_VALID = true →
    ∃ t, exec (.trap a imm) s = .next t ∧ s.FaultedAt t a 0x45 0 8 0 imm.toNat ∧ t.flag (.ctxFlt0 a.core a.n) F.ctxFlt0_LOST = true) ∧
  (∀ (s : State) (x : CtxId) (f : Flt) (op : Nat) (tag : OpTag) (layer : BitVec 16) (mbatch : BitVec 8) (iaddr : Nat) (async : Bool),
    s.flag (.ctxFlt0 x.core x.n) F.ctxFlt0_VALID = true →
    let t := s.haltFault x f op tag layer mbatch iaddr async
    t.fld (.ctxFlt0 x.core x.n) F.ctxFlt0_CODE = f.code % 16 ∧ t.fld (.ctxFlt1 x.core x.n) F.ctxFlt1_IADDR = iaddr % 2 ^ 48 ∧
    t.reg (.ctxFlt2 x.core x.n) = BitVec.ofNat 64 f.value ∧ t.flag (.ctxFlt0 x.core x.n) F.ctxFlt0_VALID = true ∧
    t.flag (.ctxFlt0 x.core x.n) F.ctxFlt0_LOST = true)

/-- Where a context can issue and the fetch of its words succeeds, add, ld.d and mma with a reserved bit of their words nonzero are
illegal-instruction faults whatever the guard; without one, and with p[GP] XOR GN equal to 0, add and ld.d write nothing, take no fault
and the PC passes the one word. Where the context can issue, an add or ld.d whose PC is no multiple of 8 is an alignment fault, and one
whose PC is a multiple of 8 where code may not be fetched an address fault, each naming the PC. -/
def Obligations.ReservedBitsAndGuards : Prop :=
  ∀ (s : State) (a : At) (rd ra rb : R5) (imm : Imm) (ad : A3) (ta tb tc : T4) (f : ProdF) (tag : OpTag),
    let x := issuer a
    s.stores = [] → s.canIssue x = true →
    (s.fetch x (s.pc x) 1 = (s, none) → a.rsv = true →
      (∃ t, exec (.addSub a .add rd ra rb) s = .next t ∧ s.FaultedAt t a 0x02 0 1 0 0) ∧
      (∃ t, exec (.ld a .d rd ra imm) s = .next t ∧ s.FaultedAt t a 0x33 0 1 0 0) ∧
      (∃ t, exec (.mma a .s4 ad ta tb tc f tag) s = .next t ∧ s.FaultedAt t a 0x80 tag 1 0 0)) ∧
    (s.fetch x (s.pc x) 1 = (s, none) → a.rsv = false → (s.pred x a.gp ^^ a.gn) = false →
      (∃ t, exec (.addSub a .add rd ra rb) s = .next t ∧ s.WroteReg t x (s.pc x + 8) 0 0) ∧
      (∃ t, exec (.ld a .d rd ra imm) s = .next t ∧ s.WroteReg t x (s.pc x + 8) 0 0)) ∧
    (s.pc x % 8 ≠ 0 →
      (∃ t, exec (.addSub a .add rd ra rb) s = .next t ∧ s.FaultedAt t a 0x02 0 5 0 (s.pc x)) ∧
      (∃ t, exec (.ld a .d rd ra imm) s = .next t ∧ s.FaultedAt t a 0x33 0 5 0 (s.pc x))) ∧
    (s.pc x % 8 = 0 → s.mayFetch x (s.pc x) = false →
      (∃ t, exec (.addSub a .add rd ra rb) s = .next t ∧ s.FaultedAt t a 0x02 0 6 0 (s.pc x)) ∧
      (∃ t, exec (.ld a .d rd ra imm) s = .next t ∧ s.FaultedAt t a 0x33 0 6 0 (s.pc x)))

/-- Where they issue: trap is a software fault whose immediate, zero-extended, is in CTXn_FLT2; fence.m and fence.t pass when the accesses
or instructions they wait for are done, and otherwise the context waits in state 3 at the fence; halt, with no earlier work or background
operation left and no cleat out of balance, leaves the context idle with the PC after it; ctxc at privilege 2 is a privilege fault, and
with IMM above 7 an illegal instruction. At privilege 1 ctxc with IMM 1 to 6 moves the PC past itself and then is the command LOAD, START,
HALT, RESUME, SKIP or RESET of privilege 1 to the context of its core that sa names, and with IMM 0 or 7 it only moves the PC past itself;
so IMM 2 starts another context that is loaded and idle, which runs at its PC with its cleat range recorded. -/
def Obligations.HaltTrapFencesAndContextControl : Prop :=
  ∀ (s : State) (a : At) (ra : R5) (imm : Imm),
    let x := issuer a
    (s.Issues a 0x45 → ∃ t, exec (.trap a imm) s = .next t ∧ s.FaultedAt t a 0x45 0 8 0 imm.toNat) ∧
    (s.Issues a 0x46 → s.quietM x = true → ∃ t, exec (.fenceM a) s = .next t ∧ s.WroteReg t x (s.pc x + 8) 0 0) ∧
    (s.Issues a 0x46 → s.quietM x = false → ∃ t, exec (.fenceM a) s = .next t ∧ t.ctxState x = 3 ∧ t.pc x = s.pc x ∧
      (t.ctx x).wait = some .unit) ∧
    (s.Issues a 0x47 → s.quietT x = true → ∃ t, exec (.fenceT a) s = .next t ∧ s.WroteReg t x (s.pc x + 8) 0 0) ∧
    (s.Issues a 0x47 → s.quietT x = false → ∃ t, exec (.fenceT a) s = .next t ∧ t.ctxState x = 3 ∧ t.pc x = s.pc x ∧
      (t.ctx x).wait = some .unit) ∧
    (s.Issues a 0x44 → s.quietT x = true → (∀ g ∈ s.core.bg, g.x ≠ x) → (∀ q ∈ (s.ctx x).startCleats, s.cleat a.core q.1 = q.2) →
      ∃ t, exec (.halt a) s = .next t ∧ t.ctxState x = 0 ∧ t.pc x = (s.pc x + 8) % 2 ^ 48 ∧ t.events = s.events ∧
        (∀ b, t.byte b = s.byte b) ∧ (∀ r, t.sreg x r = s.sreg x r) ∧ (∀ y, y ≠ x → t.ctx y = s.ctx y)) ∧
    (s.Issues a 0x48 → 8 ≤ imm.toNat → ∃ t, exec (.ctxc a ra imm) s = .next t ∧ s.FaultedAt t a 0x48 0 1 0 0) ∧
    (s.Issues a 0x48 → imm.toNat < 8 → s.privOf x = .job → ∃ t, exec (.ctxc a ra imm) s = .next t ∧ s.FaultedAt t a 0x48 0 2 0 0) ∧
    (∀ q ∈ [(1, Instr.ctxLoad), (2, .ctxStart), (3, .ctxHalt), (4, .ctxResume), (5, .ctxSkip), (6, .ctxReset)],
      s.Issues a 0x48 → imm.toNat = q.1 → s.privOf x = .driver →
        exec (.ctxc a ra imm) s = exec (q.2 .driver ⟨a.core, Fin.ofNat _ (s.sreg x ra).toNat⟩) (s.advance (s.ins x 0x48 1 0))) ∧
    (s.Issues a 0x48 → imm = 0 ∨ imm = 7 → s.privOf x = .driver → ∃ t, exec (.ctxc a ra imm) s = .next t ∧ s.WroteReg t x (s.pc x + 8) 0 0) ∧
    (s.Issues a 0x48 → imm = 2 → s.privOf x = .driver → s.phase = 3 →
      let y : CtxId := ⟨a.core, Fin.ofNat _ (s.sreg x ra).toNat⟩
      y ≠ x → s.ctxState y = 0 → s.flag (.ctxCfg y.core y.n) F.ctxCfg_LOADED = true →
      ∃ t, exec (.ctxc a ra imm) s = .next t ∧ t.pc x = (s.pc x + 8) % 2 ^ 48 ∧ t.pc y = s.pc y ∧
        t.ctxState y = (if s.isMoved y = true then 5 else 1) ∧ (t.ctx y).startCleats = s.rangeCleats y)

/-- At privilege 0 or 1: LOAD of an idle context of a usable core, whose header and table lie in sound readable memory, break no rule and
agree with the loaded contexts of the job, sets LOADED, the PC to the entry point, every register, predicate and descriptor as after
power-up, and the declared operations; START of a loaded idle context (of privilege 2: in full service) runs it at its PC with its cleat
range recorded; HALT of a running context at an instruction boundary that has not been handed over leaves it halted; RESUME runs a halted
one with no bracket open at its PC, and SKIP past the instruction there (two words for opcodes 0xC0-0xDF); RESET of one that has not been
handed over, with no bracket open and no tile, access or background operation of its own under way, leaves it idle and unloaded. No byte
of memory changes. -/
def Obligations.ContextCommandsAct : Prop :=
  ∀ (s : State) (p : Priv) (x : CtxId), p ≠ .job → s.stores = [] →
    let h := s.fld (.ctxCfg x.core x.n) F.ctxCfg_IMAGE * 64
    let tab := h + s.num (h + 20) 4
    let n := s.num (h + 24) 4
    let code := h + s.num (h + 8) 4
    let table := (List.range n).map fun k => s.tableEntry (tab + 32 * k)
    let reads (a m : Nat) : Prop := (∀ q ∈ probes a m, s.populated (s.privOf x) q = true) ∧ s.flawed a m = []
    let same (t : State) : Prop := ∀ b, t.byte b = s.byte b
    (s.ctxState x = 0 → s.flag (.coreCstat x.core) F.coreCstat_USABLE = true → reads h 64 → reads tab (32 * n) → s.badHeader h = none →
      s.badTable tab n = none → s.noFetch x code (s.num (h + 12) 4) = none → s.noRead x tab (32 * n) = none →
      (∀ e ∈ table, s.disagrees x (BitVec.ofNat 64 (s.num (h + 32) 8)) e = false) →
      ∃ t, exec (.ctxLoad p x) s = .next t ∧ t.flag (.ctxCfg x.core x.n) F.ctxCfg_LOADED = true ∧
        t.pc x = (code + s.num (h + 16) 4) % 2 ^ 48 ∧ (∀ r, t.sreg x r = 0) ∧ (∀ q, t.pred x q = decide (q = 0)) ∧
        (∀ d, t.tile x d = ⟨0, 0, 0, 0, 0, 0, 0, 0⟩) ∧ (t.ctx x).layer = 0 ∧ (t.ctx x).mbatch = 0 ∧ (t.ctx x).table = table ∧
        t.ctxState x = 0 ∧ same t) ∧
    (s.ctxState x = 0 → s.flag (.ctxCfg x.core x.n) F.ctxCfg_LOADED = true → (s.privOf x = .job → s.phase = 3) →
      ∃ t, exec (.ctxStart p x) s = .next t ∧ t.ctxState x = (if s.isMoved x = true then 5 else 1) ∧ t.pc x = s.pc x ∧
        (t.ctx x).startCleats = s.rangeCleats x ∧ same t) ∧
    (s.ctxState x = 1 → s.isMoved x = false → s.atBoundary x = true →
      ∃ t, exec (.ctxHalt p x) s = .next t ∧ t.ctxState x = 4 ∧ t.pc x = s.pc x ∧ same t) ∧
    (s.ctxState x = 4 → (s.ctx x).bracket = none →
      (∃ t, exec (.ctxResume p x) s = .next t ∧ s.RunsAtSame t x) ∧
      (∃ t, exec (.ctxSkip p x) s = .next t ∧ t.ctxState x = (if s.isMoved x = true then 5 else 1) ∧ same t ∧
        t.pc x = (s.pc x + (if 0xC0 ≤ (s.byte (s.pc x)).toNat ∧ (s.byte (s.pc x)).toNat ≤ 0xDF then 16 else 8)) % 2 ^ 48)) ∧
    (s.isMoved x = false → (s.ctx x).bracket = none → s.settled x = true →
      ∃ t, exec (.ctxReset p x) s = .next t ∧ t.ctxState x = 0 ∧ t.flag (.ctxCfg x.core x.n) F.ctxCfg_LOADED = false ∧ same t)

/-- With the context's cluster in P0: LOAD, START, HALT, RESUME, SKIP and RESET from privilege 2 leave the whole state as it was; and from
any privilege LOAD of a context that is not idle, START of one that is not idle (of a privilege-2 context: in full service), HALT of one
that is idle or halted, and RESUME and SKIP of one that is not halted leave it as it was. -/
def Obligations.JobCommandsAreIgnored : Prop :=
  ∀ (s : State) (p : Priv) (x : CtxId), s.stores = [] → s.pstate (clusterOf x.core) = 0 →
    (exec (.ctxLoad .job x) s = .next s ∧ exec (.ctxStart .job x) s = .next s ∧ exec (.ctxHalt .job x) s = .next s ∧
      exec (.ctxResume .job x) s = .next s ∧ exec (.ctxSkip .job x) s = .next s ∧ exec (.ctxReset .job x) s = .next s) ∧
    (s.ctxState x ≠ 0 → exec (.ctxLoad p x) s = .next s ∧ ((s.privOf x = .job → s.phase = 3) → exec (.ctxStart p x) s = .next s)) ∧
    (s.ctxState x = 0 ∨ s.ctxState x = 4 → exec (.ctxHalt p x) s = .next s) ∧
    (s.ctxState x ≠ 4 → exec (.ctxResume p x) s = .next s ∧ exec (.ctxSkip p x) s = .next s)

/-- Where they issue: tget writes word W of a descriptor to s[SA]; tput replaces word W of a descriptor by s[SA]; tadv by rows of an
unscaled, ringless descriptor adds n to ROWOFF and n x PITCH to ADDR and changes nothing else of it, with n = s[SA] signed; and any
advance whose ROWOFF or COLOFF would fall below 0 or rise above 2^32 - 1, or that breaks a divisibility condition (columns of S4 odd,
block columns no multiple of 32, A128 columns no multiple of 4, block rows no multiple of 32), is an operand fault that leaves the
descriptor as it was. -/
def Obligations.DescriptorInstructions : Prop :=
  ∀ (s : State) (a : At) (sa : R5) (td : T4) (w : Fin 8) (dir : Bool) (tag : OpTag),
    let x := issuer a
    let d := s.tile x td
    let n := (s.sreg x sa).toInt
    let v : Int := (if dir then (d.coloff : Int) else d.rowoff) + n
    let only (t : State) (e : Desc) : Prop := s.OnlyCtx t x ∧ s.RunsAt t x (s.pc x + 8) ∧ t.tile x td = e ∧
      (∀ q, q ≠ td → t.tile x q = s.tile x q) ∧ t.ctx x = { s.ctx x with tile := (t.ctx x).tile, wait := none }
    (s.Issues a 0x62 → ∃ t, exec (.tget a sa td w tag) s = .next t ∧ s.WroteReg t x (s.pc x + 8) sa (d.word w)) ∧
    (s.Issues a 0x63 → ∃ t e, exec (.tput a td w sa tag) s = .next t ∧ only t e ∧ e.word w = s.sreg x sa ∧
      ∀ u, u ≠ w → e.word u = d.word u) ∧
    (s.Issues a 0x64 → dir = false → d.rlog = 0 → d.aux = .none → 0 ≤ v → v < 2 ^ 32 →
      ∃ t e, exec (.tadv a td sa dir tag) s = .next t ∧ only t e ∧ e.rowoff = v.toNat ∧ e.coloff = d.coloff ∧
        e.d0 = d.d0 + BitVec.ofInt 64 (n * d.pitch) ∧ e.d1 = d.d1 ∧ e.d2 = d.d2 ∧ e.d3 = d.d3 ∧ e.d5 = d.d5 ∧ e.d6 = d.d6 ∧ e.d7 = d.d7) ∧
    (s.Issues a 0x64 → v < 0 ∨ 2 ^ 32 ≤ v ∨ (dir = true ∧ d.fmt = 0 ∧ n % 2 ≠ 0) ∨
        (dir = true ∧ (d.aux = .cols ∨ d.aux = .bm) ∧ n % 32 ≠ 0) ∨ (dir = true ∧ d.aux = .a128 ∧ n % 4 ≠ 0) ∨
        (dir = false ∧ d.aux = .rows ∧ n % 32 ≠ 0) →
      ∃ t, exec (.tadv a td sa dir tag) s = .next t ∧ s.FaultedAt t a 0x64 tag 3 0 0)

/-- Where they issue and name a cleat of the context's range, in a cluster in P0 with no held add: cl.add adds the sign-extended immediate
to the cleat and cl.addr a register, and no other register, cleat or byte of memory changes; cl.rd writes the cleat to a register; cl.test
sets a predicate to whether the signed difference of cleat and s[SA] reaches the immediate; cl.wait passes when it does, and otherwise
leaves the context waiting in state 2 at the instruction. A cleat outside the range is an operand fault for all five.
CLEAT_WAIT_SATISFIED, with the core running and no held add, lets a waiting context whose condition has become true pass the instruction,
and leaves alone one whose condition is false. -/
def Obligations.CleatInstructions : Prop :=
  ∀ (s : State) (a : At) (cl : Cleat) (sa sd : R5) (imm : Imm),
    let x := issuer a
    let v := s.reg (.clt a.core cl)
    let holds (base : Word) : Prop := (imm.signExtend 64).toInt ≤ (v - base).toInt
    let open_ := s.cleatOk x cl.val 1 = true ∧ s.pstate (clusterOf a.core) = 0 ∧ s.core.heldAdds = []
    let added (t : State) (n : Word) : Prop := t.reg (.clt a.core cl) = v + n ∧ s.RunsAt t x (s.pc x + 8) ∧
      (∀ r, r ≠ .clt a.core cl → r ≠ .ctxPc a.core a.n → r ≠ .coreSqstat a.core → t.reg r = s.reg r) ∧
      t = { s with regs := t.regs, core := { s.core with ctxs := t.core.ctxs } } ∧ (∀ y, y ≠ x → t.ctx y = s.ctx y) ∧
      t.ctx x = { s.ctx x with wait := none } ∧ (∀ b, t.byte b = s.byte b)
    (s.Issues a 0xE0 → open_ → ∃ t, exec (.clAdd a cl imm) s = .next t ∧ added t (imm.signExtend 64)) ∧
    (s.Issues a 0xE1 → open_ → ∃ t, exec (.clAddr a cl sa) s = .next t ∧ added t (s.sreg x sa)) ∧
    (s.Issues a 0xE4 → open_ → ∃ t, exec (.clRd a sd cl) s = .next t ∧ s.WroteReg t x (s.pc x + 8) sd v) ∧
    (s.Issues a 0xE3 → open_ → sd.val < 8 → ∃ t b, exec (.clTest a sd cl sa imm) s = .next t ∧
      s.WrotePred t x (Fin.ofNat _ sd.val) b ∧ (b = true ↔ holds (s.sreg x sa))) ∧
    (s.Issues a 0xE2 → open_ → holds (s.sreg x sa) → ∃ t, exec (.clWait a cl sa imm) s = .next t ∧ s.RunsAt t x (s.pc x + 8) ∧
      t.ctx x = { s.ctx x with wait := none } ∧ (∀ b, t.byte b = s.byte b)) ∧
    (s.Issues a 0xE2 → open_ → ¬ holds (s.sreg x sa) → ∃ t, exec (.clWait a cl sa imm) s = .next t ∧ t.ctxState x = 2 ∧ t.pc x = s.pc x ∧
      t.ctx x = { s.ctx x with wait := some (.cleat cl (s.sreg x sa) (imm.signExtend 64) s.time 0) } ∧ (∀ b, t.byte b = s.byte b)) ∧
    (s.cleatOk x cl.val 1 = false →
      (s.Issues a 0xE0 → ∃ t, exec (.clAdd a cl imm) s = .next t ∧ s.FaultedAt t a 0xE0 0 3 0 0) ∧
      (s.Issues a 0xE1 → ∃ t, exec (.clAddr a cl sa) s = .next t ∧ s.FaultedAt t a 0xE1 0 3 0 0) ∧
      (s.Issues a 0xE2 → ∃ t, exec (.clWait a cl sa imm) s = .next t ∧ s.FaultedAt t a 0xE2 0 3 0 0) ∧
      (s.Issues a 0xE3 → sd.val < 8 → ∃ t, exec (.clTest a sd cl sa imm) s = .next t ∧ s.FaultedAt t a 0xE3 0 3 0 0) ∧
      (s.Issues a 0xE4 → ∃ t, exec (.clRd a sd cl) s = .next t ∧ s.FaultedAt t a 0xE4 0 3 0 0)) ∧
    (∀ (base lim : Word) (since : Nat) (tag : OpTag), s.stores = [] → s.ctxState x = 2 →
      (s.ctx x).wait = some (.cleat cl base lim since tag) → s.ctxRuns x = true → s.core.heldAdds = [] →
      (lim.toInt ≤ (v - base).toInt → ∃ t, exec (.cleatWaitSatisfied x) s = .next t ∧ s.RunsAt t x (s.pc x + 8) ∧
        (∀ b, t.byte b = s.byte b)) ∧
      (¬ lim.toInt ≤ (v - base).toInt → exec (.cleatWaitSatisfied x) s = .next s))

/-- Where they issue with an 8-byte aligned address of a cleat register that the context may write and that no stopped die bridge cuts
off, with no earlier write or background operation to wait for and no held signal: to a local cleat of a cluster in P0, the cleat gains
the register or the sign-extended immediate; to a cleat of another module, a SIG packet with the value leaves on VC1. Behind an unanswered
write to the same target, cl.sig is held at the core with the tags it waits for. The context passes on in each case, and no byte of memory
changes. SIGNAL_RELEASE of a context whose held signal is the first and has nothing left to wait for delivers it. An address that names no
cleat is an address fault. -/
def Obligations.SignalsReachCleats : Prop :=
  ∀ (s : State) (a : At) (sa sb : R5) (imm : Imm),
    let x := issuer a
    let g := s.sreg x sa
    let quiet (q : Target) : Prop := (s.behind x q).1 = [] ∧ (s.behind x q).2 = [] ∧ s.core.signals = []
    let goes (t : State) : Prop := s.RunsAt t x (s.pc x + 8) ∧ ∀ b, t.byte b = s.byte b
    g.toNat % 8 = 0 →
    (∀ (p : Nat) (c : Fin 256) (n : Cleat), s.target g = some (.here p) → cleatAt p = some (c, n) → p = lowAddr g →
      s.spanFault x (.here p) 8 true = none → s.bridgeCut (dieOf x.core) (.here p) = false → s.pstate (clusterOf c) = 0 → quiet (.here p) →
      (s.Issues a 0xE5 → ∃ t, exec (.clSig a sa sb) s = .next t ∧ t.reg (.clt c n) = s.reg (.clt c n) + s.sreg x sb ∧ goes t) ∧
      (s.Issues a 0xE6 → ∃ t, exec (.clSigi a sa imm) s = .next t ∧ t.reg (.clt c n) = s.reg (.clt c n) + imm.signExtend 64 ∧ goes t)) ∧
    (∀ (m p : Nat), s.target g = some (.remote m p) → m ≠ s.lmn → (cleatAt p).isSome = true → p = lowAddr g →
      s.spanFault x (.remote m p) 8 true = none → s.bridgeCut (dieOf x.core) (.remote m p) = false → quiet (.remote m p) →
      (s.Issues a 0xE5 → ∃ t k, exec (.clSig a sa sb) s = .next t ∧ t.fab.inject = s.fab.inject ++ [k] ∧ k.typ = 0x08 ∧ k.vc = 1 ∧
        k.dst = m ∧ k.addr = p ∧ k.tspec = (s.sreg x sb).toNat ∧ goes t) ∧
      (s.Issues a 0xE6 → ∃ t k, exec (.clSigi a sa imm) s = .next t ∧ t.fab.inject = s.fab.inject ++ [k] ∧ k.typ = 0x08 ∧ k.vc = 1 ∧
        k.dst = m ∧ k.addr = p ∧ k.tspec = (imm.signExtend 64).toNat ∧ goes t)) ∧
    (∀ q : Target, s.target g = some q → (cleatAt (lowAddr g)).isSome = true → s.spanFault x q 8 true = none → (s.behind x q).1 ≠ [] →
      s.Issues a 0xE5 → ∃ t, exec (.clSig a sa sb) s = .next t ∧
        t.core.signals = s.core.signals ++ [⟨x, (s.ctx x).bracket.map Bracket.serial, (s.ctx x).latch.gen, g, s.sreg x sb,
          (s.behind x q).1, (s.behind x q).2⟩] ∧ t.fab = s.fab ∧ goes t) ∧
    ((cleatAt (lowAddr g)).isNone = true →
      (s.Issues a 0xE5 → ∃ t, exec (.clSig a sa sb) s = .next t ∧ s.FaultedAt t a 0xE5 0 6 0 g.toNat) ∧
      (s.Issues a 0xE6 → ∃ t, exec (.clSigi a sa imm) s = .next t ∧ s.FaultedAt t a 0xE6 0 6 0 g.toNat)) ∧
    (∀ (h : HeldSignal) (l : List HeldSignal), s.stores = [] → s.core.signals = h :: l → h.x = x → s.released h = true →
      ∃ t, exec (.signalRelease x) s = .next t ∧ t.core.signals = l ∧
        t = s.settle (({ s with core := { s.core with signals := l } }).deliver h.gen h.addr h.value))

/-- Where they issue, their descriptors and cleats break no rule and the Pump has room and, for a transfer that reaches another module, a
free fabric context: tcopy (whose addresses are in order and whose source lies here), pump.stream of 1 to 2^32 - 1 transfers with an even
cleat, pump.cache and, with a 4-byte aligned index address and no need of the Pump, sprk.gather each add one background operation with the
descriptors as they stand, the cleat, the instruction's address and tag, and the context passes on; no byte of memory, no cleat, no
register and no other context changes. pump.stream latches s[SB] and cleat CL + 1. pump.stop of a cleat in the context's range passes on
and changes no byte of memory: of the context's streams on the cleat only those with transfers in flight stay, stopped. -/
def Obligations.BackgroundTransfersStart : Prop :=
  ∀ (s : State) (a : At) (td ts : T4) (sa sb : R5) (dir : Bool) (depth : Fin 16) (cl : Cleat) (zpad : Bool) (tag : OpTag),
    let x := issuer a
    let d := s.tile x td
    let t := s.tile x ts
    let n := (s.sreg x sa).toNat
    let queued (u : State) (k : BgKind) (tdn : T4) : Prop :=
      (u.core.bg.map Bg.kind = s.core.bg.map Bg.kind ++ [k]) ∧
      (∃ g ∈ u.core.bg, g.id = s.core.nextBg ∧ g.x = x ∧ g.kind = k ∧ g.tdn = tdn ∧ g.tsn = ts ∧ g.cl = cl ∧ g.iaddr = s.pc x ∧
        g.tag = tag ∧ g.muted = false) ∧
      s.RunsAt u x (s.pc x + 8) ∧ (∀ b, u.byte b = s.byte b) ∧ (∀ c m, u.reg (.clt c m) = s.reg (.clt c m)) ∧
      (∀ r, u.sreg x r = s.sreg x r) ∧ (∀ y, y ≠ x → u.ctx y = s.ctx y)
    (s.Issues a 0x65 → firstFault (s.agreeFaults d t td ts ++ s.cleatFaults x cl.val 1) = none → s.pumpFree a.core = true →
      (s.takeFctx a.core (s.isFar d t)).isSome = true → (∃ p, s.target t.d0 = some (.here p)) →
      firstFault (s.moveFaults x d t td ts) = none →
      ∃ u, exec (.tcopy a td ts cl tag) s = .next u ∧ queued u (.tcopy d t) td) ∧
    (s.Issues a 0x66 → cl.val % 2 = 0 → firstFault (s.agreeFaults d t td ts ++ s.cleatFaults x cl.val 2) = none → n < 2 ^ 32 → 0 < n →
      s.pumpFree a.core = true → (s.takeFctx a.core (s.isFar d t)).isSome = true →
      ∃ u, exec (.pumpStream a td ts sa sb dir depth cl tag) s = .next u ∧
        queued u (.stream { td := d, ts := t, n := n, sb := s.sreg x sb, dir := dir, depth := depth.val,
                            d0 := s.cleat a.core (Fin.ofNat _ (cl.val + 1)), started := 0, completed := 0, stopped := false }) td) ∧
    (s.Issues a 0x68 → firstFault (s.descFaults t ts true false false ++ s.cleatFaults x cl.val 1) = none → s.pumpFree a.core = true →
      ∃ u, exec (.pumpCache a ts cl tag) s = .next u ∧ queued u (.cache t []) ts) ∧
    (s.Issues a 0x69 → firstFault (s.descFaults d td true false false ++ s.descFaults t ts true false false ++ gatherBad d t ++
        s.cleatFaults x cl.val 1) = none → n % 4 = 0 →
      ∃ u, exec (.sprkGather a td ts sa cl zpad tag) s = .next u ∧ queued u (.gather d t n zpad) td) ∧
    (s.Issues a 0x67 → s.cleatOk x cl.val 1 = true →
      ∃ u, exec (.pumpStop a cl tag) s = .next u ∧ s.RunsAt u x (s.pc x + 8) ∧ (∀ b, u.byte b = s.byte b) ∧
        ∀ g ∈ u.core.bg, g.x = x → g.cl = cl → ∀ k, g.kind = .stream k → k.stopped = true ∧ k.started ≠ k.completed)

/-- TCOPY_COMPLETE and PUMP_TRANSFER_COMPLETE of a transfer whose copy finishes (State.finishMove) leave what the copy wrote, take the
tcopy off the queue or count the stream's transfer, and add 1 to the cleat of their operation unless its bracket was abandoned.
PUMP_TRANSFER_START starts the next transfer of a stream that its credit cleat frees a buffer for and whose windows are in order, and
leaves a stream without credit alone. PUMP_CACHE_COMPLETE and SPRK_GATHER_COMPLETE, where no address, index or word of theirs fails,
install the lines or write the rows, take the operation off the queue and add 1 to its cleat. Each then lets a HALT or RESET that waited
for the end of the operation act (State.payOwed). -/
def Obligations.BackgroundTransfersEnd : Prop :=
  ∀ (s : State) (x : CtxId) (nth : Nat) (g : Bg), s.stores = [] →
    (∀ (d t : Desc) (u : State), s.nthBg x nth BgKind.isCopy = some g → g.kind = .tcopy d t → s.finishMove g 0 d t = .finished u →
      exec (.tcopyComplete x nth) s = .next (s.settle (((u.endBg g.id).bgCleat g).payOwed x)) ∧
      (g.muted = false → u.pstate (clusterOf g.x.core) = 0 → (u.ctx x).owed = 0 →
        ∃ v, exec (.tcopyComplete x nth) s = .next v ∧ v.reg (.clt g.x.core g.cl) = u.reg (.clt g.x.core g.cl) + 1 ∧
          ∀ h ∈ v.core.bg, h.id ≠ g.id)) ∧
    (∀ (k : Stream) (d t : Desc) (u : State), s.nthBg x nth BgKind.isStream = some g → g.kind = .stream k →
      (k.stopped = false → k.started < k.n → s.hasCredit g k = true → k.windows k.started = some (d, t) →
        s.startMove g k.started d t = (u, none) →
        exec (.pumpTransferStart x nth) s = .next (s.settle ((u.setStream g { k with started := k.started + 1 }).payOwed x))) ∧
      (s.hasCredit g k = false → exec (.pumpTransferStart x nth) s = .next (s.settle (s.payOwed x)) ∧
        ((s.ctx x).owed = 0 → exec (.pumpTransferStart x nth) s = .next s)) ∧
      (k.completed < k.started → k.windows k.completed = some (d, t) → s.finishMove g k.completed d t = .finished u →
        ∃ h, exec (.pumpTransferComplete x nth) s =
            .next (s.settle (((u.setStream h { k with completed := k.completed + 1 }).bgCleat h).payOwed x)) ∧ h.id = g.id)) ∧
    (∀ (t : Desc) (beaten : List Nat) (u : State), s.nthBg x nth BgKind.isCache = some g → g.kind = .cache t beaten →
      let lines := linesOf (t.planeRanges.map fun q => (lowAddr q.1 + q.2.1, q.2.2))
      let fills := lines.filter (ownDram (clusterOf x.core))
      firstFault (s.cacheFaults x t g.tsn) = none →
      s.readRanges .pump ((fills ++ fills.filter beaten.contains).map fun p => (p, 128)) = (u, none) →
      exec (.pumpCacheComplete x nth) s =
        .next (s.settle ((((forAll lines u fun s p => s.endFill (clusterOf x.core) beaten p).endBg g.id).bgCleat g).payOwed x))) ∧
    (∀ (d t : Desc) (idx : Nat) (zpad : Bool) (u v : State), s.nthBg x nth BgKind.isGather = some g → g.kind = .gather d t idx zpad →
      let rows := List.range (d.clip d.whole).r1
      let k := clusterOf x.core
      let reads := gatherReads d t (u.gatherRow t idx)
      firstFault (s.gatherFaults g d t idx) = none →
      (s.sprocketReads k [(idx, 4 * rows.length)]).readRange .sprocket idx (4 * rows.length) = (u, none) →
      rows.any (u.gatherOut t idx zpad) = false → (u.sprocketReads k reads).readRanges .sprocket reads = (v, none) →
      exec (.sprkGatherComplete x nth) s = .next (s.settle ((((v.applyMove g 0 .sprocket d
        (movePlan d t (u.gatherRow t idx) fun p o => (v.byte (lowAddr (t.plane p) + o)).toNat)).endBg g.id).bgCleat g).payOwed x)))

/-- STORE_TARGET_FAULT and BACKGROUND_TRANSFER_FAULT of a running or waiting context (SQSTAT 1, 2, 3 or 5) at an instruction boundary,
where the oldest fault found after issue is one of its own of that kind: the context halts where it stands, CTXn_FLT0 holds the code, the
DETAIL, the opcode and the op tag of the instruction that caused it, ASYNC 1 and VALID 1, CTXn_FLT1 its address and CTXn_FLT2 the faulting
address; its registers and predicates and every byte of memory are as before. -/
def Obligations.FaultsFoundAfterIssue : Prop :=
  ∀ (s : State) (x : CtxId) (f : AsyncFault) (l : List AsyncFault), s.stores = [] → s.core.faults = f :: l → f.x = x → s.atBoundary x = true →
    s.ctxState x ∈ [1, 2, 3, 5] → f.op < 256 →
    ∃ t, exec (if f.store then .storeTargetFault x else .backgroundTransferFault x) s = .next t ∧ t.core.faults = l ∧ t.ctxState x = 4 ∧
      t.pc x = s.pc x ∧ t.fld (.ctxFlt0 x.core x.n) F.ctxFlt0_CODE = f.code % 16 ∧
      t.fld (.ctxFlt0 x.core x.n) F.ctxFlt0_DETAIL = f.code / 16 % 16 ∧ t.fld (.ctxFlt0 x.core x.n) F.ctxFlt0_OP = f.op ∧
      t.fld (.ctxFlt0 x.core x.n) F.ctxFlt0_OPTAG = f.tag.toNat ∧ t.flag (.ctxFlt0 x.core x.n) F.ctxFlt0_ASYNC = true ∧
      t.flag (.ctxFlt0 x.core x.n) F.ctxFlt0_VALID = true ∧ t.fld (.ctxFlt1 x.core x.n) F.ctxFlt1_IADDR = f.iaddr % 2 ^ 48 ∧
      t.reg (.ctxFlt2 x.core x.n) = f.value ∧ (∀ r, t.sreg x r = s.sreg x r) ∧ (∀ q, t.pred x q = s.pred x q) ∧ ∀ b, t.byte b = s.byte b

/-- Where mma.pair issues in its bracket and breaks no rule (State.productFaults is empty of faults), its operands read without error, its
attempt's anchor is g, no product overflows and no NaN traps: the context goes on at the next instruction; every element of an unmasked
engine inside the logical shape holds what it held, or zero where Z is 1 or the slot was EMPTY, plus the sum of its products, each placed
on the grid of g by itself; every other element keeps its value, or is zero where an unmasked engine's tile is prepared anew; every other
slot keeps its value, and no scalar register, predicate, descriptor or other context changes. Where a NaN element is read by an armed
context, it halts at the instruction with FNREC2 valid, ARM 0 and TRAPPED 1, and the slots keep their values. -/
def Obligations.MatrixProductsAccumulate : Prop :=
  ∀ (s : State) (a : At) (pair : Pair) (ad : A3) (ta tb tc : T4) (f : ProdF) (tag : OpTag) (br : Bracket) (u v : State) (n : AnchorOf)
    (g : Int),
    let x := issuer a
    let i := s.ins x (0x80 + pairCode pair) 1 tag
    let A := s.tile x ta
    let B := s.tile x tb
    let k := s.prodK x f
    let l := u.newLatch x
    let q : AccOp := ⟨i, br, l, ad, f.z || s.slotEmpty a.core ad, g, k, roundMode f.rnd.val l k, s.tile x tc, f.emask.val⟩
    let cells := (prodLive A B q.tc f).map (v.prodCell A B q.tc)
    s.Issues a (0x80 + pairCode pair) → prodBad f false false false = false →
    firstFault (s.productFaults i pair ad ta tb tc f []) = none → (s.ctx x).bracket = some br →
    s.readRanges .quad (productReads A B f) = (u, none) → u.productAnchor i l pair ta tb f.amode.val k = (v, .ok n) →
    attemptAnchor br n.anchor = .ok (some g) → (∀ c ∈ cells, (q.sum c).ovf = false) →
    (s.Commits q cells (v.prodNans A B f) → ∃ t, exec (.mma a pair ad ta tb tc f tag) s = .next t ∧ s.RunsAt t x (s.pc x + 8) ∧
      s.Accumulated t q cells false ∧ s.KeepsRegs t x) ∧
    (s.armed x = true → v.prodNans A B f ≠ [] → ∃ t, exec (.mma a pair ad ta tb tc f tag) s = .next t ∧ t.ctxState x = 4 ∧
      t.pc x = s.pc x ∧ t.flag (.fnrec2 a.core a.n) F.fnrec2_VALID = true ∧ t.flag (.fnan a.core a.n) F.fnan_TRAPPED = true ∧
      t.flag (.fnan a.core a.n) F.fnan_ARM = false ∧ (∀ j, t.slot a.core j = s.slot a.core j) ∧ s.KeepsRegs t x)

/-- Where an mma of an operation on this module alone (PH 0, one participant) forms a product that overflows at a raise count below 3, the
context starts again behind its op.begin with the registers of the replay image and raise count n + 1, its bracket is open again with no
anchor, not ended and not sealed, every slot that the attempt wrote is EMPTY, and XLASTOV records the op tag. -/
def Obligations.OverflowingProductsReplay : Prop :=
  ∀ (s : State) (a : At) (pair : Pair) (ad : A3) (ta tb tc : T4) (f : ProdF) (tag : OpTag) (br : Bracket) (u v : State) (n : AnchorOf)
    (g : Int),
    let x := issuer a
    let i := s.ins x (0x80 + pairCode pair) 1 tag
    let A := s.tile x ta
    let B := s.tile x tb
    let k := s.prodK x f
    let l := u.newLatch x
    let q : AccOp := ⟨i, br, l, ad, f.z || s.slotEmpty a.core ad, g, k, roundMode f.rnd.val l k, s.tile x tc, f.emask.val⟩
    s.Issues a (0x80 + pairCode pair) → prodBad f false false false = false →
    firstFault (s.productFaults i pair ad ta tb tc f []) = none → (s.ctx x).bracket = some br → br.op.ph = 0 → br.raise < 3 → br.aborted = false →
    s.participants br.op = [x] → (s.ctxState x = 5 → s.isMoved x = true) →
    s.readRanges .quad (productReads A B f) = (u, none) → u.productAnchor i l pair ta tb f.amode.val k = (v, .ok n) →
    attemptAnchor br n.anchor = .ok (some g) →
    (∃ c ∈ (prodLive A B q.tc f).map (v.prodCell A B q.tc), (q.sum c).ovf = true) →
    ∃ t b, exec (.mma a pair ad ta tb tc f tag) s = .next t ∧ t.ctxState x = (if s.isMoved x = true then 5 else 1) ∧
      t.pc x = br.image.pc % 2 ^ 48 ∧ (t.ctx x).sreg = br.image.sreg ∧ (t.ctx x).pred = br.image.pred ∧ (t.ctx x).tile = br.image.tile ∧
      (t.ctx x).bracket = some b ∧ b.raise = br.raise + 1 ∧ b.op = br.op ∧ b.anchor = none ∧ b.ended = none ∧ b.sealed = false ∧
      (∀ j, (s.slot a.core j).writer = some (a.n, br.serial, br.raise) → t.slotEmpty a.core j = true ∧ t.slot a.core j = Slot.empty) ∧
      getBits (t.reg (.xlastov a.core)) (0, 16) = br.op.tag.toNat

/-- Where acc.ld (with AMODE explicit, or not the first of its attempt) or v.red issues in its bracket and breaks no rule, its window
reads without error, its attempt's anchor is g, nothing overflows and no NaN traps, the context goes on at the next instruction with the
sums in the slot, and no scalar register, predicate, descriptor or other context changes: acc.ld adds each stored A128 element of the
unmasked quadrants as one term, and takes the header's SINF; v.red adds the elements, or their squares, of each row, of each column or of
the whole window. -/
def Obligations.LoadsAndReductionsAccumulate : Prop :=
  ∀ (s : State) (a : At) (ad : A3) (ta tc : T4) (f : ProdF) (r : RedF) (tag : OpTag) (br : Bracket) (u v : State) (g a0 : Int)
    (pre : Option DelayedMax),
    let x := issuer a
    let A := s.tile x ta
    let D := s.tile x tc
    let l := u.newLatch x
    let kf := s.prodK x f
    let kr := (s.sreg x r.sk).toNat % 2 ^ 32
    let i := s.ins x 0x88 1 tag
    let j := s.ins x 0xA3 1 tag
    let q : AccOp := ⟨i, br, l, ad, f.z || s.slotEmpty a.core ad, g, kf, roundMode f.rnd.val l kf, D, f.emask.val⟩
    let p : AccOp := ⟨j, br, l, ad, s.slotEmpty a.core ad, g, kr, roundMode r.rnd.val l kr, D, 15⟩
    (s.ctx x).bracket = some br →
    (s.Issues a 0x88 → prodBad f false false false = false → firstFault (s.ldFaults i ad ta tc f) = none →
      br.wrote ≠ [] ∨ f.amode.val = 2 → s.readRanges .quad ((ldParts A f).map fun w => A.ranges w true).flatten = (u, none) →
      u.ldAnchor i br f = .ok (some g) → s.Commits q (u.ldCells A D f) (u.ldNans A f) →
      ∃ t, exec (.accLd a ad ta tc f tag) s = .next t ∧ s.RunsAt t x (s.pc x + 8) ∧
        s.Accumulated t q (u.ldCells A D f) (u.hdrSinf (lowAddr A.d2)) ∧ s.KeepsRegs t x) ∧
    (s.Issues a 0xA3 → r.ax.val ≠ 3 → r.amode.val ≠ 3 → firstFault (s.redFaults j ad ta tc r) = none →
      s.readRanges .quad (A.ranges (A.clip A.whole) true) = (u, none) → u.redAnchor j l ta r kr = (v, .ok (a0, pre)) →
      attemptAnchor br a0 = .ok (some g) → s.Commits p (v.redCells A D r) (v.nansIn A 1 (A.clip A.whole)) →
      ∃ t, exec (.vRed a ad ta tc r tag) s = .next t ∧ s.RunsAt t x (s.pc x + 8) ∧ s.Accumulated t p (v.redCells A D r) false ∧
        s.KeepsRegs t x)

/-- Where they issue, break no rule and trap at no NaN, the context goes on after a tile that writes: acc.st the elements, states and
header of R71 to R73 where every element fits its form (State.stCommit); acc.cvt the slot converted through its function
(State.cvtCommit); bp.gw, where fewer than two others are in flight on the core, its two blocked copies (State.gwCommit). The slot is
EMPTY afterwards with FREE 1 and unchanged with FREE 0; the other slots, the context's registers and the other contexts keep their values.
An acc.st that breaks no other rule and has an element that its form cannot hold is an operand fault that writes nothing. -/
def Obligations.SlotsAreStoredAndConverted : Prop :=
  ∀ (s : State) (a : At) (ta tb : T4) (ad : A3) (free : Bool) (fn : Fin 16) (tag : OpTag) (u : State) (h : DelayedMax),
    let x := issuer a
    let A := s.tile x ta
    let B := s.tile x tb
    let l := s.newLatch x
    let g := s.slotAnchor a.core ad
    let ends (run : Host.Outcome State Fault Refusal) (w : State) : Prop :=
      ∃ t, run = .next t ∧ t = s.settle w ∧ t.slot a.core ad = (if free then Slot.empty else s.slot a.core ad) ∧
        t.slotEmpty a.core ad = (free || s.slotEmpty a.core ad) ∧ (∀ j, j ≠ ad → t.slot a.core j = s.slot a.core j) ∧
        s.RunsAt t x (s.pc x + 8) ∧ s.KeepsRegs t x
    let i := s.ins x 0x89 1 tag
    let j := s.ins x 0x8A 1 tag
    let k := s.ins x 0xB0 1 tag
    (s.Issues a 0x89 → firstFault (s.stFaults i ta ad) = none → s.unfit a.core ad A = [] →
      let n := s.slotNans a.core ad A
      s.nanMet i n (n.map NanSeen.idx) A = none →
      ends (exec (.accSt a ta ad free tag) s)
        ((((s.tileStarts i [A] none (.reads g ad)).countNans i (n.length + (n.map NanSeen.idx).length)).stCommit i A free ad).advance i)) ∧
    (s.Issues a 0x89 → firstFault (s.stFaults i ta ad) = none → s.unfit a.core ad A ≠ [] →
      ∃ t, exec (.accSt a ta ad free tag) s = .next t ∧ t.ctxState x = 4 ∧ t.pc x = s.pc x ∧
        t.fld (.ctxFlt0 a.core a.n) F.ctxFlt0_CODE = 3 ∧ (∀ b, t.byte b = s.byte b) ∧ t.core.slots = s.core.slots) ∧
    (s.Issues a 0x8A → fn.val < 10 → firstFault (s.cvtFaults j ta ad) = none → s.cvtMax j l A ta ad = (u, .ok h) →
      let v := u.cvtConv a.core ad A l h fn.val
      let n := u.slotNans a.core ad A
      s.nanMet j n v.nans A = none →
      ends (exec (.accCvt a ta ad free fn tag) s)
        ((((u.tileStarts j [A] none (.reads g ad)).countNans j (n.length + v.nans.length)).cvtCommit j l A h v free ad).advance j)) ∧
    (s.Issues a 0xB0 → firstFault (s.gwFaults k ta tb ad) = none → s.inFlight [a.core] 0xB0 x < 2 → s.slotMax k l A ta g (s.slotTag a.core ad) = (u, .ok h) →
      let va := u.cvtConv a.core ad A l h 0
      let vb := u.cvtConv a.core ad B l h 0
      let n := u.slotNans a.core ad A
      s.nanMet k n (va.nans ++ vb.nans) A = none →
      ends (exec (.bpGw a ta tb ad free tag) s)
        ((((u.tileStarts k [A, B] none (.reads g ad)).countNans k (n.length + (va.nans ++ vb.nans).length)).gwCommit k l A B h va vb
          free ad).advance k))

/-- Where they issue with a defined code, break no rule, read their operands without error and trap at no NaN, the context goes on after a
tile that writes the operation's values (State.vecValue), converted into tC's format, through tC (State.vecCommit); no scalar register,
predicate, descriptor, slot or other context changes. A reserved code (13 to 31 of v.op, 0 and 10 to 15 of v.fn and v.dfn) is an
illegal-instruction fault, whatever the guard. -/
def Obligations.VectorInstructionsWriteTheirOutput : Prop :=
  ∀ (s : State) (a : At) (tc ta tb : T4) (opc : Fin 32) (bmode : Fin 4) (fc : Fin 16) (tag : OpTag),
    let x := issuer a
    let D := s.tile x tc
    let writes (run : Host.Outcome State Fault Refusal) (op : Nat) (B : T4) (o : VecOp) (m : Nat) : Prop :=
      let i := s.ins x op 1 tag
      ∀ (u w : State) (h : DelayedMax), s.Issues a op → firstFault (s.vecFaults i tc ta B o m) = none →
        s.readRanges .core (s.vecReads x tc ta B o m) = (u, none) → u.vecMax i (u.newLatch x) tc ta B o m = (w, .ok h) →
        let l := u.newLatch x
        let v := convert D l h.mant (w.vecValue x tc ta B o m) .rne noCoord
        let n := w.vecNans x tc ta B o m
        let clocks := vecClocks (D.rows * D.cols) o.interval o.latency
        s.nanMet i n v.nans D = none →
        ∃ t, run = .next t ∧ s.RunsAt t x (s.pc x + 8) ∧ s.KeepsRegs t x ∧ t.core.slots = s.core.slots ∧
          t = s.settle ((((w.vecStart i (s.tile x ta) (s.tile x B) D (o.usesB && m != 3) clocks).countNans i
            (n.length + v.nans.length)).vecCommit i l D h v (w.vecOvf x tc ta B o m) clocks).advance i)
    (opc.val < 13 → writes (exec (.vOp a tc ta tb opc bmode tag) s) 0xA0 tb (vecOpOf opc.val) bmode.val) ∧
    (1 ≤ fc.val → fc.val < 10 → writes (exec (.vFn a tc ta fc tag) s) 0xA1 0 (vecFnOf fc.val) 0) ∧
    (1 ≤ fc.val → fc.val < 10 → writes (exec (.vDfn a tc ta tb fc bmode tag) s) 0xA2 tb (vecDfnOf fc.val) bmode.val) ∧
    (s.stores = [] → s.canIssue x = true → s.fetch x (s.pc x) 1 = (s, none) →
      (13 ≤ opc.val → ∃ t, exec (.vOp a tc ta tb opc bmode tag) s = .next t ∧ s.FaultedAt t a 0xA0 tag 1 0 0) ∧
      (fc.val = 0 ∨ 10 ≤ fc.val → (∃ t, exec (.vFn a tc ta fc tag) s = .next t ∧ s.FaultedAt t a 0xA1 tag 1 0 0) ∧
        ∃ t, exec (.vDfn a tc ta tb fc bmode tag) s = .next t ∧ s.FaultedAt t a 0xA2 tag 1 0 0))

/-- Where crank.upd of a defined rule issues in full service and breaks no rule, no snapshot still copies one of its windows and fewer
than 16 others are at its Crank, it reads its windows and finds their checked blocks sound, and traps at no NaN: the context goes on after
a tile that writes the first moment, with Adam the second, and the weights of R216, each converted with dither at its tensor's id and the
weight's linear index (State.updWrites, State.updCommit); registers, slots and other contexts keep their values. While a snapshot still
copies one of its windows, or 16 others are at its Crank, the context waits at the instruction in state 3 and nothing is written. -/
def Obligations.UpdatesWriteMomentsAndWeights : Prop :=
  ∀ (s : State) (a : At) (ta tb tc tg : T4) (sp : R5) (rule : Fin 4) (tag : OpTag) (u v : State),
    let x := issuer a
    let i := s.ins x 0xB8 1 tag
    let adam := rule.val == 1
    let w := s.tile x ta
    let m := s.tile x tb
    let sec := s.tile x tc
    let g := s.tile x tg
    let pa := lowAddr (s.sreg x sp)
    let windows := s.updWindows x ta tb tc tg adam
    let l := v.newLatch x
    let writes := v.updWrites l (v.params pa) w m sec g adam
    let met := v.updNans w m sec g adam
    let made := (writes.map fun e => e.1.nans).flatten
    s.Issues a 0xB8 → rule.val < 2 → firstFault (s.updFaults i ta tb tc tg sp adam) = none →
    ((windows.all fun q => !s.snapHolds q.1 q.2) = true →
      s.inFlight (s.crankCores (s.crankUnit (clusterOf a.core))) 0xB8 x < 16 →
      s.readServed .crank (clusterOf a.core) ((pa, 64) :: windows) = (u, none) →
      u.updChecked x ta tb tc tg adam = (v, none) → s.nanMet i met made (nanOut writes w) = none →
      ∃ t, exec (.crankUpd a ta tb tc tg sp rule tag) s = .next t ∧ s.RunsAt t x (s.pc x + 8) ∧ s.KeepsRegs t x ∧
        t.core.slots = s.core.slots ∧
        t = s.settle ((((((v.dumpWindow 1 i w).dumpWindow 2 i m).tileStarts i [w, m, sec, g] none (.plain 0 0)).countNans i
          (met.length + made.length)).updCommit i l writes (v.crankUnit (clusterOf a.core)) (w.clip w.whole).cells.length).advance i)) ∧
    ((∃ q ∈ windows, s.snapHolds q.1 q.2 = true) ∨ 16 ≤ s.inFlight (s.crankCores (s.crankUnit (clusterOf a.core))) 0xB8 x → ∃ t, exec (.crankUpd a ta tb tc tg sp rule tag) s = .next t ∧ t.ctxState x = 3 ∧
      t.pc x = s.pc x ∧ (t.ctx x).wait = some .unit ∧ s.KeepsRegs t x ∧ ∀ b, t.byte b = s.byte b)

/-- op.begin of a context whose earlier work is complete, with an op tag of its table, its cleats in range, no open bracket and, under a
peloton handle, an open handle, no cause of abort and the participants' NLOC, opens a bracket of that operation at the raise count of its
table or of its attempt, with the context's registers as the replay image, and goes on. op.end in the bracket of its op tag leaves the
context waiting in state 2 with the cleat noted. PARTICIPANT_SEAL seals a participant that nothing keeps from it. ATTEMPT_COMMIT of a
sealed attempt that has nothing left to write and no instruction under way, in a cluster in P0, closes the bracket, adds 1 to the cleat if
SIG is 1, and lets the context go on after its op.end. None of them changes a scalar register, predicate, descriptor or another context. -/
def Obligations.BracketsOpenSealAndCommit : Prop :=
  ∀ (s : State) (a : At) (tag : OpTag) (br : Bracket),
    let x := issuer a
    let cur := (s.ctx x).bracket
    (∀ (clb : Cleat) (cln : Fin 16) (sa : R5) (u : State) (n : Nat),
      let v := (s.sreg x sa).toNat
      let ph := v % 2 ^ 14
      let nloc := v / 2 ^ 16 % 256
      let op : OpId := ⟨tag, (s.ctx x).mbatch, (s.stepOf x).truncate 32, ph, if ph = 0 then some x else none⟩
      s.Issues a 0x9C → s.quietT x = true → cur = none → tag ≠ 0 → s.opEntry x tag ≠ none → cln = 0 ∨ s.cleatOk x clb.val cln.val = true →
      (ph ≠ 0 → s.openHandle ph = true ∧ nloc ≠ 0 ∧ (s.attempt op).cause = none ∧
        ∀ y ∈ s.participants op, ∀ b, (s.ctx y).bracket = some b → b.nloc = nloc) →
      s.startRaise x tag = (u, .ok n) →
      ∃ t b, exec (.opBegin a clb cln sa tag) s = .next t ∧ s.RunsAt t x (s.pc x + 8) ∧ s.KeepsRegs t x ∧ (t.ctx x).bracket = some b ∧
        b.op = op ∧ b.nloc = (if ph = 0 then 1 else nloc) ∧ b.raise = (if ph = 0 then n else max n (s.attempt op).raise) ∧
        b.anchor = none ∧ b.ended = none ∧ b.sealed = false ∧ b.image.pc = s.pc x + 8 ∧ b.image.sreg = (s.ctx x).sreg ∧
        b.image.pred = (s.ctx x).pred ∧ b.image.tile = (s.ctx x).tile ∧ t.fld (.opst a.core a.n) (0, 16) = tag.toNat) ∧
    (∀ (cl : Cleat) (sig : Bool), s.Issues a 0x9D → cur = some br → tag ≠ 0 → br.op.tag = tag → s.cleatOk x cl.val 1 = true →
      ∃ t, exec (.opEnd a cl sig tag) s = .next t ∧ t.ctxState x = 2 ∧ t.pc x = s.pc x ∧ (t.ctx x).wait = some .opEnd ∧
        (t.ctx x).bracket = some { br with ended := some (cl, sig) } ∧ s.KeepsRegs t x ∧ ∀ b, t.byte b = s.byte b) ∧
    (∀ y : CtxId, s.stores = [] → (s.ctx y).bracket = some br → s.maySeal y br = true →
      ∃ t, exec (.participantSeal y) s = .next t ∧ (t.ctx y).bracket = some { br with sealed := true } ∧
        (br.op.ph = 0 → t.fld (.opst y.core y.n) F.opst_SEALED = 1) ∧ s.KeepsRegs t y ∧ ∀ b, t.byte b = s.byte b) ∧
    (∀ (y : CtxId) (cl : Cleat) (sig : Bool), s.stores = [] → (s.ctx y).bracket = some br → br.ended = some (cl, sig) →
      (s.ctx y).wait = some .opEnd → s.ctxState y = 2 → br.aborted = false → br.sealed = true → s.opSealed br.op = true →
      s.openParts y br.serial = [] → s.bracketBusy y br.serial = false →
      s.pstate (clusterOf y.core) = 0 →
      ∃ t, exec (.attemptCommit y) s = .next t ∧ (t.ctx y).bracket = none ∧ s.RunsAt t y (s.pc y + 8) ∧ s.KeepsRegs t y ∧
        t.core.slots = s.core.slots ∧ t.reg (.clt y.core cl) = s.reg (.clt y.core cl) + (if sig then 1 else 0))

/-- TILE_END of a running tile whose cluster clock runs, without pair mode, a selected spot check or a rerun that captures tiles, notes
its time and latches the context's registers and the live generation: the last tile of an instruction ends and the context runs none;
after another one the next tile of the same instruction runs. Without a running tile it changes nothing. SQACC_OWNER_CHANGE of a slot
whose changed owner waits, with no tile in flight on it, gives the slot to the context that SQACC names and makes it EMPTY; a slot without
a waiting change is left alone. -/
def Obligations.TilesAndOwnersChangeOver : Prop :=
  ∀ (s : State) (x : CtxId) (t : TileRun) (bad : Option (Fin 4)) (c : Fin 256) (j : A3), s.stores = [] →
    ((s.ctx x).run = some t → s.clockStands x = false → s.flag (.corePairctl x.core) F.corePairctl_ACTIVE = false →
      s.spotSelected t = false → s.int.rerun ≠ 2 → ∃ u, exec (.tileEnd x bad) s = .next u ∧ (u.ctx x).latch = s.newLatch x ∧
        (t.left = 0 → (u.ctx x).run = none) ∧ (t.left ≠ 0 → ∃ v, (u.ctx x).run = some v ∧ v.left + 1 = t.left ∧ v.ins = t.ins) ∧
        u.fld (.coreTend x.core) F.coreTend_TIME = s.time % 2 ^ F.coreTend_TIME.2 ∧ s.KeepsRegs u x ∧
        u.core.slots = s.core.slots ∧ ∀ b, u.byte b = s.byte b) ∧
    ((s.ctx x).run = none → exec (.tileEnd x bad) s = .next s) ∧
    (s.core.owners.has ⟨c, j⟩ = true → s.slotBusy c j = false →
      s.core.owners.get ⟨c, j⟩ 0 ≠ Fin.ofNat _ (s.fld (.coreSqacc c) (2 * j.val, 2)) →
      ∃ u, exec (.sqaccOwnerChange c j) s = .next u ∧ u.slotEmpty c j = true ∧ u.slot c j = Slot.empty ∧
        u.slotOwner c j = Fin.ofNat _ (s.fld (.coreSqacc c) (2 * j.val, 2)) ∧ (∀ k, k ≠ j → u.slot c k = s.slot c k)) ∧
    (s.core.owners.has ⟨c, j⟩ = false → exec (.sqaccOwnerChange c j) s = .next s)

/-- Where mma.rs issues in full service in the bracket of its open peloton, whose collective this module has joined with the same
signature and which waits for GO, with SEND a fabric context is free, its attempt's anchor is g, it breaks no rule and, with EMASK not 0,
reads its operands without error and commits its sums: the context goes on past both words and no scalar register, predicate, descriptor
or other context changes. With SEND the block is noted as sent and SUM packets for the owner of its stripe wait with the collective. With
FREE 0, the slot gains the sums of the product, as for mma, where EMASK is not 0, and every slot is as before where it is 0; with EMASK 0,
SEND and FREE the slot is EMPTY. -/
def Obligations.ReduceScatterProducts : Prop :=
  ∀ (s : State) (a : At) (pair : Pair) (ad : A3) (ta tb tc : T4) (f : ProdF) (tag : OpTag) (w : Word1) (br : Bracket) (d : PltDesc)
    (c : Coll) (u v : State) (n : AnchorOf) (g : Int),
    let x := issuer a
    let i := s.ins x (0xC0 + pairCode pair) 2 tag
    let A := s.tile x ta
    let B := s.tile x tb
    let D := s.tile x tc
    let k := s.prodK x f
    let extra := if f.send then s.sendFaults i d w tc else []
    let joined := s.coll w.ph.toNat w.seq.toNat d.epoch = some c ∧ c.joined = true ∧ c.closed = false ∧
      c.sig = fusedSig i d w f k (s.tile x w.t2).fmt D ∧ c.go = false
    let handed (t : State) : Prop := f.send = true → ∃ e l, t.coll w.ph.toNat w.seq.toNat d.epoch = some e ∧ e.sent = c.sent ++ [blockOf D] ∧
      e.waiting = c.waiting ++ l ∧ ∀ p ∈ l, p.typ = 0x0A ∧ p.dst = d.owner (d.stripe D)
    s.Issues a (0xC0 + pairCode pair) → prodBad f true false true = false → w.cap = 0 → (s.ctx x).bracket = some br → firstFault (s.fusedFaults x w true) = none →
    s.descFor (s.fusedGen i) w.ph.toNat = some d → s.epochWaits w.ph.toNat d.epoch = false → joined →
    (f.send = true → (s.freeFctx a.core).isSome = true) →
    (f.emask ≠ 0 → firstFault (s.productFaults i pair ad ta tb tc f extra) = none →
      let l := u.newLatch x
      let q : AccOp := ⟨i, br, l, ad, f.z || s.slotEmpty a.core ad, g, k, roundMode f.rnd.val l k, D, f.emask.val⟩
      let cells := (prodLive A B D f).map (v.prodCell A B D)
      s.readRanges .quad (productReads A B f) = (u, none) → u.productAnchor i l pair ta tb f.amode.val k = (v, .ok n) →
      attemptAnchor br n.anchor = .ok (some g) → s.Commits q cells (v.prodNans A B f) →
      ∃ t, exec (.mmaRs a pair ad ta tb tc f tag w) s = .next t ∧ s.RunsAt t x (s.pc x + 16) ∧ s.KeepsRegs t x ∧ handed t ∧
        (f.free = false → s.Accumulated t q cells false)) ∧
    (f.emask = 0 → firstFault (s.accFaults i ad false ++ s.descFaults D tc false false false ++ amodeBad pair f.amode.val ++ extra ++
        s.entryFaults i f.amode.val f.rnd.val D k) = none →
      s.productAnchor i (s.newLatch x) pair ta tb f.amode.val k = (v, .ok n) → attemptAnchor br n.anchor = .ok (some g) →
      ∃ t, exec (.mmaRs a pair ad ta tb tc f tag w) s = .next t ∧ s.RunsAt t x (s.pc x + 16) ∧ s.KeepsRegs t x ∧ handed t ∧
        (f.free = false → t.core.slots = s.core.slots) ∧ (f.send = true → f.free = true → t.slotEmpty a.core ad = true))

/-- Where ag.mma issues in the bracket of its open peloton and breaks no rule, and its collective is joined with the same signature, holds
this instruction and GO and has pushed this member's shards: with every share whole in the gather cache, the operands reading without
error, the attempt's anchor g and sums that commit, the operand's window is filled from the cache and the slot gains the sums of the
product over it, as for mma, and the context goes on past both words; with a share missing, the context waits at the instruction in state
3 and every slot is as before. No scalar register, predicate, descriptor or other context changes. -/
def Obligations.GatheredProducts : Prop :=
  ∀ (s : State) (a : At) (pair : Pair) (ad : A3) (ta tb tc : T4) (f : ProdF) (tag : OpTag) (w : Word1) (br : Bracket) (d : PltDesc)
    (c : Coll) (e : GEntry) (u v : State) (n : AnchorOf) (g : Int),
    let x := issuer a
    let i := s.ins x (0xC8 + pairCode pair) 2 tag
    let gn := if f.ga then ta else tb
    let G := s.tile x gn
    let A := s.tile x ta
    let B := s.tile x tb
    let D := s.tile x tc
    let k := s.prodK x f
    let sizes := shardSizes d G
    let s1 := (s.modColl c fun c => c).fillGathered d e G
    s.Issues a (0xC8 + pairCode pair) → prodBad f false true false = false → w.cap = 0 → (s.ctx x).bracket = some br →
    firstFault (s.fusedFaults x w true) = none → s.descFor (s.fusedGen i) w.ph.toNat = some d →
    firstFault (s.agFaults i d w G gn) = none → s.epochWaits w.ph.toNat d.epoch = false →
    s.gatherEntry w.ph.toNat w.seq.toNat = some e → s.coll w.ph.toNat w.seq.toNat d.epoch = some c → c.joined = true → c.closed = false →
    c.sig = fusedSig i d w f k (s.tile x w.t2).fmt D → c.parts.any (Part.of i br.serial) = true → c.go = true → c.sent ≠ [] →
    ((c.wholeShares sizes).length = sizes.length → firstFault (s1.productFaults i pair ad ta tb tc f []) = none →
      let l := u.newLatch x
      let q : AccOp := ⟨i, br, l, ad, f.z || s.slotEmpty a.core ad, g, k, roundMode f.rnd.val l k, D, f.emask.val⟩
      let cells := (prodLive A B D f).map (v.prodCell A B D)
      s1.readRanges .quad (productReads A B f) = (u, none) → u.productAnchor i l pair ta tb f.amode.val k = (v, .ok n) →
      attemptAnchor br n.anchor = .ok (some g) → s.Commits q cells (v.prodNans A B f) →
      ∃ t, exec (.agMma a pair ad ta tb tc f tag w) s = .next t ∧ s.RunsAt t x (s.pc x + 16) ∧ s.KeepsRegs t x ∧
        s.Accumulated t q cells false) ∧
    ((c.wholeShares sizes).length < sizes.length → ∃ t, exec (.agMma a pair ad ta tb tc f tag w) s = .next t ∧ t.ctxState x = 3 ∧
      t.pc x = s.pc x ∧ (t.ctx x).wait = some .unit ∧ t.core.slots = s.core.slots ∧ s.KeepsRegs t x)

/-- Where xd.disp issues in a context whose first-NaN trap is not armed, breaks no rule, reads without error and names no expert out of
range, no tile of the context runs, no watchpoint matches, a fabric context is free, and its collective is joined here with the same
signature and waits for GO, one XROW packet for every kept choice and one DONE notice for every share wait with the collective, and the
context goes on past both words. Where xd.comb issues so in its bracket, in full service, with a kept choice whose row has not returned
and no other xd.comb waiting, it is registered with the collective and the context goes on past both words. -/
def Obligations.ExpertRowsLeaveAndReturn : Prop :=
  ∀ (s : State) (a : At) (ta tb tc : T4) (f : ProdF) (tag : OpTag) (w : Word1) (d : PltDesc) (c : Coll) (u : State),
    let x := issuer a
    let A := s.tile x ta
    let B := s.tile x tb
    let O := s.tile x tc
    let T := s.tile x w.t2
    let i := s.ins x 0xD0 2 tag
    let j := s.ins x 0xD1 2 tag
    let k := (s.sreg x f.sk).toNat % 2 ^ 32
    let quiet (i : Ins) : Prop := (s.ctx x).run = none ∧ ∀ n, s.watchers i n = []
    let joined (sig : Nat) : Prop := s.coll w.ph.toNat w.seq.toNat d.epoch = some c ∧ c.joined = true ∧ c.closed = false ∧ c.sig = sig ∧
      c.go = false
    let reads := T.ranges (T.clip T.whole) true ++ A.ranges (A.clip A.whole) false
    exchangeBad f = false → w.cap ≠ 0 → (s.freeFctx a.core).isSome = true → s.epochWaits w.ph.toNat d.epoch = false →
    (s.Issues a 0xD0 → s.descFor (s.fusedGen i) w.ph.toNat = some d → s.armed x = false → firstFault (s.fusedFaults x w false) = none → firstFault (s.dispFaults i d w ta tb) = none → quiet i →
      s.readRanges .pump reads = (u, none) → (∀ q ∈ u.choices T, q.expert < d.nexp) →
      joined (signature 0xD0 0 0 T.fmt w.ph.toNat w.seq.toNat tag w.cap.toNat B.tid d.epoch B.lrows B.lcols d.dhash) →
      ∃ t e l, exec (.xdDisp a ta tb f tag w) s = .next t ∧ s.RunsAt t x (s.pc x + 16) ∧ s.KeepsRegs t x ∧
        t.coll w.ph.toNat w.seq.toNat d.epoch = some e ∧ e.waiting = c.waiting ++ l ∧
        (l.filter fun p => p.typ == 0x0C).length = (u.kept T w.cap.toNat).length ∧
        (l.filter fun p => p.typ == 0x09).length = d.nshare ∧ l.length = (u.kept T w.cap.toNat).length + d.nshare) ∧
    (∀ br : Bracket, s.Issues a 0xD1 → s.descFor (s.fusedGen j) w.ph.toNat = some d → (s.ctx x).bracket = some br → firstFault (s.fusedFaults x w true) = none →
      firstFault (s.combFaults j d w ta tb tc f k) = none → quiet j → s.readRanges .quad reads = (u, none) →
      (∃ q ∈ u.kept T w.cap.toNat, ∀ h ∈ c.shards, h.2.1 ≠ q.row * T.topk + q.k) → (∀ p ∈ c.parts, p.ins.op ≠ 0xD1) →
      joined (fusedSig j d w f k T.fmt O) →
      ∃ t e p, exec (.xdComb a ta tb tc f tag w) s = .next t ∧ s.RunsAt t x (s.pc x + 16) ∧ s.KeepsRegs t x ∧
        t.coll w.ph.toNat w.seq.toNat d.epoch = some e ∧ e.parts = c.parts ++ [p] ∧ p.ins = j ∧ p.clc = w.clc ∧ p.formed = false ∧
        p.cap = w.cap.toNat)

/-- While the Hub runs, an aligned REGISTER_WRITE that its privilege permits has its register's effect on the accessed half: of a register
that holds only fields, each accessed bit takes the written one if RW, or RWL and unlocked, sets if W1S and clears if W1C and written 1,
and else stays, a field keeping its value where it cannot take the new one; one not permitted changes nothing. RC_COUNTER_READ answers the
register's value at its width, 0 where the privilege may not read it and for write-only fields, and clears, above privilege 2, exactly the
RC bits of the accessed half. P2_SHADOW_ACCESS does what the write or read of that register does. A write of an unassigned offset is
recorded and counted and changes nothing else. A misaligned write changes nothing and a misaligned read answers an abort. A 1-byte or
2-byte access of a core is an address fault, or an alignment fault, that reads and writes nothing; of another agent a write does nothing
and a read answers an abort. -/
def Obligations.RegisterAccessesFollowTheirCodes : Prop :=
  ∀ (s : State) (q : CtlAcc) (v : Word), s.stores = [] → s.hubRuns = true →
    let off := q.off.toNat
    let m := accessBits off q.size
    let w := accessValue off q.size v
    let shows (x : Word) : Out := .data (toBytes (ctlBytes q.size) (accessPart off q.size x).toNat)
    (∀ r : Reg, accBad q = false → ctlPlace off = .reg r →
      (r.writable q.priv = true → exec (.registerWrite q v) s = .next (s.settle (s.ctlEffect q.priv r w m))) ∧
      (r.writable q.priv = true → r.plain = true → ∃ t new, exec (.registerWrite q v) s = .next t ∧
        t.reg r = s.refine r (s.reg r) new &&& r.mask ∧ (∀ p, p ≠ r → t.reg p = s.reg p) ∧ t = { s with regs := t.regs } ∧
        ∀ i, bit new i = (if bit m i && bit w i && bit (r.bitsOf .w1s) i then true
          else if bit m i && bit w i && bit (r.bitsOf .w1c) i then false
          else if bit m i && (bit (r.bitsOf .rw) i || bit (r.bitsOf .rwl) i && !bit (s.reg .hubLock) r.lockBit) then bit w i
          else bit (s.reg r) i)) ∧
      (r.writable q.priv = false → exec (.registerWrite q v) s = .next s) ∧
      (r.readable q.priv = true → q.priv ≠ .job → r ≠ .evrWin 7 → ∃ t, exec (.rcCounterRead q) s = .next t ∧
        t.out = s.out ++ [shows (s.view r &&& r.readMask)] ∧
        t.reg r = s.reg r &&& ~~~(r.bitsOf .rc &&& m) ∧ (∀ p, p ≠ r → t.reg p = s.reg p) ∧ t = { s with regs := t.regs, out := t.out }) ∧
      (r.readable q.priv = true → q.priv ≠ .job → ∃ t, exec (.rcCounterRead q) s = .next t ∧
        t.out = s.out ++ [shows (s.view r &&& r.readMask)]) ∧
      (q.priv = .job → r.readable .job = true → exec (.rcCounterRead q) s = .next { s with out := s.out ++ [shows (s.view r &&& r.readMask)] }) ∧
      (r.readable q.priv = false → exec (.rcCounterRead q) s = .next { s with out := s.out ++ [shows 0] }) ∧
      (∃ t, exec (.p2ShadowAccess q true v) s = .next t ∧ exec (.registerWrite q v) s = .next t) ∧
      (∃ t, exec (.p2ShadowAccess q false v) s = .next t ∧ exec (.rcCounterRead q) s = .next t)) ∧
    (accBad q = false → ctlPlace off = .unassigned → ∃ t, exec (.unassignedOffsetWrite q v) s = .next t ∧
      t.fld .intUawcnt F.intUawcnt_COUNT = min (s.fld .intUawcnt F.intUawcnt_COUNT + 1) (2 ^ 32 - 1) ∧
      t.fld .intUawlast F.intUawlast_OFFSET = off ∧ t.flag .intUawlast F.intUawlast_VALID = true ∧
      (∀ p, p ≠ .intUawcnt → p ≠ .intUawlast → t.reg p = s.reg p) ∧ t = { s with regs := t.regs }) ∧
    (accBad q = true → exec (.registerWrite q v) s = .next s ∧ exec (.unassignedOffsetWrite q v) s = .next s ∧
      exec (.rcCounterRead q) s = .next { s with out := s.out ++ [.abort] }) ∧
    (∀ (o : BitVec 30) (two : Bool) (h : BitVec 16),
      exec (.controlWindowNarrowAccess none o two true h) s = .next s ∧
      exec (.controlWindowNarrowAccess none o two false h) s = .next { s with out := s.out ++ [.abort] } ∧
      ∀ (a : At) (write : Bool), s.Issues a (if write then 0x37 + b2n two else 0x30 + b2n two) →
        let g := 0xFF0000000000 + o.toNat
        ∃ t, exec (.controlWindowNarrowAccess (some a) o two write h) s = .next t ∧
          s.FaultedAt t a (if write then 0x37 + b2n two else 0x30 + b2n two) 0 (if two = true ∧ o.toNat % 2 = 1 then 5 else 6) 0 g)

/-- While the Hub runs, at privilege 0 or 1: a write of HUB_LOCK sets the lock bits that are written 1 and clears none; CLRn takes a
written range of at least one cleat that ends at 256 or below while its context is idle, and keeps its value while it is not; CLUk_DRLCTL
without RESTART takes TARGET 0 to 2 and keeps it for 3, and with RESTART also restarts the cluster. At privilege 2 none of them changes
anything. -/
def Obligations.LocksCleatRangesAndTargets : Prop :=
  ∀ (s : State) (p : Priv) (size : CtlSize) (v : Word), s.stores = [] → s.hubRuns = true →
    (p ≠ .job → ∃ t, exec (.hubLockWrite p size v) s = .next t ∧
      (∀ i, i < 11 → bit (t.reg .hubLock) i = (bit (s.reg .hubLock) i || bit v i)) ∧
      (∀ r, r ≠ .hubLock → t.reg r = s.reg r) ∧ t = { s with regs := t.regs }) ∧
    (∀ x : CtxId, p ≠ .job →
      let r : Reg := .clr x.core x.n
      (s.ctxState x = 0 → getBits v F.clr_COUNT ≠ 0 → getBits v F.clr_BASE + getBits v F.clr_COUNT ≤ 256 →
        ∃ t, exec (.clrnWrite p x size v) s = .next t ∧ t.fld r F.clr_BASE = getBits v F.clr_BASE ∧
          t.fld r F.clr_COUNT = getBits v F.clr_COUNT ∧ (∀ q, q ≠ r → t.reg q = s.reg q) ∧ t = { s with regs := t.regs }) ∧
      (s.ctxState x ≠ 0 ∨ getBits v F.clr_COUNT = 0 ∨ 256 < getBits v F.clr_BASE + getBits v F.clr_COUNT →
        ∃ t, exec (.clrnWrite p x size v) s = .next t ∧ ∀ q, t.reg q = s.reg q)) ∧
    (∀ k : Fin 16, p ≠ .job → bit v 4 = false → ∃ t, exec (.drlctlTargetWrite p k size v) s = .next t ∧
      t.fld (.cluDrlctl k) F.cluDrlctl_TARGET = (if v.toNat % 4 = 3 then s.fld (.cluDrlctl k) F.cluDrlctl_TARGET else v.toNat % 4) ∧
      (∀ b, t.byte b = s.byte b) ∧ t.core = s.core) ∧
    (∀ k : Fin 16, p ≠ .job → bit v 4 = true → let o := (Reg.cluDrlctl k).offset
      exec (.drlctlTargetWrite p k size v) s =
        .next (s.settle ((s.writeTarget k (accessValue o size v) (accessBits o size)).restartCluster k))) ∧
    (∀ (x : CtxId) (k : Fin 16), exec (.hubLockWrite .job size v) s = .next s ∧ exec (.clrnWrite .job x size v) s = .next s ∧
      exec (.drlctlTargetWrite .job k size v) s = .next s)

/-- INTERRUPT_EDGE sets the source's pend bit and counts the edge; one on a routed source that was not pending sends its vector's message,
or sets its PBA bit where MSI-X is off or masked; no memory and no context changes. While the Hub runs: ICU_RAISE is such an edge at
privilege 0, and at privilege 1 on sources 192 to 223, and nothing otherwise; ICU_PEND_CLEAR clears the bits written 1 above privilege 2;
ICU_ROUTE_WRITE at privilege 1 sets a route that the Hub does not own and that names no Hub core, and leaves one that the Hub owns.
MSIX_UNMASK unmasks its vector and sends a held message. HUB_TIMER_EXPIRE at its deadline returns the deadline to 0 and pends the timer's
source, and before it changes nothing. HUB_WATCHDOG_EXPIRE records its fatal event and resets the module. -/
def Obligations.InterruptsPendCountAndSend : Prop :=
  ∀ (s : State), s.stores = [] →
    (∀ (d : Fin 2) (src : Fin 512),
      let p : Reg := .icuPend d ⟨src.val / 64, by omega⟩
      let n : Reg := .icuCnt d ⟨src.val / 8, by omega⟩
      let f : Nat × Nat := (8 * (src.val % 8), 8)
      ∃ t, exec (.interruptEdge d src) s = .next t ∧ bit (t.reg p) (src.val % 64) = true ∧ t.fld n f = min (s.fld n f + 1) 255 ∧
        (∀ r, r ≠ p → r ≠ n → t.reg r = s.reg r) ∧ t = { s with regs := t.regs, host := t.host, out := t.out } ∧
        (∀ h : src.val < 256,
          let r : Reg := .icuRoute d ⟨src.val, h⟩
          let vec := s.fld r F.icuRoute_VECTOR
          let e := s.host.msix.get vec MsixEntry.reset
          bit (s.reg p) (src.val % 64) = false → s.flag r F.icuRoute_EN = true → s.flag r F.icuRoute_KIND = true →
          if s.host.msixEnable = true ∧ s.host.msixMask = false ∧ s.host.d3hot = false ∧ e.masked = false
          then t.out = s.out ++ [.msi vec e.addr e.data] ∧ t.host = s.host
          else t.out = s.out ∧ t.host.pba.get vec false = true) ∧
        (bit (s.reg p) (src.val % 64) = true ∨ 256 ≤ src.val → t.out = s.out ∧ t.host = s.host)) ∧
    (s.hubRuns = true → ∀ (p : Priv) (d : Fin 2) (src : Fin 512),
      if p = .hub ∨ (p = .driver ∧ 192 ≤ src.val ∧ src.val < 224) then exec (.icuRaise p d src) s = exec (.interruptEdge d src) s
      else exec (.icuRaise p d src) s = .next s) ∧
    (s.hubRuns = true → ∀ (p : Priv) (d : Fin 2) (i : Fin 8) (v : Word), p ≠ .job →
      ∃ t, exec (.icuPendClear p d i v) s = .next t ∧ t.reg (.icuPend d i) = s.reg (.icuPend d i) &&& ~~~v ∧
        (∀ r, r ≠ .icuPend d i → t.reg r = s.reg r) ∧ t = { s with regs := t.regs }) ∧
    (s.hubRuns = true → ∀ (d : Fin 2) (n : Fin 256) (v : Word), let r : Reg := .icuRoute d n
      (s.flag r F.icuRoute_OWN = false → bit v 1 = true → ∃ t, exec (.icuRouteWrite .driver d n v) s = .next t ∧
        t.flag r F.icuRoute_EN = bit v 0 ∧ t.flag r F.icuRoute_KIND = true ∧ t.fld r F.icuRoute_VECTOR = getBits v F.icuRoute_VECTOR ∧
        t.flag r F.icuRoute_OWN = false ∧ ∀ q, q ≠ r → t.reg q = s.reg q) ∧
      (s.flag r F.icuRoute_OWN = true ∨ bit v 1 = false → exec (.icuRouteWrite .driver d n v) s = .next s)) ∧
    (∀ vec : BitVec 11, ∃ t, exec (.msixUnmask vec) s = .next t ∧ (t.host.msix.get vec.toNat MsixEntry.reset).masked = false ∧
      (s.host.pba.get vec.toNat false = true → s.host.msixEnable = true → s.host.msixMask = false → s.host.d3hot = false →
        t.host.pba.get vec.toNat false = false ∧ ∃ e, e = s.host.msix.get vec.toNat MsixEntry.reset ∧
        t.out = s.out ++ [.msi vec.toNat e.addr e.data])) ∧
    (∀ (d : Fin 2) (n : Fin 4) (k : Fin 16), let v := s.fld (.icuHtmr d n k) F.icuHtmr_DEADLINE
      (v ≠ 0 → v ≤ s.time → ∃ t, exec (.hubTimerExpire d n k) s = .next t ∧ t.fld (.icuHtmr d n k) F.icuHtmr_DEADLINE = 0 ∧
        bit (t.reg (.icuPend d ⟨(256 + 64 * n.val + k.val) / 64, by omega⟩)) ((256 + 64 * n.val + k.val) % 64) = true) ∧
      (v = 0 ∨ s.time < v → exec (.hubTimerExpire d n k) s = .next s)) ∧
    (s.hubRuns = true → ∀ (d : Fin 2) (n : Fin 4), ∃ u, exec (.hubWatchdogExpire d n) s = .next (s.settle (State.moduleReset u 3)) ∧
      u = (s.raiseEv d 6 0x60 [(1, 4 * d.val + n.val), (4, imageVer s.fw.runSlot s.fw.running)]).writeFatals
        (s.raiseEv d 6 0x60 [(1, 4 * d.val + n.val), (4, imageVer s.fw.runSlot s.fw.running)]).events.length)

/-- While the Hub runs, at privilege 0 or 1 and with room in the event queue: ODOMETER_RECORD_WRITE takes the first fatal event, or else
the oldest, out of the queue and appends its records with consecutive SEQ to the open sector where the log and the sector have room; where
the write fails twice, the sector is bad, the event stays queued and event 0x06:0x0052 follows; with an empty queue nothing changes.
EVR_CURSOR_WRITE shows the live record at or after the cursor in EVR_WIN0-7, or NONE with zeros; EVR_WINDOW_ADVANCE answers EVR_WIN7 at
its width and, with AUTO 1 and NONE 0, moves the cursor past the latched record. ODOMETER_CLEAR supersedes the whole events at or before
UPTO of severity at most SEVMAX, zeroes EVR_DROP and sets CLEARING, but is ignored during CLEARING; ODOMETER_CLEAR_DONE ends it and
records its event. LIFE_COUNTER_WRITE, when due and not failing twice, writes the operating seconds. -/
def Obligations.OdometerLogsShowsAndClears : Prop :=
  ∀ (s : State), s.stores = [] → s.hubRuns = true →
    let win (f : FlashState) (c : Nat) (t : State) : Prop :=
      match f.atCursor c with
      | none => t.flag .evrCur F.evrCur_NONE = true ∧ ∀ i, t.reg (.evrWin i) = 0
      | some r => t.flag .evrCur F.evrCur_NONE = false ∧
          ∀ i, t.reg (.evrWin i) = BitVec.ofNat 64 (ofBytes ((r.bytes.drop (8 * i.val)).take 8))
    (∀ (fails : Fin 3) (e : Event), s.events[s.nextRecord]? = some e → fails ≠ 2 →
      let q := s.flash.sector s.flash.openSector
      let n := (s.recordsOf e).length
      s.flash.live + n ≤ odoMax → q.retired = false → q.used + n ≤ sectorSlots →
      ∃ t, exec (.odometerRecordWrite fails) s = .next t ∧ t.events = s.events.eraseIdx s.nextRecord ∧
        t.flash.odo = s.flash.odo ++ (s.recordsOf e).map (fun r => { r with sector := s.flash.openSector }) ∧
        t.flash.nextSeq = (s.flash.nextSeq + n) % 2 ^ 32 ∧ (∀ b, t.byte b = s.byte b) ∧ t.core = s.core) ∧
    (∀ e, s.events[s.nextRecord]? = some e → s.events.length < 4096 →
      ∃ t d, exec (.odometerRecordWrite 2) s = .next t ∧ (t.flash.sector s.flash.openSector).bad = true ∧ t.flash.odo = s.flash.odo ∧
        t.events = s.events ++ [{ cls := 6, code := 0x52, die := 0, data := d }]) ∧
    (∀ fails : Fin 3, s.events = [] → exec (.odometerRecordWrite fails) s = .next s) ∧
    (∀ (p : Priv) (size : CtlSize) (v : Word), p ≠ .job → ∃ t, exec (.evrCursorWrite p size v) s = .next t ∧
      t.fld .evrCur F.evrCur_SEQ = getBits v (0, 32) ∧ win s.flash (getBits v (0, 32)) t ∧ t.flash = s.flash) ∧
    (∀ (p : Priv) (size : CtlSize), p ≠ .job →
      let v := s.reg (.evrWin 7)
      let read := s.out ++ [.data (toBytes (ctlBytes size) (match size with
        | .w4 => v >>> 32
        | .w8 => v).toNat)]
      (∀ q, s.flag .evrCur F.evrCur_AUTO = true → s.flag .evrCur F.evrCur_NONE = false → s.fw.latched = some q →
        ∃ t, exec (.evrWindowAdvance p size) s = .next t ∧ t.out = read ∧ win s.flash ((q + 1) % 2 ^ 32) t) ∧
      (s.flag .evrCur F.evrCur_AUTO = false → exec (.evrWindowAdvance p size) s = .next { s with out := read })) ∧
    (∀ (p : Priv) (upto : BitVec 32) (sev : Fin 4), p ≠ .job →
      let d (q : Nat) : Nat := (q + 2 ^ 32 - s.fld .evrSeq F.evrSeq_OLDEST) % 2 ^ 32
      (s.fw.clearing = none → ∃ t, exec (.odometerClear p upto sev) s = .next t ∧ t.fld .evrDrop F.evrDrop_COUNT = 0 ∧
        t.flag .evrStat F.evrStat_CLEARING = true ∧ t.fw.clearing.isSome = true ∧ t.events = s.events ∧
        t.flash = { s.flash with odo := supersedeIf (fun r => decide (d r.seq ≤ d upto.toNat ∧ r.sev ≤ sev.val)) false s.flash.odo }) ∧
      (s.fw.clearing ≠ none → exec (.odometerClear p upto sev) s = .next s)) ∧
    (∀ q, s.fw.clearing = some q → s.events.length < 4096 → ∃ t, exec .odometerClearDone s = .next t ∧ t.fw.clearing = none ∧
      t.flag .evrStat F.evrStat_CLEARING = false ∧
      t.events = s.events ++ [{ cls := 6, code := 0x50, die := 0, data := [(4, q.1), (1, q.2.1), (4, q.2.2)] }]) ∧
    (∀ fails : Fin 3, fails ≠ 2 → s.fw.lifeAt + 6000000000 ≤ s.time → ∃ t, exec (.lifeCounterWrite fails) s = .next t ∧
      t.flash.opsec = s.opsecNow % 2 ^ 40 ∧ t.fld .clkOpsec F.clkOpsec_SECONDS = s.opsecNow % 2 ^ 40 ∧
      t.fld .clkPcycle F.clkPcycle_COUNT = s.flash.pcycle % 2 ^ 32 ∧ t.fw.lifeAt = s.time ∧ t.flash.odo = s.flash.odo)

/-- While the Hub runs, at privilege 0 or 1: PMU_LATCH copies every PMU counter and the time into the latched registers and changes
nothing else; PMU_MARK with Yalar-0 tracing on, kind 12 enabled and room in the Hub's queue queues a MARK record with the value.
TRACE_RECORD_WRITE of a source without a record changes nothing; where the Pannier of its die takes no records it discards the oldest
record; with tracing on, a ring that does not stop when full, no memory word in error and no record of the source dropped before, it
writes the record's 32 bytes at the write pointer, which advances by 32. TELEMETRY_PAGE when due, and not in a takeover's freeze, puts the
page's words into PMU_TELPAGE and advances the page's number; before it is due nothing changes. -/
def Obligations.CountersLatchAndRecordsReachTheirRing : Prop :=
  ∀ (s : State), s.stores = [] → s.hubRuns = true →
    (∀ p : Priv, p ≠ .job → ∃ t, exec (.pmuLatch p) s = .next t ∧ (∀ n, t.reg (.pmuLctr n) = s.reg (.pmuCtr n)) ∧
      t.reg .pmuLtime = BitVec.ofNat 64 s.time ∧ (∀ r, (∀ n, r ≠ .pmuLctr n) → r ≠ .pmuLtime → t.reg r = s.reg r) ∧ t = { s with regs := t.regs }) ∧
    (∀ (p : Priv) (v : Word), p ≠ .job → s.pannier 0 = true → s.flag (.pmuTrCtl 0) F.pmuTrCtl_EN = true →
      bit (s.reg (.pmuTrKind 0)) 12 = true → (s.obs.trace.filter fun q => q.source == 256).length < 64 →
      ∃ t r, exec (.pmuMark p v) s = .next t ∧ t.obs.trace = s.obs.trace ++ [r] ∧ r.kind = 12 ∧ r.data = v.toNat ∧ r.time = s.time ∧
        r.source = 256 ∧ t = { s with obs := t.obs }) ∧
    (∀ src : Nat, (∀ r ∈ s.obs.trace, r.source ≠ src) → exec (.traceRecordWrite src) s = .next s) ∧
    (∀ (src i : Nat) (r : TraceRec), s.obs.trace.findIdx? (fun r => r.source == src) = some i → s.obs.trace[i]? = some r →
      (s.pannier r.die = false → ∃ t, exec (.traceRecordWrite src) s = .next t ∧ t.obs.trace = s.obs.trace.eraseIdx i ∧
        t = { s with obs := t.obs }) ∧
      (s.pannier r.die = true → s.flag (.pmuTrCtl r.die) F.pmuTrCtl_EN = true → s.flag (.pmuTrCtl r.die) F.pmuTrCtl_STOP = false →
        s.fld (.pmuTrCtl r.die) F.pmuTrCtl_TRGIB ≠ 0 → s.obs.lost.get r.source 0 = 0 → s.rim = [] →
        let ring := s.fld (.pmuTrCtl r.die) F.pmuTrCtl_TRGIB * 2 ^ 30
        let w := s.fld (.pmuTrWp r.die) F.pmuTrWp_BYTES
        ∃ t, exec (.traceRecordWrite src) s = .next t ∧ t.obs.trace = s.obs.trace.eraseIdx i ∧
          t.fld (.pmuTrWp r.die) F.pmuTrWp_BYTES = (w + 32) % 2 ^ 64 ∧
          let at0 := s.fld (.pmuPan r.die) F.pmuPan_BASE * 2 ^ 30 + w % ring
          (∀ k (h : k < r.bytes.length), t.byte (at0 + k) = r.bytes[k]) ∧
          ∀ b, b < at0 ∨ at0 + r.bytes.length ≤ b → t.byte b = s.byte b)) ∧
    (s.fw.takeover = none → s.obs.telAt + 100000 * s.fld .pmuTelctl F.pmuTelctl_PERIOD ≤ s.time →
      ∃ t, exec .telemetryPage s = .next t ∧ t.obs.telSeq = (s.obs.telSeq + 1) % 2 ^ 32 ∧ t.obs.telAt = s.time ∧
        ∀ i : Fin 32, t.reg (.pmuTelpage i) = BitVec.ofNat 64 (ofBytes (((s.telPage s.obs.telSeq).drop (8 * i.val)).take 8))) ∧
    (s.time < s.obs.telAt + 100000 * s.fld .pmuTelctl F.pmuTelctl_PERIOD → exec .telemetryPage s = .next s)

/-- FREEWHEEL_ENTER of a running cluster that has met its conditions for FWIDLE µs stops its clock with all state kept; FREEWHEEL_WAKE of
one with a held cause that nothing forces, and a DEADLINE reached, make it wake, the former counted in WAKE1; CLUSTER_WAKE_COMPLETE makes
it run and applies its held adds. P2_ENTER of a cluster that is to enter P2 (its contexts idle, and TARGET 2 or AUTOP2 with P2IDLE over)
keeps its contexts, empties its slots and its cache and makes its temperature invalid; P2_WAKE with a held cause outside P3 fills its
Cassettes and scratch with zeros, restarts its CLOCK and changes no other byte. CLUSTER_RESTART of a tested cluster leaves it waking and,
where no bracket is open in it, its contexts idle and its stores zero, until CLUSTER_SELF_TEST_COMPLETE makes it run; the same, in
bring-up, raises an untested cluster with nothing fenced: its cores usable and its stores zero. The third PLL_LOCK_TIMEOUT fences a tested
cluster, the first two are counted. FREEWHEEL_ENTER outside P0, FREEWHEEL_WAKE without a cause, WAKE_DEADLINE before its time,
CLUSTER_WAKE_COMPLETE and PLL_LOCK_TIMEOUT of a cluster that does not wake, P2_WAKE outside P2, without a cause or in P3, CLUSTER_RESTART
at privilege 2 and a self-test of a cluster that has been tested change nothing. -/
def Obligations.ClustersSleepAndWake : Prop :=
  ∀ (s : State) (k : Fin 16), s.stores = [] →
    let mine (c : Fin 256) : Prop := clusterOf c = k
    let inStore (b : Nat) : Prop := (∃ c, mine c ∧ cassetteBase c ≤ b ∧ b < cassetteBase c + 0x200000) ∨
      (scratchBase k ≤ b ∧ b < scratchBase k + s.fld (.cluCccfg k) F.cluCccfg_SCRW * 2 ^ 24)
    let one (r : Reg) (f : Nat × Nat) (t : State) : Prop := t.fld r f = min (s.fld r f + 1) (2 ^ f.2 - 1)
    (∀ since, s.pstate k = 0 → s.fld (.cluDrlctl k) F.cluDrlctl_TARGET = 0 → s.pow.idleSince.find? (fun q => q.1 == k) = some since →
      since.2 + 100 * s.fld (.cluDrlctl k) F.cluDrlctl_FWIDLE ≤ s.time → s.canSleep k = true →
      ∃ t, exec (.freewheelEnter k) s = .next t ∧ t.pstate k = 1 ∧ t.fld (.cluDrlstat k) F.cluDrlstat_RATE = 2 ∧ t.core = s.core ∧
        (∀ b, t.byte b = s.byte b) ∧ ∀ j, j ≠ k → t.pstate j = s.pstate j) ∧
    (s.pstate k ≠ 0 → exec (.freewheelEnter k) s = .next s) ∧
    (s.pstate k = 1 → s.isForced k = false →
      (s.readyToWake k = true ∨ s.pow.wakeAt.has k = true → ∃ t, exec (.freewheelWake k) s = .next t ∧ t.pstate k = 3 ∧
        one (.cluDrlcnt k) F.cluDrlcnt_WAKE1 t ∧ t.core = s.core ∧ ∀ b, t.byte b = s.byte b) ∧
      (s.readyToWake k = false → s.pow.wakeAt.has k = false → exec (.freewheelWake k) s = .next s)) ∧
    (let due := s.fld (.cluDrlwake k) F.cluDrlwake_DEADLINE;
      (due ≠ 0 → due ≤ s.time → ∃ t, exec (.wakeDeadline k) s = .next t ∧ t.fld (.cluDrlwake k) F.cluDrlwake_DEADLINE = 0 ∧
        t.pstate k = if s.pstate k = 1 ∧ s.isForced k = false then 3 else s.pstate k) ∧
      (due = 0 ∨ s.time < due → exec (.wakeDeadline k) s = .next s)) ∧
    (s.pstate k = 3 → s.pow.restart.contains k = false → ∃ t, exec (.clusterWakeComplete k) s = .next t ∧ t.pstate k = 0 ∧
      t.pow.wakeAt.has k = false ∧ (∀ h ∈ t.core.heldAdds, ¬ mine h.1) ∧ (∀ b, t.byte b = s.byte b) ∧
      ∀ h, s.core.heldAdds.filter (fun q => clusterOf q.1 == k) = [h] → t.reg (.clt h.1 h.2.1) = s.reg (.clt h.1 h.2.1) + h.2.2 &&& Reg.mask (.clt h.1 h.2.1)) ∧
    (s.pstate k ≠ 3 → exec (.clusterWakeComplete k) s = .next s ∧ exec (.pllLockTimeout k) s = .next s) ∧
    (s.wantsP2 k = true → ∃ t, exec (.p2Enter k) s = .next t ∧ t.pstate k = 2 ∧ t.flag (.cluDrlstat k) F.cluDrlstat_TVALID = false ∧
      t.core.ctxs = s.core.ctxs ∧ (∀ c i, mine c → t.slot c i = Slot.empty ∧ t.slotEmpty c i = true) ∧
      (∀ c i, ¬ mine c → t.slot c i = s.slot c i) ∧ (∀ l ∈ t.core.cache, l.k ≠ k) ∧ ∀ b, t.byte b = s.byte b) ∧
    (s.pstate k = 2 → s.pow.wakeAt.has k = true → s.flag .clkRststat F.clkRststat_INP3 = false →
      ∃ t, exec (.p2Wake k) s = .next t ∧ t.pstate k = 3 ∧ one (.cluDrlcnt k) F.cluDrlcnt_WAKE2 t ∧
        t.core = { s.core with clock := s.core.clock.del k } ∧
        (∀ b, inStore b → t.byte b = 0) ∧ ∀ b, ¬ inStore b → t.byte b = s.byte b) ∧
    (s.pstate k ≠ 2 ∨ s.pow.wakeAt.has k = false ∨ s.flag .clkRststat F.clkRststat_INP3 = true → exec (.p2Wake k) s = .next s) ∧
    (∀ p : Priv, p ≠ .job → s.pstate k ≠ 4 → s.isFenced (unitId 7 k.val 0) = false → s.pow.tested.contains k = true →
      ∃ t, exec (.clusterRestart p k) s = .next t ∧ t.pstate k = 3 ∧ t.pow.restart.contains k = true ∧
        ((∀ x : CtxId, mine x.core → (s.ctx x).bracket = none) →
          (∀ x : CtxId, mine x.core → t.ctxState x = 0) ∧ ∀ b, inStore b → t.byte b = 0)) ∧
    exec (.clusterRestart .job k) s = .next s ∧
    (s.pow.restart.contains k = true → ∃ t, exec (.clusterSelfTestComplete k false []) s = .next t ∧ t.pstate k = 0 ∧
      t.pow.restart = s.pow.restart.erase k ∧ ∀ b, t.byte b = s.byte b) ∧
    (s.pow.restart.contains k = false → s.raising = true → s.pow.tested.contains k = false → s.int.fenced = [] →
      s.fld (.memCfg (dieOfCluster k)) F.memCfg_NSTK ≠ 0 →
      ∃ t, exec (.clusterSelfTestComplete k false []) s = .next t ∧ t.pstate k = 0 ∧ t.pow.tested = s.pow.tested ++ [k] ∧
        (∀ c, mine c → t.flag (.coreCstat c) F.coreCstat_USABLE = true ∧ t.flag (.coreCstat c) F.coreCstat_DEGRADED = false) ∧
        (∀ b, inStore b → t.byte b = 0) ∧ ∀ b, ¬ inStore b → t.byte b = s.byte b) ∧
    (∀ whole failed, s.pow.restart.contains k = false → s.pow.tested.contains k = true →
      exec (.clusterSelfTestComplete k whole failed) s = .next s) ∧
    (s.pstate k = 3 →
      (s.pow.pllTries.get k 0 < 2 → ∃ t, exec (.pllLockTimeout k) s = .next t ∧ t.pow.pllTries.get k 0 = s.pow.pllTries.get k 0 + 1 ∧
        t = { s with pow := t.pow }) ∧
      (2 ≤ s.pow.pllTries.get k 0 → s.isFenced (unitId 7 k.val 0) = false → s.pow.tested.contains k = true →
        ∃ t, exec (.pllLockTimeout k) s = .next t ∧ t.pstate k = 4))

/-- CADENCE_LOSS switches a powered module to the backup oscillator, counted and reported; CADENCE_RESTORE switches back once 10 ms are
over. P3_ENTER above privilege 2 without a resident job puts usable stacks into self-refresh, every cluster that is not fenced into P2,
and pauses the scrubbers; with one it is refused; P3_LEAVE ends it, the scrubber of a die whose DRAM is not trained staying paused;
SELF_REFRESH_RETURN in P3 after 10 ms without access puts a die's stacks back. POWER_MEASURE shows the means and keeps the samples; a mean
above PEAK begins the peak action. COOLANT_SENSOR_READ shows both temperatures and latches INRANGE outside 17-40 °C. Temperature
measurements show TEMP; a cluster at TLIM or FWLIM is marked, and a stack's first or hotter band is taken at once. 110 °C at a cluster,
the comparator, a voltage outside its limits for long enough, and loss of the input switch the rails off. INPUT_VOLTAGE_CHANGE shows VIN,
and LOWV below 50 V, and begins the times below 47 V and above 62 V. The clauses also name the conditions in which each of these changes
nothing. -/
def Obligations.ModulePowerIsWatched : Prop :=
  ∀ (s : State), s.stores = [] →
    (s.pow.off = false → s.flag .clkCadstat F.clkCadstat_BACKUP = false → s.events.length < 4096 →
      ∃ t, exec .cadenceLoss s = .next t ∧ t.flag .clkCadstat F.clkCadstat_BACKUP = true ∧ t.flag .clkCadstat F.clkCadstat_LOST = true ∧
        t.fld .clkCadstat F.clkCadstat_LOSSES = min (s.fld .clkCadstat F.clkCadstat_LOSSES + 1) (2 ^ F.clkCadstat_LOSSES.2 - 1) ∧
        t.pow.cadLost = s.time ∧ t.events = s.events ++ [{ cls := 1, code := 0x40, die := 0, data := [(8, s.time)] }]) ∧
    (s.pow.off = true ∨ s.flag .clkCadstat F.clkCadstat_BACKUP = true → exec .cadenceLoss s = .next s) ∧
    (s.pow.off = false → s.flag .clkCadstat F.clkCadstat_BACKUP = true → s.pow.cadLost + 1000000 ≤ s.time → s.events.length < 4096 →
      ∃ t, exec .cadenceRestore s = .next t ∧ t.flag .clkCadstat F.clkCadstat_BACKUP = false ∧ t.core = s.core ∧
        t.events = s.events ++ [{ cls := 1, code := 0x41, die := 0, data := [(8, s.time - s.pow.cadLost)] }]) ∧
    (s.time < s.pow.cadLost + 1000000 → exec .cadenceRestore s = .next s) ∧
    (∀ p : Priv, p ≠ .job → s.flag .clkRststat F.clkRststat_INP3 = false →
      (s.resident = true → ∃ t, exec (.p3Enter p) s = .next t ∧ t.flag .clkRststat F.clkRststat_P3REJ = true ∧
        t.flag .clkRststat F.clkRststat_INP3 = false ∧ t.core = s.core) ∧
      (s.resident = false → ∃ t, exec (.p3Enter p) s = .next t ∧ t.flag .clkRststat F.clkRststat_INP3 = true ∧
        (∀ d m, s.flag (.stkStat d m) F.stkStat_USABLE = true → t.flag (.stkStat d m) F.stkStat_SREF = true) ∧
        (∀ d, t.flag (.memScrstat d) F.memScrstat_PAUSED = true) ∧ (∀ k, t.pstate k = 2 ∨ t.pstate k = 4) ∧ ∀ b, t.byte b = s.byte b) ∧
      exec (.p3Leave p) s = .next s) ∧
    (∀ p : Priv, p ≠ .job → s.flag .clkRststat F.clkRststat_INP3 = true → exec (.p3Enter p) s = .next s ∧
      ∃ t, exec (.p3Leave p) s = .next t ∧ t.flag .clkRststat F.clkRststat_INP3 = false ∧ (∀ k, t.pstate k = s.pstate k) ∧
        (∀ d m, s.flag (.stkStat d m) F.stkStat_USABLE = true → t.flag (.stkStat d m) F.stkStat_SREF = false ∧
          t.flag (.stkStat d m) F.stkStat_TVALID = false ∧ t.fld (.stkStat d m) F.stkStat_BAND = 2) ∧
        ∀ d, t.flag (.memScrstat d) F.memScrstat_PAUSED = !s.pow.trained.contains d) ∧
    exec (.p3Enter .job) s = .next s ∧ exec (.p3Leave .job) s = .next s ∧
    (∀ d q, s.pow.p3Access.find? (fun q => q.1 == d) = some q →
      (s.flag .clkRststat F.clkRststat_INP3 = true → q.2 + 1000000 ≤ s.time → ∃ t, exec (.selfRefreshReturn d) s = .next t ∧
        t.pow.p3Access.has d = false ∧ ∀ m, s.flag (.stkStat d m) F.stkStat_USABLE = true → t.flag (.stkStat d m) F.stkStat_SREF = true) ∧
      (s.time < q.2 + 1000000 → exec (.selfRefreshReturn d) s = .next s)) ∧
    (∀ w : BitVec 14, s.pow.off = false →
      let l := (w.toNat :: s.pow.samples).take 1000
      ∃ t, exec (.powerMeasure w) s = .next t ∧ t.pow.samples = l ∧ t.fld .clkPwrstat F.clkPwrstat_P10 = min (meanOf l 10) 8191 ∧
        t.fld .clkPwrstat F.clkPwrstat_P1M = min (meanOf l 1000) 8191 ∧ t.core = s.core ∧
        (s.flag .clkPwrstat F.clkPwrstat_PEAKACT = false → (t.flag .clkPwrstat F.clkPwrstat_PEAKACT = true ↔ s.fld .clkPwrctl F.clkPwrctl_PEAK < min (meanOf l 10) 8191))) ∧
    (∀ w, s.pow.off = true → exec (.powerMeasure w) s = .next s) ∧
    (∀ (i o : BitVec 8), s.hubRuns = true → ∃ t, exec (.coolantSensorRead i o) s = .next t ∧ t.fld .clkPhys F.clkPhys_INLET = i.toNat ∧
      t.fld .clkPhys F.clkPhys_OUTLET = o.toNat ∧ t.flag .clkPhys F.clkPhys_TVALID = true ∧
      t.flag .clkPhys F.clkPhys_INRANGE = (s.flag .clkPhys F.clkPhys_INRANGE || decide (i.toNat > 40 ∨ i.toNat < 17)) ∧
      ∀ r, r ≠ .clkPhys → t.reg r = s.reg r) ∧
    (∀ (k : Fin 16) (c : BitVec 8), s.pow.off = false → s.pstate k ≠ 2 → s.pstate k ≠ 4 →
      (c.toNat < 110 → ∃ t, exec (.clusterTempMeasure k c) s = .next t ∧ t.fld (.cluDrlstat k) F.cluDrlstat_TEMP = c.toNat ∧
        t.flag (.cluDrlstat k) F.cluDrlstat_TVALID = true ∧ t.pow.off = false ∧
        (s.fld .clkThctl F.clkThctl_TLIM ≤ c.toNat → t.pow.hot.has k = true) ∧
        (s.fld .clkThctl F.clkThctl_FWLIM ≤ c.toNat → t.pow.heat.contains k = true)) ∧
      (110 ≤ c.toNat → ∃ t, exec (.clusterTempMeasure k c) s = .next t ∧ t.pow.off = true ∧ t.pins.thermTrip = false ∧
        t.pins.pwrGood = false ∧ t.pow.trip = true ∧ t.pow.tripLogged = true)) ∧
    (∀ k c, s.pow.off = true ∨ s.pstate k = 2 ∨ s.pstate k = 4 → exec (.clusterTempMeasure k c) s = .next s) ∧
    (∀ d m (c : BitVec 8), s.pow.off = false → s.pow.trained.contains d = true → s.flag (.stkStat d m) F.stkStat_SREF = false → c.toNat ≤ 110 →
      ∃ t, exec (.stackTempMeasure d m c) s = .next t ∧ t.fld (.stkStat d m) F.stkStat_TEMP = c.toNat ∧
        t.flag (.stkStat d m) F.stkStat_TVALID = true ∧
        (s.flag (.stkStat d m) F.stkStat_TVALID = false ∨ (s.pow.stackHot.contains (d, m) = false ∧
          s.fld (.stkStat d m) F.stkStat_BAND < tempBand c.toNat) → t.fld (.stkStat d m) F.stkStat_BAND = min (tempBand c.toNat) 2)) ∧
    (∀ d, s.pow.off = false → ∃ t, exec (.thermalComparatorTrip d) s = .next t ∧ t.pow.off = true ∧ t.pins.thermTrip = false ∧
      t.pins.pwrGood = false ∧ t.pow.trip = true ∧ t.pow.tripLogged = false ∧ t.flash = s.flash) ∧
    (∀ d, s.pow.off = true → exec (.thermalComparatorTrip d) s = .next s) ∧
    (∀ v : BitVec 10, s.pow.off = false → ∃ t, exec (.inputVoltageChange v) s = .next t ∧ t.fld .clkPwrstat F.clkPwrstat_VIN = v.toNat ∧
      t.flag .clkPwrstat F.clkPwrstat_LOWV = decide (v.toNat < 500) ∧ t.pow.vin = v.toNat ∧ t.core = s.core ∧
      (t.pow.lowSince.isSome = true ↔ v.toNat < 470) ∧ (t.pow.highSince.isSome = true ↔ 620 < v.toNat)) ∧
    (∀ v : BitVec 10, s.pow.off = true → ∃ t, exec (.inputVoltageChange v) s = .next t ∧ t.pow.vin = v.toNat ∧
      t.pins.thermTrip = (s.pins.thermTrip || decide (v.toNat < 400)) ∧ t.regs = s.regs) ∧
    (s.pow.off = false → (s.sinceFor s.pow.lowSince 10000 || s.sinceFor s.pow.highSince 1000) = true →
      ∃ t, exec .voltageShutdown s = .next t ∧ t.pow.off = true ∧ t.pins.pwrGood = false ∧ t.pow.shutdown = true) ∧
    (s.pow.off = true ∨ (s.sinceFor s.pow.lowSince 10000 || s.sinceFor s.pow.highSince 1000) = false → exec .voltageShutdown s = .next s) ∧
    (∃ t, exec .inputLoss s = .next t ∧ t.pow.off = true ∧ t.pins.thermTrip = true ∧ t.pow.vin = 0 ∧ t.flash = s.flash)

/-- POWER_UP of an unpowered module whose THERM_TRIP_N is high starts it with volatile state as after reset, memory lost, PCYCLE one
higher, MOD_POS sampled, and PHASE 1 or recovery. BEGIN above privilege 2 goes from phase 1 to 2. The identity key, DRAM training, the
memory test and FULL_SERVICE, in their turn, set what they find: KEYOK, the TRAINED and USABLE stacks, NSTK, phase 3. Of a unit map in
HUB_MAPBUF, a refused one shows WHY and fences nothing; an accepted one, before its units are tested, fences those it names; an accepted
base map sets BASE and ends step 6. MODULE_RESET with its key and PERST_ASSERT lose volatile state and memory; PERST_DEASSERT ends the
reset. DIE_RESET with its key, of a die with no context at work, no peloton open and not Yalar-1 in Tandem mode, empties its contexts and
slots and loses its DRAM; else it is refused. DEBUG_COPY copies the selected row of a slot that is not busy, or sets ERR where the core
cannot be read. Out of turn, without its key or at privilege 2 each changes nothing. -/
def Obligations.BringUpAndResets : Prop :=
  ∀ (s : State), s.stores = [] →
    let lost (t : State) : Prop := ∃ n, ∀ b < 2 ^ 48, t.byte b = Config.lostByte n b
    let up (t : State) : Prop := t.pow.off = false ∧ t.pow.inReset = false ∧ t.core = State.reset.core ∧ (t.phase = 1 ∨ t.phase = 4) ∧ lost t
    (∀ pos : BitVec 6, s.pow.off = true → s.pins.thermTrip = true → ∃ t, exec (.powerUp pos) s = .next t ∧ up t ∧ t.pins.pwrGood = true ∧
      t.flash.pcycle = (s.flash.pcycle + 1) % 2 ^ 32 ∧ t.fld .clkPhys F.clkPhys_MOD_POS = pos.toNat ∧ t.fld .clkRststat F.clkRststat_CAUSE = s.powerCause) ∧
    (∀ pos, s.pow.off = false ∨ s.pins.thermTrip = false → exec (.powerUp pos) s = .next s) ∧
    (∀ p : Priv, p ≠ .job → (s.phase = 1 → ∃ t, exec (.begin p) s = .next t ∧ t.phase = 2 ∧ t.pow.mapped = true ∧ t.core = s.core) ∧
      (s.phase ≠ 1 → exec (.begin p) s = .next s)) ∧
    (s.hubRuns = true → s.flag .clkBrstat F.clkBrstat_KEYOK = false →
      (∃ t, exec (.identityKeyDerived true true) s = .next t ∧ t.flag .clkBrstat F.clkBrstat_KEYOK = true ∧ t.flag .hubIdstat F.hubIdstat_CERTOK = true) ∧
      (∃ t, exec (.identityKeyDerived true false) s = .next t ∧ t.flag .clkBrstat F.clkBrstat_KEYOK = false ∧ t.flag .hubIdstat F.hubIdstat_CERTOK = false) ∧
      ∀ same, ∃ t, exec (.identityKeyDerived false same) s = .next t ∧ t.flag .clkBrstat F.clkBrstat_KEYOK = false ∧
        t.flag .hubIdstat F.hubIdstat_HELPERBAD = true) ∧
    (∀ d failed, s.raising = true → s.pow.trained.contains d = false → ∃ t, exec (.dramTrainingComplete d failed) s = .next t ∧
      t.pow.trained = s.pow.trained ++ [d] ∧ ∀ m, t.flag (.stkStat d m) F.stkStat_TRAINED =
        (s.flag (.stkStat d m) F.stkStat_TRAINED || (!s.isFenced (unitId 9 (12 * d.val + m.val) 0) && !bit failed m.val))) ∧
    (∀ d failed, s.raising = false ∨ s.pow.trained.contains d = true → exec (.dramTrainingComplete d failed) s = .next s) ∧
    (∀ (d : Fin 2) rows, s.raising = true → s.pow.trained.contains d = true →
      let done := if d = 0 then F.clkBrstat_DRAM0 else F.clkBrstat_DRAM1
      let usable := (List.finRange 12).filter fun m => s.flag (.stkStat d m) F.stkStat_TRAINED && !spent (s.badRows d rows) m
      (s.flag .clkBrstat done = false → ∃ t, exec (.memoryTestComplete d rows) s = .next t ∧ t.flag .clkBrstat done = true ∧
        t.fld (.memCfg d) F.memCfg_NSTK = usable.length ∧ t.fld (.memCfg d) F.memCfg_STKOK = stackBits usable ∧
        ∀ m ∈ usable, t.flag (.stkStat d m) F.stkStat_USABLE = true) ∧
      (s.flag .clkBrstat done = true → exec (.memoryTestComplete d rows) s = .next s)) ∧
    (let ready := [F.clkBrstat_EQDONE, F.clkBrstat_KEYOK, F.clkBrstat_DRAM0, F.clkBrstat_DRAM1, F.clkBrstat_CLUDONE].all (s.flag .clkBrstat);
      (s.phase = 2 → ready = true → ∃ t, exec .fullService s = .next t ∧ t.phase = 3 ∧ t.fw.since = some s.time ∧ t.core = s.core ∧
        t.fld .clkBrstat F.clkBrstat_FULLMS = min ((s.time - s.pow.goodAt) / 100000) (2 ^ 24 - 1)) ∧
      (s.phase ≠ 2 ∨ ready = false → exec .fullService s = .next s)) ∧
    (∀ (p : Priv), p ≠ .job → s.hubRuns = true →
      let a := s.fld .intUmaddr F.intUmaddr_ADDR * 64
      let o := a - 0xFF0000100000
      let n := mField (s.mapBytes o 64) 8 4
      (0xFF0000100000 ≤ a → a + 64 ≤ 0xFF0000200000 →
        (mapHeaderOk (s.mapBytes o 64) 0 = false → ∃ t, exec (.unitMapLoadBase p) s = .next t ∧ t.fld .intUmstat F.intUmstat_WHY = 3 ∧
          t.int.fenced = s.int.fenced ∧ t.flag .intUmstat F.intUmstat_BASE = s.flag .intUmstat F.intUmstat_BASE) ∧
        (mapHeaderOk (s.mapBytes o 64) 0 = true → a + 64 + 8 * n + 384 ≤ 0xFF0000200000 →
          let m := s.mapBytes o (64 + 8 * n + 384)
          (∀ why, s.mapFault 0 m = some why → ∃ t, exec (.unitMapLoadBase p) s = .next t ∧ t.fld .intUmstat F.intUmstat_WHY = why ∧
            t.int.fenced = s.int.fenced) ∧
          (s.mapFault 0 m = none → ∃ t, exec (.unitMapLoadBase p) s = .next t ∧ t.flag .intUmstat F.intUmstat_BASE = true ∧ t.fw.baseMap = m ∧
            t.phase ≠ 1 ∧ ((∀ u ∈ mapEntries m, s.untested u = true) → ∀ u ∈ mapEntries m, t.isFenced u = true))) ∧
        (mapHeaderOk (s.mapBytes o 64) 1 = true → a + 64 + 8 * n ≤ 0xFF0000200000 →
          let m := s.mapBytes o (64 + 8 * n)
          (∀ why, s.mapFault 1 m = some why → ∃ t, exec (.unitMapLoadSupplement p) s = .next t ∧ t.fld .intUmstat F.intUmstat_WHY = why ∧
            t.int.fenced = s.int.fenced) ∧
          (s.mapFault 1 m = none → ∃ t, exec (.unitMapLoadSupplement p) s = .next t ∧
            ((∀ u ∈ mapEntries m, s.untested u = true) → ∀ u ∈ mapEntries m, t.isFenced u = true))))) ∧
    (∀ p : Priv, p ≠ .job → s.pow.off = false → ∃ t, exec (.moduleReset p 0xA5) s = .next t ∧ up t ∧ t.time = s.time ∧
      t.fld .clkRststat F.clkRststat_CAUSE = 3) ∧
    (∀ p key, p = .job ∨ key ≠ 0xA5 ∨ s.pow.off = true → exec (.moduleReset p key) s = .next s) ∧
    (s.pow.off = false → s.pins.thermTrip = true → ∃ t, exec (.perstAssert true) s = .next t ∧ t.pins.perst = false ∧ t.pow.inReset = true ∧
      t.phase = 0 ∧ t.core = State.reset.core ∧ t.fld .clkRststat F.clkRststat_CAUSE = 2 ∧ lost t) ∧
    exec (.perstAssert false) s = .next s ∧
    (s.pow.off = false → ∃ t, exec .perstDeassert s = .next t ∧ t.pins.perst = true ∧ t.pow.inReset = false ∧
      (s.pow.inReset = false → t = { s with pins := t.pins }) ∧ (s.pow.inReset = true → t.phase = 1 ∨ t.phase = 4)) ∧
    (∀ (p : Priv) (d : Fin 2), p ≠ .job → s.hubRuns = true →
      let busy := (List.finRange 256).any fun c => dieOf c == d && s.fld (.coreSqstat c) F.coreSqstat_STATE != 0
      (busy = true ∨ s.plt.pelotons ≠ [] ∨ (d = 1 ∧ s.tandem = true) → ∃ t, exec (.dieReset p d 0xA5) s = .next t ∧
        t.flag .clkRststat F.clkRststat_RSTREJ = true ∧ t.core = s.core ∧ ∀ b, t.byte b = s.byte b) ∧
      (busy = false → s.plt.pelotons = [] → ¬ (d = 1 ∧ s.tandem = true) → ∃ t, exec (.dieReset p d 0xA5) s = .next t ∧
        t.flag .clkBrstat (if d = 0 then F.clkBrstat_DRAM0 else F.clkBrstat_DRAM1) = false ∧ t.flag .clkBrstat F.clkBrstat_CLUDONE = false ∧
        (∀ x : CtxId, dieOf x.core = d → t.ctx x = Ctx.reset ∧ t.ctxState x = 0) ∧ (∀ c i, dieOf c = d → t.slot c i = Slot.empty) ∧
        ∃ n, ∀ b, d.val * 2 ^ 40 ≤ b → b < d.val * 2 ^ 40 + 2 ^ 40 → t.byte b = Config.lostByte n b)) ∧
    (∀ p d key, p = .job ∨ key ≠ 0xA5 → exec (.dieReset p d key) s = .next s) ∧
    (let c : Fin 256 := Fin.ofNat _ (s.fld .hubDbgsel F.hubDbgsel_CORE)
      let i : A3 := Fin.ofNat _ (s.fld .hubDbgsel F.hubDbgsel_SLOT)
      let el (n : Nat) : Elem := (s.slot c i).elems.get (32 * s.fld .hubDbgsel F.hubDbgsel_ROW + n) Elem.zero
      let readable : Prop := s.flag (.coreCstat c) F.coreCstat_USABLE = true ∧ s.pstate (clusterOf c) ≠ 2 ∧ s.pstate (clusterOf c) ≠ 4;
      (s.pow.debug = true → readable → s.slotBusy c i = false → ∃ t, exec .debugCopy s = .next t ∧ t.pow.debug = false ∧
        t.flag .hubDbgstat F.hubDbgstat_DONE = true ∧ t.core = s.core ∧
        ∀ w, t.reg (.hubDbgdata w) = BitVec.ofNat 64 ((el (w.val / 2)).k.toNat / 2 ^ (64 * (w.val % 2)))) ∧
      (s.pow.debug = true → ¬ readable → ∃ t, exec .debugCopy s = .next t ∧ t.pow.debug = false ∧ t.flag .hubDbgstat F.hubDbgstat_ERR = true) ∧
      (s.pow.debug = false → exec .debugCopy s = .next s))

/-- DRAM_REFRESH of a usable stack not in self-refresh notes its time. SCRUB_STEP moves POS on by 32, or to 0 with PASSES one higher,
leaves no errors in a word that it can correct, and logs one that it cannot; a disabled or paused scrubber does nothing.
SCRUB_CLUSTER_STEP of a running cluster passes its next word, changing no data where no stored word was in error and its new errors can be
corrected whole or not at all, and nothing else where nothing is in error. REPAIR_COMMAND with GO 1 queues its row if it does not wait
already; ROW_REPAIR maps the longest-waiting row of the stack to a spare of its bank, or finds that none is left, and takes it from the
queue. SCRATCH_WAYS_CHANGE fills new scratch with zeros, loses scratch that goes, and changes no other byte. PAIR_CHECKING_ENABLE sets EN,
ACTIVE on a core that is not DEGRADED, and empties slots 4-7 when EN becomes 1. At privilege 2 the last three change nothing. -/
def Obligations.StoresAreRefreshedScrubbedAndRepaired : Prop :=
  ∀ (s : State), s.stores = [] →
    (∀ d m, (s.flag (.stkStat d m) F.stkStat_USABLE = true → s.flag (.stkStat d m) F.stkStat_SREF = false →
        ∃ t, exec (.dramRefresh d m) s = .next t ∧ t.keep.refresh.get (d, m) 0 = s.time ∧ t = { s with keep := t.keep }) ∧
      (s.flag (.stkStat d m) F.stkStat_USABLE = false ∨ s.flag (.stkStat d m) F.stkStat_SREF = true → exec (.dramRefresh d m) s = .next s)) ∧
    (∀ (d : Fin 2) (e : BitVec 288),
      let pos := s.fld (.memScrpos d) F.memScrpos_POS
      let passes := s.fld (.memScrpos d) F.memScrpos_PASSES
      let w := (d.val * 2 ^ 40 + pos) / 32
      (s.flag (.memScrctl d) F.memScrctl_EN = false ∨ s.flag (.memScrstat d) F.memScrstat_PAUSED = true → exec (.scrubStep d e) s = .next s) ∧
      (s.flag (.memScrctl d) F.memScrctl_EN = true → s.flag (.memScrstat d) F.memScrstat_PAUSED = false → pos < s.dramSize d →
        ∃ t, exec (.scrubStep d e) s = .next t ∧
          (pos + 32 < s.dramSize d → t.fld (.memScrpos d) F.memScrpos_POS = (pos + 32) % 2 ^ 40 ∧ t.fld (.memScrpos d) F.memScrpos_PASSES = passes) ∧
          (s.dramSize d ≤ pos + 32 → t.fld (.memScrpos d) F.memScrpos_POS = 0 ∧ t.fld (.memScrpos d) F.memScrpos_PASSES = min (passes + 1) (2 ^ 24 - 1)) ∧
          (∀ rest, rimDecode (s.rim.get w 0 ^^^ e) = .corrected rest → t.rim.has w = false ∧ (rest = 0 → ∀ b, t.byte b = s.byte b)) ∧
          (rimDecode (s.rim.get w 0 ^^^ e) = .uncorrectable → t.rim.get w 0 = s.rim.get w 0 ^^^ e ∧
            t.flag (.memUelog d) F.memUelog_VALID = true ∧ t.fld (.memUelog d) F.memUelog_ADDR = pos / 32 * 32 ∧ ∀ b, t.byte b = s.byte b))) ∧
    (∀ (k : Fin 16) (e : BitVec 288), (s.pstate k ≠ 0 → exec (.scrubClusterStep k e) s = .next s) ∧
      (s.pstate k = 0 → ∃ t, exec (.scrubClusterStep k e) s = .next t ∧
        t.keep.cluPos.get k 0 = (s.keep.cluPos.get k 0 % (2 ^ 20 + s.fld (.cluCccfg k) F.cluCccfg_SCRW * 2 ^ 19 +
          4 * (s.core.cache.filter fun l => l.k == k).length) + 1) % (2 ^ 20 + s.fld (.cluCccfg k) F.cluCccfg_SCRW * 2 ^ 19 +
          4 * (s.core.cache.filter fun l => l.k == k).length) ∧
        (s.rim = [] → e = 0 → (∀ l ∈ s.core.cache, l.errs = 0) → t = { s with keep := t.keep }) ∧
        (s.rim = [] → e = 0 ∨ rimDecode e = .corrected 0 ∨ rimDecode e = .uncorrectable → ∀ b, t.byte b = s.byte b))) ∧
    (∀ (p : Priv) d m (v : Word), p ≠ .job →
      let r : RowJob := { d := d, m := m, pc := getBits v F.stkRprcmd_PC, bank := getBits v F.stkRprcmd_BANK, row := getBits v F.stkRprcmd_ROW, why := 2 }
      (getBits v F.stkRprcmd_GO = 1 → r.bank < 48 → s.flag (.stkStat d m) F.stkStat_USABLE = true → (s.keep.rows.any fun q => q.same r) = false →
        ∃ t, exec (.repairCommand p d m v) s = .next t ∧ t.keep.rows = s.keep.rows ++ [r] ∧ t = { s with keep := t.keep }) ∧
      (getBits v F.stkRprcmd_GO = 0 ∨ 48 ≤ r.bank ∨ s.flag (.stkStat d m) F.stkStat_USABLE = false → exec (.repairCommand p d m v) s = .next s)) ∧
    (∀ d m v, exec (.repairCommand .job d m v) s = .next s) ∧
    (∀ d m, (s.keep.rows.find? (fun r => r.d == d && r.m == m) = none → exec (.rowRepair d m) s = .next s) ∧
      ∀ r, s.keep.rows.find? (fun r => r.d == d && r.m == m) = some r → ∃ t, exec (.rowRepair d m) s = .next t ∧
        t.keep.rows = (s.keep.rows.filter fun q => !q.same r) ∧
        (s.sparesLeft r = 0 → t.keep.mapped = s.keep.mapped ∧ t.keep.spares = s.keep.spares ∧ ∀ b, t.byte b = s.byte b) ∧
        (s.sparesLeft r ≠ 0 → t.keep.mapped = (r.d, r.m, r.pc, r.bank, r.row) :: s.keep.mapped ∧ t.sparesLeft r + 1 = s.sparesLeft r ∧
          t.fld (.stkRpr d m) F.stkRpr_RUNTIME = min (s.fld (.stkRpr d m) F.stkRpr_RUNTIME + 1) (2 ^ 16 - 1) ∧
          (s.rim = [] → ∀ b, t.byte b = s.byte b))) ∧
    (∀ (p : Priv) (k : Fin 16) (v : BitVec 2), p ≠ .job →
      let old := s.fld (.cluCccfg k) F.cluCccfg_SCRW
      let at0 (n b : Nat) : Prop := scratchBase k + n * 2 ^ 24 ≤ b
      ∃ t, exec (.scratchWaysChange p k v) s = .next t ∧ t.fld (.cluCccfg k) F.cluCccfg_SCRW = v.toNat ∧
        (∀ b, at0 old b → ¬ at0 v.toNat b → t.byte b = 0) ∧ (∀ b, at0 v.toNat b → ¬ at0 old b → t.byte b = Config.lostByte s.free b) ∧
        (∀ b, (at0 old b ↔ at0 v.toNat b) → t.byte b = s.byte b) ∧ ∀ r, r ≠ .cluCccfg k → t.reg r = s.reg r) ∧
    (∀ k v, exec (.scratchWaysChange .job k v) s = .next s) ∧
    (∀ (p : Priv) (c : Fin 256) (en : Bool), p ≠ .job → ∃ t, exec (.pairCheckingEnable p c en) s = .next t ∧
      t.flag (.corePairctl c) F.corePairctl_EN = en ∧ t.flag (.corePairctl c) F.corePairctl_ACTIVE = (en && !s.flag (.coreCstat c) F.coreCstat_DEGRADED) ∧
      (∀ i : A3, 4 ≤ i.val → en = true → s.flag (.corePairctl c) F.corePairctl_EN = false → t.slot c i = Slot.empty ∧ t.slotEmpty c i = true) ∧
      (∀ i : A3, i.val < 4 → t.slot c i = s.slot c i) ∧ ∀ b, t.byte b = s.byte b) ∧
    (∀ c en, exec (.pairCheckingEnable .job c en) s = .next s)

/-- For every one of the 36 symbols of a 288-bit word and every non-zero error pattern of its eight bits, a reader that meets exactly that
error corrects it with nothing left; and a word without errors reads as clean. -/
def Obligations.RimCodeCorrectsOneSymbol : Prop :=
  (∀ (i : Fin 36) (e : BitVec 8), e ≠ 0 → rimDecode (e.zeroExtend 288 <<< rimPlace i.val) = .corrected 0) ∧ rimDecode 0 = .clean

/-- On a link that is up: a bad codeword is counted and a NAK names the expected flit; a good one that does not hold the expected flit is
discarded, with a NAK where none is outstanding; an idle one changes nothing; a header flit without data puts its packet into the input
buffer and advances the sequence number. CTRL_CREDIT_ACK drops acknowledged packets from the retry buffer and returns credits; CTRL_NAK
sends the packets with unacknowledged flits again, and at 32 resends without progress takes the link down; LINK_CONTROL_SEND returns owed
credits, but none of a channel that holds an item of an uninstalled generation; NAK_REPEAT repeats the NAK after 2 µs. Retrain requests
move an up link to retraining; RETRAIN_TIMEOUT, once RTWAIT is over with the link not up again, LINK_DOWN and CTRL_GOING_DOWN take it down
with a probe, and a link that is up tells its partner on LINK_DOWN; LINK_EQUALISATION_COMPLETE brings it up by the lanes that passed or
fails it. SPOKE_LINK_ENABLE and SPOKE_RESET above privilege 2 start equalisation or leave the link down. A timestamp from the parent
corrects the timebase, another is answered; TIMEBASE_EXCHANGE sends one to the parent every 100 µs. Of a link that is not up, or down
already, before their time, and at privilege 2, the commands that need it change nothing. -/
def Obligations.LinksCarryFlitsAndChangeState : Prop :=
  ∀ (s : State) (p : SpokeId), s.stores = [] →
    let v := s.spoke p
    let one (r : Reg) (f : Nat × Nat) (t : State) : Prop := t.fld r f = min (s.fld r f + 1) (2 ^ f.2 - 1)
    let crcOf (l : List (BitVec 256)) : Nat := crc16 (((l ++ List.replicate 20 0).take 20).map fun (w : BitVec 256) => toBytes 32 w.toNat).flatten
    let skip (first : BitVec 20) : Nat := (v.rxSeq + 2 ^ 20 - first.toNat) % 2 ^ 20
    let nakSent (t : State) : Prop := (t.spoke p).nak = true ∧ (t.spoke p).nakAt = s.time ∧ t.out = s.out ++ [.control p 2 v.rxSeq [] 0] ∧ one (.spkRetry p) F.spkRetry_NAKS t
    (s.link p ≠ 2 → (∀ slots crc fec first, exec (.codewordReceive p slots crc fec first) s = .next s) ∧
      exec (.nakRepeat p) s = .next s ∧ exec (.linkControlSend p) s = .next s ∧ exec (.ctrlRetrainRequest p) s = .next s) ∧
    (s.link p = 2 →
      (∀ slots (crc : BitVec 16) (fec : Fin 3) first, fec = 2 ∨ crcOf slots ≠ crc.toNat →
        ∃ t, exec (.codewordReceive p slots crc fec first) s = .next t ∧ nakSent t ∧ one (.spkFec p) F.spkFec_UNCORR t) ∧
      (∀ slots (crc : BitVec 16) (first : BitVec 20), crcOf slots = crc.toNat → 20 ≤ skip first →
        (v.nak = true → exec (.codewordReceive p slots crc 0 first) s = .next s) ∧
        (v.nak = false → ∃ t, exec (.codewordReceive p slots crc 0 first) s = .next t ∧ nakSent t)) ∧
      (∀ (crc : BitVec 16) (first : BitVec 20), crcOf [] = crc.toNat → skip first < 20 → v.partialHead = none →
        exec (.codewordReceive p [] crc 0 first) s = .next s) ∧
      (∀ (h : BitVec 256) (crc : BitVec 16) (first : BitVec 20), crcOf [h] = crc.toNat → first.toNat = v.rxSeq → v.partialHead = none →
        getBits h (5, 5) ≠ 0 → (Packet.parse h).len = 0 → (Packet.parse h).malformed = false →
        ∃ t, exec (.codewordReceive p [h] crc 0 first) s = .next t ∧ (t.spoke p).rxSeq = (v.rxSeq + 1) % 2 ^ 20 ∧ t.out = s.out ∧
          (t.spoke p).input = v.input ++ [⟨Packet.parse h, if (Packet.parse h).sh then 17 else (Packet.parse h).row, none, false⟩] ∧
          one (.spkRxf p) F.spkRxf_COUNT t ∧ ∀ b, t.byte b = s.byte b) ∧
      (v.nak = true → v.nakAt + 200 ≤ s.time → ∃ t, exec (.nakRepeat p) s = .next t ∧ nakSent t) ∧
      (v.nak = false ∨ s.time < v.nakAt + 200 → exec (.nakRepeat p) s = .next s) ∧
      (∃ t cred, exec (.linkControlSend p) s = .next t ∧ t.out = s.out ++ [.control p 1 ((v.rxSeq + 2 ^ 20 - 1) % 2 ^ 20) cred 0] ∧
        cred.length = 18 ∧
        (∀ i, i < 17 → cred.getD i 0 = min (s.returnable p i) 4095 ∧ (t.spoke p).owed.get i 0 = v.owed.get i 0 - cred.getD i 0) ∧
        cred.getD 17 0 = min ((List.range 8).map fun c => s.returnable p (18 + c)).sum 4095 ∧
        ((List.range 8).map fun c => (t.spoke p).owed.get (18 + c) 0).sum + cred.getD 17 0 =
          ((List.range 8).map fun c => v.owed.get (18 + c) 0).sum) ∧
      (∃ t, exec (.ctrlRetrainRequest p) s = .next t ∧ t.link p = 3 ∧ one (.spkLstat p) F.spkLstat_RETRAINS t) ∧
      ∀ pr : Priv, pr ≠ .job → ∃ t, exec (.retrain pr p) s = .next t ∧ t.link p = 3 ∧ Out.control p 4 0 [] 0 ∈ t.out) ∧
    (∀ pr : Priv, pr = .job ∨ s.link p ≠ 2 → exec (.retrain pr p) s = .next s) ∧
    (∀ (seq : BitVec 20) (cred : List (BitVec 12)), ∃ t, exec (.ctrlCreditAck p seq cred) s = .next t ∧ t = { s with fab := t.fab } ∧
      (∀ i, i < 18 → (t.spoke p).credits.get i 0 = v.credits.get i 0 - ((cred.map BitVec.toNat).getD i 0)) ∧
      (∀ q, q ∈ (t.spoke p).retry ↔ q ∈ v.retry ∧ 32768 < (seq.toNat + 1 + 2 ^ 21 - (q.seq + q.pkt.flits)) % 2 ^ 20) ∧
      ∀ j, j ≠ p → t.spoke j = s.spoke j) ∧
    (∀ seq : BitVec 20,
      let n := (v.txSeq + 2 ^ 20 - seq.toNat) % 2 ^ 20
      (n = 0 ∨ 32768 < n → exec (.ctrlNak p seq) s = .next s) ∧
      (0 < n → n ≤ 32768 → v.resends < 15 → v.resentMs s.time + n ≤ s.fld (.spkLctl p) F.spkLctl_RTHR →
        ∃ t, exec (.ctrlNak p seq) s = .next t ∧ (t.spoke p).resends = v.resends + 1 ∧ t.link p = s.link p ∧ (t.spoke p).retry = v.retry ∧
          t.out = s.out ++ (v.retry.filter fun q => decide ((q.seq + q.pkt.flits - 1 + 2 ^ 20 - seq.toNat) % 2 ^ 20 ≤ 32768)).map fun q => .packet p q.pkt) ∧
      (0 < n → n ≤ 32768 → v.resends = 31 → s.link p = 2 → ∃ t, exec (.ctrlNak p seq) s = .next t ∧ t.link p = 0)) ∧
    (∀ (time : Word) (rtt : BitVec 32),
      let parent := s.flag .spkmCtl F.spkmCtl_TROOT = false ∧ s.fld .spkmCtl F.spkmCtl_TPARENT = p.val
      (parent → ∃ t, exec (.ctrlTimestamp p time rtt) s = .next t ∧ t = { s with fab := t.fab } ∧
        t.fab.timeAdjust = 10 * ((time.toNat : Int) - s.time) + (rtt.toNat / 2 : Nat)) ∧
      (¬ parent → exec (.ctrlTimestamp p time rtt) s = .next { s with out := s.out ++ [.control p 3 0 [] s.time] })) ∧
    (let q : SpokeId := Fin.ofNat _ (s.fld .spkmCtl F.spkmCtl_TPARENT);
      let early := ∃ n, (s.spoke q).tsAt = some n ∧ s.time < n + 10 ^ 4
      (s.flag .spkmCtl F.spkmCtl_TROOT = true ∨ s.link q ≠ 2 ∨ early → exec .timebaseExchange s = .next s) ∧
      (s.flag .spkmCtl F.spkmCtl_TROOT = false → s.link q = 2 → ¬ early → ∃ t, exec .timebaseExchange s = .next t ∧
        t.out = s.out ++ [.control q 3 0 [] s.time] ∧ (t.spoke q).tsAt = some s.time ∧ t = { s with out := t.out, fab := t.fab })) ∧
    (let late := v.waiting = true ∧ v.since + 100 * s.fld .spkmCtl F.spkmCtl_RTWAIT ≤ s.time;
      (late → ∃ t, exec (.retrainTimeout p) s = .next t ∧ t.link p = 0) ∧ (¬ late → exec (.retrainTimeout p) s = .next s)) ∧
    (∀ cause, (s.linkDown p = true → exec (.linkDown p cause) s = .next s ∧ exec (.ctrlGoingDown p) s = .next s) ∧
      (s.linkDown p = false →
        (∃ t, exec (.linkDown p cause) s = .next t ∧ t.link p = 0 ∧ (t.spoke p).probing = true ∧
          (s.link p = 2 → Out.control p 5 0 [] 0 ∈ t.out)) ∧
        ∃ t, exec (.ctrlGoingDown p) s = .next t ∧ t.link p = 0 ∧ (t.spoke p).probing = true)) ∧
    (∀ lanes : BitVec 16,
      let low := lanes.toNat % 256 = 255
      let high := lanes.toNat / 256 = 255
      let half := s.flag (.spkLctl p) F.spkLctl_X8OK = true ∧ (low ∨ high) ∧ ¬ (low ∧ high)
      (s.link p = 1 ∨ s.link p = 3 → ∃ t, exec (.linkEqualisationComplete p lanes) s = .next t ∧
        t.fld (.spkLstat p) F.spkLstat_LANEOK = lanes.toNat ∧
        (low ∧ high → t.link p = 2 ∧ t.flag (.spkLstat p) F.spkLstat_X8 = false) ∧
        (half → t.link p = 2 ∧ t.flag (.spkLstat p) F.spkLstat_X8 = true) ∧ (¬ (low ∧ high) → ¬ half → t.link p = 4)) ∧
      (s.link p ≠ 1 → s.link p ≠ 3 → s.flag .clkBrstat F.clkBrstat_EQDONE = true → exec (.linkEqualisationComplete p lanes) s = .next s)) ∧
    (∀ pr : Priv, pr ≠ .job →
      (s.link p = 0 → ∃ t, exec (.spokeLinkEnable pr p true) s = .next t ∧ t.flag (.spkLctl p) F.spkLctl_EN = true ∧ t.link p = 1 ∧ t.out = s.out) ∧
      (∃ t, exec (.spokeLinkEnable pr p false) s = .next t ∧ t.link p = 0) ∧
      ∃ t, exec (.spokeReset pr p) s = .next t ∧ (t.spoke p).rxSeq = 0 ∧ (t.spoke p).txSeq = 0 ∧ (t.spoke p).input = [] ∧
        (t.spoke p).credits = [] ∧ (t.link p = 0 ∨ t.link p = 1)) ∧
    (∀ en, exec (.spokeLinkEnable .job p en) s = .next s) ∧ exec (.spokeReset .job p) s = .next s

/-- PACKET_FORWARD delivers a direct packet here, sends a routed one on its best hop, notes since when one without a hop waits, and drops
one that its Rim checks cannot correct; ESCAPE_TO_VC7 moves an adaptive packet only once it has found no output for 200 ns. SPILL_REINJECT
injects the oldest spilled packet. Without a packet of its type a response command changes nothing; with the die bridge running, a
response whose tag is not outstanding is counted in LATE, RDRSP and AMORSP write the waiting context's register and let it go on, WRACK,
MGRSP and PRBRSP free the tag where no request of the Hub waits for one, and ERRRSP of a load that its context waits for faults it.
REQUEST_TIMEOUT does nothing before its time and then frees its tag after a pause; PROBE is answered with LASTRX, a SIG adds to its cleat
and PROBE_TIMEOUT ends a probe. A third failure in a row of one bridge flit, whatever others do between, stops the bridge: from then on no
packet is forwarded between Spokes of two dies, a SIG from the other die stays, and a load from the other die waits. -/
def Obligations.PacketsAreForwardedAndRequestsAnswered : Prop :=
  ∀ (s : State), s.stores = [] →
    let stopped : Prop := s.flag .hubBrgcnt F.hubBrgcnt_DOWN = true
    let firstOf (typ : Nat) (k : Packet) : Prop := ¬ stopped ∧ ∃ i frm, s.fab.ejected.findIdx? (fun q => q.2.typ == typ) = some i ∧ s.fab.ejected[i]? = some (frm, k)
    let noneOf (typ : Nat) : Prop := ∀ q ∈ s.fab.ejected, q.2.typ ≠ typ
    let freed (t : State) (tag : Nat) : Prop := s.fab.hubWaits = [] → ∀ r ∈ t.fab.reqs, r.tag ≠ tag
    let sane (r : Req) : Prop := s.ctxState r.x = 3 ∧ (s.ctx r.x).owed = 0
    (∀ (a : At) (rd ra : R5) (imm : Imm) (p : Nat),
      let g := s.sreg (issuer a) ra + imm.signExtend 64
      s.Issues a 0x33 → stopped → g.toNat % 8 = 0 → s.target g = some (.here p) →
      s.spanFault (issuer a) (.here p) 8 false = none → crosses (dieOf a.core) p = true →
      ∃ t, exec (.ld a .d rd ra imm) s = .next t ∧ t.ctxState (issuer a) = 3 ∧ t.sreg (issuer a) rd = s.sreg (issuer a) rd ∧
        ∀ b, t.byte b = s.byte b) ∧
    (∀ frm nth rim, s.headPacket frm nth = none → exec (.packetForward frm ⟨nth, rim⟩) s = .next s) ∧
    (∀ (p : SpokeId) (nth : Nat) (k : Packet) (rim : Fin 3), s.headPacket (some p) nth = some k →
      let best := s.bestHop ((s.nextHops k (some p)).filter (s.hopOpen (some p)))
      let noted (t : State) : Prop := t = { s with fab := t.fab } ∧ (t.spoke p).input =
        (s.spoke p).input.modify nth fun q => { q with blocked := some (q.blocked.getD s.time) }
      let adaptive : Prop := 2 ≤ k.vc ∧ k.vc ≤ 6 ∧ escapable k.typ = true ∧ s.uninstalled k.gtag = false ∧ s.noOutput p k = true
      let routed : Prop := k.direct = false ∧ s.flag .spkmCoord F.spkmCoord_VALID = true ∧ s.flag .spkmMap F.spkmMap_VALID = true ∧
        s.uninstalled k.gtag = false ∧ k.hops < 32 ∧ k.mc = false ∧ s.meetsSlot (some p) k = false
      (∃ t, exec (.packetForward (some p) ⟨nth, 2⟩) s = .next t ∧ (t.spoke p).input = (s.spoke p).input.eraseIdx nth ∧ t = { s with fab := t.fab }) ∧
      (rim ≠ 2 → k.direct = true → s.flag .spkmCtl F.spkmCtl_BYPASS = false → ∃ t, exec (.packetForward (some p) ⟨nth, rim⟩) s = .next t ∧
        t.fab.ejected = s.fab.ejected ++ [(some p, k)] ∧ (t.spoke p).input = (s.spoke p).input.eraseIdx nth ∧ t.out = s.out) ∧
      (rim ≠ 2 → routed → best = none → ∃ t, exec (.packetForward (some p) ⟨nth, rim⟩) s = .next t ∧ noted t) ∧
      (∀ q k', rim ≠ 2 → routed → best = some (.out q k') →
        ∃ t sh, exec (.packetForward (some p) ⟨nth, rim⟩) s = .next t ∧
        t.out = s.out ++ [.packet q { k' with sh := sh, hops := k'.hops + 1, entry := none }] ∧ t.fab.ejected = s.fab.ejected ∧ ∀ b, t.byte b = s.byte b) ∧
      (¬ adaptive → exec (.escapeToVc7 p nth) s = .next s) ∧
      (∀ i : InPkt, (s.spoke p).input[nth]? = some i → adaptive →
        (i.blocked = none → ∃ t, exec (.escapeToVc7 p nth) s = .next t ∧ noted t) ∧
        (∀ n, i.blocked = some n → s.time < n + 20 → exec (.escapeToVc7 p nth) s = .next s) ∧
        (∀ n q k', i.blocked = some n → n + 20 ≤ s.time → k.mc = false →
          (s.nextHops { k with vc := 7, dlc := false } (some p)).filter (s.hopOpen (some p)) = [.out q k'] → s.mayStart q k' = true →
          ∃ t sh, exec (.escapeToVc7 p nth) s = .next t ∧
            t.out = s.out ++ [.packet q { k' with sh := sh, hops := k'.hops + 1, entry := none }]))) ∧
    (s.fab.spill = [] → exec .spillReinject s = .next s) ∧
    (∀ q l, s.fab.spill = q :: l → ∃ t, exec .spillReinject s = .next t ∧ t.fab.spill = l ∧
      t.fab.inject = s.fab.inject ++ [{ q.pkt with dlc := false, lock := false, vc := (homeVc q.pkt.typ).getD q.pkt.vc }]) ∧
    (noneOf 4 → exec .pktRdrsp s = .next s) ∧ (noneOf 5 → exec .pktWrack s = .next s) ∧ (noneOf 6 → exec .pktAmorsp s = .next s) ∧
    (noneOf 7 → exec .pktErrrsp s = .next s) ∧ (noneOf 8 → exec .pktSig s = .next s) ∧ (noneOf 14 → exec .pktMgrsp s = .next s) ∧
    (noneOf 15 → exec .pktProbe s = .next s) ∧ (noneOf 16 → exec .pktPrbrsp s = .next s) ∧
    (∀ k, firstOf 4 k → s.reqOf k.tag = none → ∃ t, exec .pktRdrsp s = .next t ∧
      t.fld .spkmFcstat F.spkmFcstat_LATE = min (s.fld .spkmFcstat F.spkmFcstat_LATE + 1) (2 ^ F.spkmFcstat_LATE.2 - 1) ∧ t.core = s.core) ∧
    (∀ k r rd n sg, firstOf 4 k → s.reqOf k.tag = some r → r.kind = .load rd n sg → s.waitsFor r = true → sane r →
      ∃ t, exec .pktRdrsp s = .next t ∧ freed t k.tag ∧ t.ctxState r.x = (if s.isMoved r.x then 5 else 1) ∧ t.pc r.x = (r.iaddr + 8) % 2 ^ 48 ∧
        t.sreg r.x rd = if rd = 0 then 0 else loadVal n sg (ofBytes (k.payload.take n))) ∧
    (∀ k r rd, firstOf 6 k → s.reqOf k.tag = some r → r.kind = .amo rd → s.waitsFor r = true → sane r →
      ∃ t, exec .pktAmorsp s = .next t ∧ freed t k.tag ∧ t.ctxState r.x = (if s.isMoved r.x then 5 else 1) ∧
        t.sreg r.x rd = if rd = 0 then 0 else BitVec.ofNat 64 (ofBytes (k.payload.take 8))) ∧
    (∀ k r, firstOf 5 k → s.reqOf k.tag = some r → r.kind = .store → r.acks ≤ 1 → ∃ t, exec .pktWrack s = .next t ∧ freed t k.tag ∧ t.core = s.core) ∧
    (∀ k r, firstOf 14 k → s.reqOf k.tag = some r → r.kind = .mgmt → ∃ t, exec .pktMgrsp s = .next t ∧ freed t k.tag ∧ t.core = s.core) ∧
    (∀ k r p, firstOf 16 k → s.reqOf k.tag = some r → r.kind = .probe p → (s.spoke p).probing = true → (s.spoke p).retry = [] →
      ∃ t, exec .pktPrbrsp s = .next t ∧ freed t k.tag ∧ (t.spoke p).probing = false ∧ t.core = s.core) ∧
    (∀ k r rd n sg, firstOf 7 k → s.reqOf k.tag = some r → r.kind = .load rd n sg → s.waitsFor r = true → sane r →
      ∃ t, exec .pktErrrsp s = .next t ∧ freed t k.tag ∧ t.ctxState r.x = 4 ∧
        t.fld (.ctxFlt0 r.x.core r.x.n) F.ctxFlt0_CODE = (errFault (k.spec 168 4) r.global).code ∧ t.sreg r.x rd = s.sreg r.x rd) ∧
    (∀ k, firstOf 15 k → ∃ t a, exec .pktProbe s = .next t ∧ t.fab.inject = s.fab.inject ++ [a] ∧ a.typ = 0x10 ∧ a.vc = 0 ∧
      a.dst = k.src ∧ a.tag = k.tag ∧ a.tspec = (s.reg (.spkPrb (Fin.ofNat _ (k.spec 168 3)))).toNat % 2 ^ 21) ∧
    (∀ k q, firstOf 8 k → cleatAt k.addr = some q → ∃ t, exec .pktSig s = .next t ∧
      t.cleat q.1 q.2 = s.cleat q.1 q.2 + BitVec.ofNat 64 (k.spec 168 64) ∧ ∀ b, t.byte b = s.byte b) ∧
    (stopped → (∀ q ∈ s.fab.ejected, q.2.typ = 8 → ∃ p c, q.1 = some p ∧ cleatAt q.2.addr = some c ∧ dieOfSpoke p ≠ dieOf c.1) →
      exec .pktSig s = .next s) ∧
    (∀ tag : BitVec 16, (s.reqOf tag.toNat = none → exec (.requestTimeout tag) s = .next s) ∧
      ∀ r, s.reqOf tag.toNat = some r → (s.time < r.at_ + 100 * s.fld .spkmCtl F.spkmCtl_TMO → exec (.requestTimeout tag) s = .next s) ∧
        (r.at_ + 100 * s.fld .spkmCtl F.spkmCtl_TMO ≤ s.time → (s.ctx r.x).owed = 0 → ∃ t, exec (.requestTimeout tag) s = .next t ∧ freed t tag.toNat ∧
          t.fld .spkmFcstat F.spkmFcstat_TMO = min (s.fld .spkmFcstat F.spkmFcstat_TMO + 1) (2 ^ F.spkmFcstat_TMO.2 - 1) ∧
          (s.fab.hubWaits = [] → (tag.toNat, s.time + 400 * s.fld .spkmCtl F.spkmCtl_TMO) ∈ t.fab.cooling))) ∧
    (∀ p : SpokeId, ((s.spoke p).probing = false ∨ s.time < (s.spoke p).probeAt + 100 * s.fld .spkmCtl F.spkmCtl_PRBTMO → exec (.probeTimeout p) s = .next s) ∧
      ((s.spoke p).probing = true → (s.spoke p).probeAt + 100 * s.fld .spkmCtl F.spkmCtl_PRBTMO ≤ s.time →
        ∃ t, exec (.probeTimeout p) s = .next t ∧ (t.spoke p).probing = false ∧ (t.spoke p).retry = [] ∧ ∀ r ∈ t.fab.reqs, r.kind ≠ .probe p)) ∧
    (∀ (d : Fin 2) (vc : Fin 8) (seq : BitVec 20) (e : BitVec 288),
      let fails : Nat := ((s.pow.bridgeFails.find? fun q => q.1 == d.val && q.2.1 == seq.toNat).map fun q => q.2.2).getD 0
      let others := s.pow.bridgeFails.filter fun q => !(q.1 == d.val && q.2.1 == seq.toNat)
      let once (f : Nat × Nat) (t : State) : Prop := t.fld .hubBrgcnt f = min (s.fld .hubBrgcnt f + 1) (2 ^ f.2 - 1)
      (stopped → exec (.bridgeFlitReceive d vc seq e) s = .next s) ∧
      (¬ stopped →
        (rimDecode e = .clean → ∃ t, exec (.bridgeFlitReceive d vc seq e) s = .next t ∧ t.pow.bridgeFails = others ∧ t = { s with pow := t.pow }) ∧
        (∀ rest, rimDecode e = .corrected rest → ∃ t, exec (.bridgeFlitReceive d vc seq e) s = .next t ∧ t.pow.bridgeFails = others ∧
          once F.hubBrgcnt_CORR t) ∧
        (rimDecode e = .uncorrectable → ∃ t, exec (.bridgeFlitReceive d vc seq e) s = .next t ∧
          t.pow.bridgeFails = (d.val, seq.toNat, fails + 1) :: others ∧ once F.hubBrgcnt_RETRY t ∧
          t.flag .hubBrgcnt F.hubBrgcnt_DOWN = decide (2 ≤ fails))))

/-- Without a packet of its type each of PKT_WR, PKT_RDREQ, PKT_AMO and PKT_MGMT changes nothing; while the die bridge is stopped, writes
that would cross it stay. With the bridge running: at an address that does not exist a write, a read and an amo.add, and a misaligned
amo.add, are answered by an error response with code 2, as is a read of no or more than 4,096 bytes, and memory is unchanged. At memory
that exists, outside the control window and without errors, a write stores its payload and changes no byte that such a write does not
touch, and is answered by WRACK; a read is answered by RDRSP with the bytes; an aligned amo.add stores the sum and is answered by AMORSP
with the old value. A management packet is answered by MGRSP: refused where fabric delivery is not allowed or its kind is unknown, and
with the progress bitmap for kind 0x22. -/
def Obligations.RequestsOfOtherModulesAreServed : Prop :=
  ∀ (s : State) (k : Packet), s.stores = [] →
    let stopped : Prop := s.flag .hubBrgcnt F.hubBrgcnt_DOWN = true
    let firstOf (typ : Nat) : Prop := ¬ stopped ∧ ∃ i frm, s.fab.ejected.findIdx? (fun q => q.2.typ == typ) = some i ∧ s.fab.ejected[i]? = some (frm, k)
    let noneOf (typ : Nat) : Prop := ∀ q ∈ s.fab.ejected, q.2.typ ≠ typ
    let answer (typ code : Nat) (bs : List Byte) (t : State) : Prop := ∃ a, t.fab.inject = s.fab.inject ++ [a] ∧ a.typ = typ ∧ a.vc = 0 ∧
      a.dst = k.src ∧ a.src = s.lmn ∧ a.tag = k.tag ∧ a.fctx = k.fctx ∧ a.tspec = code ∧ a.payload = bs
    let good (n : Nat) : Prop := s.spanExists k.priv k.addr n = true ∧ ctlOff k.addr = none ∧ s.flawed k.addr n = [] ∧
      (s.tandem = true → s.flawed (k.addr + 2 ^ 40) n = [])
    let same (t : State) : Prop := t.core.ctxs = s.core.ctxs ∧ ∀ b, t.byte b = s.byte b
    (noneOf 1 → exec .pktWr s = .next s) ∧ (noneOf 2 → exec .pktAmo s = .next s) ∧ (noneOf 3 → exec .pktRdreq s = .next s) ∧
    (noneOf 13 → exec .pktMgmt s = .next s) ∧
    (stopped → (∀ q ∈ s.fab.ejected, q.2.typ = 1 → ∃ p, q.1 = some p ∧ crosses (dieOfSpoke p) q.2.addr = true) → exec .pktWr s = .next s) ∧
    (firstOf 1 → s.spanExists k.priv k.addr k.payload.length = false → ∃ t, exec .pktWr s = .next t ∧ answer 7 2 [] t ∧ same t) ∧
    (firstOf 1 → good k.payload.length → ∃ t, exec .pktWr s = .next t ∧ answer 5 0 [] t ∧ t.core.ctxs = s.core.ctxs ∧
      (∀ j (h : j < k.payload.length), t.byte (k.addr + j) = k.payload[j]) ∧ ∀ b, ¬ s.touches k.addr k.payload.length b → t.byte b = s.byte b) ∧
    (firstOf 2 → s.spanExists k.priv k.addr 8 = false ∨ k.addr % 8 ≠ 0 → ∃ t, exec .pktAmo s = .next t ∧ answer 7 2 [] t ∧ same t) ∧
    (firstOf 2 → k.addr % 8 = 0 → good 8 →
      let old := ofBytes (s.bytes k.addr 8)
      ∃ t, exec .pktAmo s = .next t ∧ answer 6 0 (s.bytes k.addr 8) t ∧
        t.bytes k.addr 8 = toBytes 8 ((old + ofBytes k.payload) % 2 ^ 64) ∧ ∀ b, ¬ s.touches k.addr 8 b → t.byte b = s.byte b) ∧
    (firstOf 3 → (k.spec 168 13 = 0 ∨ 4096 < k.spec 168 13 ∨ s.spanExists k.priv k.addr (k.spec 168 13) = false) →
      ∃ t, exec .pktRdreq s = .next t ∧ answer 7 2 [] t ∧ same t) ∧
    (firstOf 3 → 0 < k.spec 168 13 → k.spec 168 13 ≤ 4096 → good (k.spec 168 13) →
      ∃ t, exec .pktRdreq s = .next t ∧ answer 4 0 (s.bytes k.addr (k.spec 168 13)) t ∧ same t) ∧
    (firstOf 13 → s.fwServes = false ∨ s.phase = 4 ∨ s.flag .hubFwctl F.hubFwctl_FABRICOK = false →
      ∃ t, exec .pktMgmt s = .next t ∧ answer 14 (k.spec 168 8 / 16 * 16 + 1) [] t ∧ t.flash = s.flash ∧ same t) ∧
    (firstOf 13 → s.fwServes = true → s.phase ≠ 4 → s.flag .hubFwctl F.hubFwctl_FABRICOK = true →
      (k.spec 168 8 = 0x22 → ∃ t, exec .pktMgmt s = .next t ∧ answer 14 0x20 s.bitmapBytes t ∧ t.flash = s.flash ∧ same t) ∧
      (k.spec 168 8 ≠ 0x20 → k.spec 168 8 ≠ 0x21 → k.spec 168 8 ≠ 0x22 →
        ∃ t, exec .pktMgmt s = .next t ∧ answer 14 (k.spec 168 8 / 16 * 16 + 1) [] t ∧ t.flash = s.flash ∧ same t))

/-- Without its packet a notice or collective packet command changes nothing; one of a peloton that is not open for its generation is
discarded and counted as foreign. At the epoch the peloton serves: JOIN of a collective unheard of is held; GO makes a joined one hold GO
and its packets leave; SEAL of the running attempt is noted for a member that has sent none; REPLAY at raise count below 3 makes the
attempt start again one higher, at 3 brings the fallback, and one already superseded does nothing; ABORT makes unsealed participants
abandon the attempt. Rows, DONE counts and gathered data of a closed collective are dropped; of a joined one gathered data is written at
its place in the gather cache and noted, a DONE before the dispatch notes its count, and a row is noted. A sum record passing a router
without slots for its peloton goes on; otherwise it claims a slot where one is free and is not complete by it. NOTICE_REPEAT sends one
notice again, 50 µs after the last time; SLOT_TIMEOUT frees its slot, JOIN_TIMEOUT closes its collective and COMPLETION_TIMEOUT closes an
unsealed one, none of them before its time. -/
def Obligations.CollectivePacketsAndNoticesAct : Prop :=
  ∀ (s : State), s.stores = [] →
    let absent (f : Packet → Bool) : Prop := s.fab.ejected.findIdx? (fun q => f q.2) = none
    let first (f : Packet → Bool) (frm : Option SpokeId) (k : Packet) : Prop :=
      ∃ i, s.fab.ejected.findIdx? (fun q => f q.2) = some i ∧ s.fab.ejected[i]? = some (frm, k)
    let note (n : Nat) (k : Packet) : Bool := k.typ == 0x09 && k.kind == n
    let foreign (frm : Option SpokeId) (t : State) : Prop := t.fld (.spkDisc (frm.getD 0)) F.spkDisc_FOREIGN =
      min (s.fld (.spkDisc (frm.getD 0)) F.spkDisc_FOREIGN + 1) (2 ^ F.spkDisc_FOREIGN.2 - 1) ∧ t.core = s.core ∧ ∀ b, t.byte b = s.byte b
    let isOpen (k : Packet) : Prop := (s.pelotonFor k.gtag k.ph).isSome = true
    let here (k : Packet) (d : PltDesc) : Prop := ∃ q, s.pelotonFor k.gtag k.ph = some q ∧ s.pltDesc k.gtag q = d ∧ k.epoch = d.epoch
    let dropped (t : State) : Prop := t = { s with fab := t.fab } ∧ t.fab = { s.fab with ejected := t.fab.ejected }
    (absent (note 1) → exec .noticeJoin s = .next s) ∧ (absent (note 2) → exec .noticeGo s = .next s) ∧
    (absent (note 3) → exec .noticeSeal s = .next s) ∧ (absent (note 4) → exec .noticeReplay s = .next s) ∧
    (absent (note 5) → exec .noticeAbort s = .next s) ∧ (absent (note 6) → exec .noticeDone s = .next s) ∧
    (absent (fun k => k.typ == 0x0B) → exec .pktGath s = .next s) ∧ (absent (fun k => k.typ == 0x0C) → exec .pktXrow s = .next s) ∧
    (∀ res err, absent (fun k => k.typ == 0x0A) → exec (.pktSum res err) s = .next s) ∧
    (∀ frm k, ¬ isOpen k →
      (first (note 1) frm k → ∃ t, exec .noticeJoin s = .next t ∧ foreign frm t) ∧
      (first (note 2) frm k → ∃ t, exec .noticeGo s = .next t ∧ foreign frm t) ∧
      (first (note 3) frm k → ∃ t, exec .noticeSeal s = .next t ∧ foreign frm t) ∧
      (first (note 4) frm k → ∃ t, exec .noticeReplay s = .next t ∧ foreign frm t) ∧
      (first (note 5) frm k → ∃ t, exec .noticeAbort s = .next t ∧ foreign frm t) ∧
      (first (note 6) frm k → ∃ t, exec .noticeDone s = .next t ∧ foreign frm t) ∧
      (first (fun k => k.typ == 0x0B) frm k → ∃ t, exec .pktGath s = .next t ∧ foreign frm t) ∧
      (first (fun k => k.typ == 0x0C) frm k → ∃ t, exec .pktXrow s = .next t ∧ foreign frm t)) ∧
    (∀ frm k d, first (note 1) frm k → here k d → s.coll k.ph k.seq k.epoch = none → ∃ t c, exec .noticeJoin s = .next t ∧
      t.coll k.ph k.seq k.epoch = some c ∧ c.joined = false ∧ c.joins = [⟨k.src, k.spec 168 64, k.addr.testBit 42⟩] ∧ t.core = s.core) ∧
    (∀ frm k d c, first (note 2) frm k → here k d → s.coll k.ph k.seq k.epoch = some c → c.joined = true → c.closed = false → c.go = false →
      ∃ t e, exec .noticeGo s = .next t ∧ t.coll k.ph k.seq k.epoch = some e ∧ e.go = true ∧ e.goAt = s.time ∧ e.waiting = [] ∧
        e.needmap = BitVec.ofNat 64 (k.spec 168 64)) ∧
    (∀ frm k, first (note 3) frm k → isOpen k → (s.attempt k.op).cause = none → k.spec 168 2 = (s.attempt k.op).raise →
      (∀ q ∈ (s.attempt k.op).seals, q.lmn ≠ k.src) → ∃ t, exec .noticeSeal s = .next t ∧
        (t.attempt k.op).seals = (s.attempt k.op).seals ++ [⟨k.src, k.spec 178 8, k.spec 186 8⟩] ∧ ∀ b, t.byte b = s.byte b) ∧
    (∀ frm k, first (note 4) frm k → isOpen k →
      (s.opSealed k.op = true ∨ k.spec 168 2 < (s.attempt k.op).raise → ∃ t, exec .noticeReplay s = .next t ∧ dropped t) ∧
      (s.opSealed k.op = false → (s.attempt k.op).cause = none → (s.attempt k.op).raise ≤ k.spec 168 2 → k.spec 168 2 ≠ 3 → k.ph ≠ 0 →
        ∃ t, exec .noticeReplay s = .next t ∧ (t.attempt k.op).raise = k.spec 168 2 + 1 ∧ (t.attempt k.op).cause = none) ∧
      (s.opSealed k.op = false → (s.attempt k.op).cause = none → (s.attempt k.op).raise ≤ 3 → k.spec 168 2 = 3 → k.ph ≠ 0 →
        ∃ t, exec .noticeReplay s = .next t ∧ (t.attempt k.op).fallback.isSome = true)) ∧
    (∀ frm k, first (note 5) frm k → isOpen k →
      (s.opSealed k.op = true → ∃ t, exec .noticeAbort s = .next t ∧ dropped t) ∧
      (s.opSealed k.op = false → (s.attempt k.op).cause = none → ∃ t, exec .noticeAbort s = .next t ∧
        ∀ x b, (s.ctx x).bracket = some b → b.op = k.op → b.aborted = false → ∃ b', (t.ctx x).bracket = some b' ∧ b'.aborted = true)) ∧
    (∀ frm k d c, here k d → s.coll k.ph k.seq k.epoch = some c → c.closed = true →
      (first (note 6) frm k → ∃ t, exec .noticeDone s = .next t ∧ dropped t) ∧
      (first (fun k => k.typ == 0x0B) frm k → ∃ t, exec .pktGath s = .next t ∧ dropped t) ∧
      (first (fun k => k.typ == 0x0C) frm k → ∃ t, exec .pktXrow s = .next t ∧ dropped t)) ∧
    (∀ frm k d c, here k d → s.coll k.ph k.seq k.epoch = some c → c.closed = false → c.joined = true →
      (first (note 6) frm k → c.dispatch = none → ∃ t, exec .noticeDone s = .next t ∧
        (t.region k.ph k.seq (k.spec 200 6)).need = some (k.spec 168 32)) ∧
      (∀ e, first (fun k => k.typ == 0x0B) frm k → s.gatherEntry k.ph k.seq = some e →
        let share := k.spec 168 6
        let off := 32 * k.spec 176 30
        off + k.payload.length ≤ e.sizes.getD share 0 → (c.shards.any fun q => q.1 == share && q.2.1 == off) = false →
        (c.wholeShares e.sizes).contains share = false → s.flawed (e.addr d share off) k.payload.length = [] → s.tandem = false →
        ∃ t c', exec .pktGath s = .next t ∧ t.coll k.ph k.seq k.epoch = some c' ∧ c'.shards = c.shards ++ [(share, off, k.payload.length)] ∧
          ∀ j (h : j < k.payload.length), t.byte (e.addr d share off + j) = k.payload[j]) ∧
      (∀ p, first (fun k => k.typ == 0x0C) frm k → k.spec 206 1 = 0 → c.dispatch = some p →
        (s.region k.ph k.seq (k.spec 200 6)).need = none → ∃ t, exec .pktXrow s = .next t ∧
          k.spec 168 32 ∈ (t.region k.ph k.seq (k.spec 200 6)).rows)) ∧
    (∀ res frm k d m, first (fun k => k.typ == 0x0A) frm k → SumRec.parse k.payload = some m → here k d → k.mc = false → k.dst ≠ s.lmn → m.v = false →
      (d.slotok = false → ∃ t, exec (.pktSum res none) s = .next t ∧ t.fab.inject = s.fab.inject ++ [k] ∧ t.plt = s.plt ∧ t.core = s.core) ∧
      (d.slotok = true → k.spec 232 1 ≠ 1 → m.inf = false → s.adderAway = false → d.shares.contains s.lmn = true →
        (s.plt.slots.find? fun r => r.holds k (m.first / 128)) = none → s.plt.slots.length < 64 →
        s.slotDone d ((RSlot.claim k m).add k m s.time) = false → ∃ t, exec (.pktSum 0 none) s = .next t ∧
          t.plt.slots = s.plt.slots ++ [(RSlot.claim k m).add k m s.time] ∧ t.fab.inject = s.fab.inject)) ∧
    (∀ nth, (s.notices[nth]? = none → exec (.noticeRepeat nth) s = .next s) ∧
      ∀ q, s.notices[nth]? = some q → (s.time < q.2.1 + 5000 → exec (.noticeRepeat nth) s = .next s) ∧
        (q.2.1 + 5000 ≤ s.time → ∃ t, exec (.noticeRepeat nth) s = .next t ∧ t.fab.inject = s.fab.inject ++ [q.1] ∧ t.core = s.core)) ∧
    (∀ nth, (s.plt.slots[nth]? = none → exec (.slotTimeout nth) s = .next s) ∧
      ∀ r, s.plt.slots[nth]? = some r → (s.time < r.last + 100 * s.fld .hubPltctl F.hubPltctl_SLOTTMO → exec (.slotTimeout nth) s = .next s) ∧
        (r.last + 100 * s.fld .hubPltctl F.hubPltctl_SLOTTMO ≤ s.time → ∃ t, exec (.slotTimeout nth) s = .next t ∧
          t.plt.slots = (s.plt.slots.filter fun q => q != r) ∧ t.core = s.core)) ∧
    (∀ (ph : BitVec 14) (seq : BitVec 16), s.descFor s.gtag ph.toNat = none →
      exec (.joinTimeout ph seq) s = .next s ∧ exec (.completionTimeout ph seq) s = .next s) ∧
    (∀ (ph : BitVec 14) (seq : BitVec 16) d c, s.descFor s.gtag ph.toNat = some d → s.coll ph.toNat seq.toNat d.epoch = some c →
      (c.joined = false ∨ c.go = true ∨ c.closed = true ∨ s.time < c.begun + 100 * s.fld .hubPltctl F.hubPltctl_JTMO →
        exec (.joinTimeout ph seq) s = .next s) ∧
      (c.joined = true → c.go = false → c.closed = false → c.begun + 100 * s.fld .hubPltctl F.hubPltctl_JTMO ≤ s.time →
        ∃ t e, exec (.joinTimeout ph seq) s = .next t ∧ t.coll ph.toNat seq.toNat d.epoch = some e ∧ e.closed = true ∧ e.waiting = []) ∧
      (c.go = false ∨ c.closed = true ∨ s.time < c.goAt + 100 * s.fld .hubPltctl F.hubPltctl_CTMO →
        exec (.completionTimeout ph seq) s = .next s) ∧
      (c.go = true → c.closed = false → c.goAt + 100 * s.fld .hubPltctl F.hubPltctl_CTMO ≤ s.time →
        ∃ t e, exec (.completionTimeout ph seq) s = .next t ∧ t.coll ph.toNat seq.toNat d.epoch = some e ∧
          (s.opSealed c.op = true → e = c) ∧ (s.opSealed c.op = false → e.closed = true)))

/-- PELOTON_OPEN outside full service is refused by Kickstand. Otherwise a bad handle, a full table, an unreadable descriptor or one that
breaks its checks is refused with WHY 1, 2, the read's reason or 3, and a good one opens the peloton and shows LASTH. PELOTON_CLOSE of a
handle not open or in use is refused with WHY 1 or 4; otherwise the handle is closed and no collective or cache entry of it stays.
PELOTON_REPLACE written directly is refused, with 1 or 7. GEN_STAGE naming the live generation cancels; naming the next one it stages it
or is refused with WHY 2, 3, or 4 for a bad length (in that order, log entry 83); any other is refused with 1. GEN_CANCEL cancels.
GEN_LIST_COPIED acts once, on a readable list: a bad one cancels with WHY 5; with a job resident a list of atomic entries sets COPIED and
is kept, and one CLOSE alone leaves the handle open and is noted beside it; with no job resident one atomic entry alone makes the
generation live and its register takes the value (SQACC, CCCFG and PAIRCTL values not stated here). GEN_DRAINED ends draining once nothing
carries the old tag, and old values go; GEN_DRAIN_OVER sets OVER once per drain when it is over the limit. From a job's privilege nothing
changes. -/
def Obligations.PelotonsOpenAndGenerationsTakeEffect : Prop :=
  ∀ (s : State) (p : Priv), s.stores = [] → p ≠ .job →
    let refused (why : Nat) (t : State) : Prop := t.flag .hubPltstat F.hubPltstat_REJ = true ∧ t.fld .hubPltstat F.hubPltstat_WHY = why ∧
      t.plt = s.plt ∧ ∀ b, t.byte b = s.byte b
    let genRefused (why : Nat) (t : State) : Prop := t.flag .hubGenstat F.hubGenstat_REJ = true ∧ t.fld .hubGenstat F.hubGenstat_WHY = why ∧
      t.live = s.live
    let cancelled (t : State) : Prop := t.gen.staged = none ∧ t.gen.next = [] ∧ t.gen.opening = [] ∧ t.gen.closing = [] ∧
      t.flag .hubGenstat F.hubGenstat_PEND = false ∧ t.flag .hubGenstat F.hubGenstat_COPIED = false ∧ ∀ q ∈ t.plt.pelotons, q.next = none
    (∀ (h : BitVec 14) (a : BitVec 42),
      (s.phase ≠ 3 → ∃ t, exec (.pelotonOpen p h a) s = .next t ∧ t.flag .clkBrstat F.clkBrstat_KSREJ = true ∧ t.plt = s.plt) ∧
      (s.phase = 3 →
        (h = 0 ∨ s.openHandle h.toNat = true → ∃ t, exec (.pelotonOpen p h a) s = .next t ∧ refused 1 t) ∧
        (h ≠ 0 → s.openHandle h.toNat = false →
          (1024 ≤ s.plt.pelotons.length → ∃ t, exec (.pelotonOpen p h a) s = .next t ∧ refused 2 t) ∧
          (s.plt.pelotons.length < 1024 →
            let r := s.readPlt (64 * a.toNat)
            (∀ why, r.2 = .error why → ∃ t, exec (.pelotonOpen p h a) s = .next t ∧ t.fld .hubPltstat F.hubPltstat_WHY = why ∧ t.plt = s.plt) ∧
            (∀ v hash, r.2 = .ok (v, hash) →
              (r.1.badPlt (s.reg .spkmBlk) v h.toNat = true → ∃ t, exec (.pelotonOpen p h a) s = .next t ∧
                t.fld .hubPltstat F.hubPltstat_WHY = 3 ∧ t.plt = s.plt) ∧
              (r.1.badPlt (s.reg .spkmBlk) v h.toNat = false → ∃ t, exec (.pelotonOpen p h a) s = .next t ∧
                t.fld .hubPltstat F.hubPltstat_LASTH = h.toNat ∧ t.openHandle h.toNat = true ∧ t.plt.pelotons = s.plt.pelotons ++
                  [{ handle := h.toNat, desc := parsePlt v hash, old := none, next := none, early := false }])))))) ∧
    (∀ h : BitVec 14, (s.openHandle h.toNat = false → ∃ t, exec (.pelotonClose p h) s = .next t ∧ refused 1 t) ∧
      (s.openHandle h.toNat = true → s.handleUsed h.toNat = true → ∃ t, exec (.pelotonClose p h) s = .next t ∧ refused 4 t) ∧
      (s.openHandle h.toNat = true → s.handleUsed h.toNat = false → ∃ t, exec (.pelotonClose p h) s = .next t ∧
        t.openHandle h.toNat = false ∧ t.fld .hubPltstat F.hubPltstat_LASTH = h.toNat ∧ (∀ q, q ≠ h.toNat → t.peloton q = s.peloton q) ∧
        (∀ c ∈ t.plt.colls, c.ph ≠ h.toNat) ∧ ∀ e ∈ t.plt.cache, e.ph ≠ h.toNat)) ∧
    (∀ (h : BitVec 14) a, ∃ t, exec (.pelotonReplace p h a) s = .next t ∧ refused (if s.openHandle h.toNat then 7 else 1) t) ∧
    (∀ h a, exec (.pelotonOpen .job h a) s = .next s ∧ exec (.pelotonClose .job h) s = .next s ∧ exec (.pelotonReplace .job h a) s = .next s) ∧
    (∀ g st : BitVec 32,
      let ahead := (st.toNat + 2 ^ 32 - s.stepNow) % 2 ^ 32
      let early := s.resident = true ∧ (ahead = 0 ∨ 2 ^ 31 ≤ ahead)
      let busy := s.flag .hubGenstat F.hubGenstat_PEND = true ∨ s.draining = true
      let addr := s.fld .hubGenlist F.hubGenlist_ADDR * 64
      let n := s.fld .hubGenlen F.hubGenlen_COUNT
      (g.toNat = s.live → ∃ t, exec (.genStage p g st) s = .next t ∧ cancelled t ∧ t.live = s.live) ∧
      (g.toNat ≠ s.live → g.toNat ≠ (s.live + 1) % 2 ^ 32 → ∃ t, exec (.genStage p g st) s = .next t ∧ genRefused 1 t) ∧
      (g.toNat = (s.live + 1) % 2 ^ 32 →
        (early → ∃ t, exec (.genStage p g st) s = .next t ∧ genRefused 2 t) ∧
        (¬ early → busy → ∃ t, exec (.genStage p g st) s = .next t ∧ genRefused 3 t) ∧
        (¬ early → ¬ busy → n = 0 ∨ 65536 < n → ∃ t, exec (.genStage p g st) s = .next t ∧ genRefused 4 t) ∧
        (¬ early → ¬ busy → n ≠ 0 → n ≤ 65536 → addr < 2 ^ 41 → (s.place .driver addr).isSome = true →
          (s.place .driver (addr + 16 * n - 1)).isSome = true → ∃ t, exec (.genStage p g st) s = .next t ∧
            t.gen.staged = some { gen := g.toNat, step := st.toNat, addr := addr, count := n, list := [] } ∧
            t.flag .hubGenstat F.hubGenstat_PEND = true ∧ t.flag .hubGenstat F.hubGenstat_COPIED = false ∧ t.live = s.live)) ∧
      exec (.genStage .job g st) s = .next s) ∧
    (∃ t, exec (.genCancel p) s = .next t ∧ cancelled t ∧ t.live = s.live ∧ ∀ b, t.byte b = s.byte b) ∧
    exec (.genCancel .job) s = .next s ∧
    (s.gen.staged = none ∨ s.flag .hubGenstat F.hubGenstat_COPIED = true → exec .genListCopied s = .next s) ∧
    (∀ g, s.gen.staged = some g → s.flag .hubGenstat F.hubGenstat_COPIED = false → s.flawed g.addr (16 * g.count) = [] →
      (s.stageList g.addr g.count = none → ∃ t, exec .genListCopied s = .next t ∧ genRefused 5 t ∧ cancelled t) ∧
      (∀ l, s.stageList g.addr g.count = some l → (∀ e ∈ l, ∃ r, Reg.ofOffset e.1 = some r ∧ r.atomic = true) → s.resident = true → ∃ t, exec .genListCopied s = .next t ∧
        t.flag .hubGenstat F.hubGenstat_COPIED = true ∧ t.gen.staged = some { g with list := l } ∧ t.live = s.live) ∧
      (∀ off v h, s.stageList g.addr g.count = some [(off, v)] → Reg.ofOffset off = some .hubPltcmd → getBits v F.hubPltcmd_CMD = 2 →
        getBits v F.hubPltcmd_HANDLE = h → s.openHandle h = true → s.gen.opening = [] → s.gen.closing = [] → s.resident = true →
        ∃ t, exec .genListCopied s = .next t ∧ t.flag .hubGenstat F.hubGenstat_COPIED = true ∧ t.gen.closing = [h] ∧ t.openHandle h = true ∧
          t.live = s.live) ∧
      (∀ off r v, s.stageList g.addr g.count = some [(off, v)] → Reg.ofOffset off = some r → r.atomic = true → s.gen.next = [] →
        s.resident = false → ∃ t, exec .genListCopied s = .next t ∧ t.live = g.gen % 2 ^ 32 ∧ t.gen.staged = none ∧
          t.flag .hubGenstat F.hubGenstat_PEND = false ∧ t.draining = s.draining ∧
          ((∀ c, r ≠ .coreSqacc c) → (∀ k, r ≠ .cluCccfg k) → (∀ c, r ≠ .corePairctl c) →
            t.reg r = s.stagedValue r (s.reg r) v &&& r.mask))) ∧
    (s.draining = false ∨ s.oldItems ≠ 0 → exec .genDrained s = .next s) ∧
    (s.draining = true → s.oldItems = 0 → ∃ t, exec .genDrained s = .next t ∧ t.draining = false ∧ t.gen.prev = [] ∧
      t.gen.closed = [] ∧ t.gen.opened = [] ∧ (∀ q ∈ t.plt.pelotons, q.old = none) ∧ t.live = s.live) ∧
    (let late := s.draining = true ∧ s.fld .hubGenlimit F.hubGenlimit_LIMIT < s.usSince s.gen.drainSince ∧ s.gen.told = false;
      (late → ∃ t, exec .genDrainOver s = .next t ∧ t.flag .hubGenstat F.hubGenstat_OVER = true ∧ t.gen.told = true ∧ t.draining = true ∧ t.fab = s.fab) ∧
      (¬ late → exec .genDrainOver s = .next s))

/-- SNAPSHOT_COMPLETE without a snapshot, or while its copies are unanswered, changes nothing; a whole one becomes the newest valid slot
with its step, and a failed one sets FAIL and leaves VALID. JOB_REWIND while a job runs or holds, with a local slot that holds a whole
snapshot of the step, leaves the service running with that step next and no posting from it on; otherwise it changes nothing. JOB_REFORM
without a job changes nothing; given to a running service between steps with nothing open it holds with cause 5, or 6 where a member and
its partner are lost. MODE_CHANGE of the mode in force changes no byte; another is refused while a job is resident; an accepted one loses
Yalar-1's DRAM and changes no other byte. HANDOVER moves the core's contexts with tiles left that have no tile in progress, one of them
alone with its used slots stored and EMPTY, and notes those that have one; it counts in HANDCNT at once only where nothing moves, waits or
is noted (log entry 77). HANDOVER_TILE_ASSIGN gives the next waiting context a sibling that can take it, with enough free slots, or
changes nothing. LATENESS_HANDOVER acts, as HANDOVER with reason 2, only for a core late twice of whose cluster eight cores have ended. -/
def Obligations.JobsMoveRewindAndChangeMode : Prop :=
  ∀ (s : State), s.stores = [] →
    (s.plt.snap = none → exec .snapshotComplete s = .next s) ∧
    (∀ q, s.plt.snap = some q →
      (q.failed = none → s.snapPending = true → exec .snapshotComplete s = .next s) ∧
      (q.failed = none → s.snapPending = false → ∃ t, exec .snapshotComplete s = .next t ∧ t.plt.snap = none ∧
        t.flag .hubSnapstat F.hubSnapstat_BUSY = false ∧ t.flag .hubSnapstat F.hubSnapstat_VALID = true ∧
        t.flag .hubSnapstat F.hubSnapstat_SLOT = q.slot ∧ t.fld .hubSnapstat F.hubSnapstat_STEP = q.step.toNat % 2 ^ 32) ∧
      (∀ i, q.failed = some i → ∃ t, exec .snapshotComplete s = .next t ∧ t.plt.snap = none ∧ t.flag .hubSnapstat F.hubSnapstat_FAIL = true ∧
        t.flag .hubSnapstat F.hubSnapstat_VALID = s.flag .hubSnapstat F.hubSnapstat_VALID ∧ ∀ b, t.byte b = s.byte b)) ∧
    (∀ (s0 : BitVec 32) cause, (s.slotOf s0.toNat = none ∨ s.jobRuns = false → exec (.jobRewind s0 cause) s = .next s) ∧
      (∀ b, s.slotOf s0.toNat = some b → s.jobRuns = true → ∃ t, exec (.jobRewind s0 cause) s = .next t ∧ t.svc.next = s0.toNat ∧
        t.svc.active = false ∧ t.fld .hubSvcstat F.hubSvcstat_STATE = 2 ∧ ∀ q ∈ t.svc.posted, q.1 < s0.toNat)) ∧
    (∀ (s0 : BitVec 32) taken lost, (s.jobRuns = false → exec (.jobReform s0 taken lost) s = .next s) ∧
      (s.jobRuns = true → s.fld .hubSvcstat F.hubSvcstat_STATE = 2 → s.svc.active = false → s.openOps = [] → s.plt.colls = [] →
        ∃ t, exec (.jobReform s0 taken lost) s = .next t ∧ t.fld .hubSvcstat F.hubSvcstat_STATE = 3 ∧
          t.fld .hubSvcstat F.hubSvcstat_CAUSE = if lost.isSome then 6 else 5)) ∧
    (∀ (p : Priv) (tandem : Bool), p ≠ .job →
      (s.tandem = tandem → ∃ t, exec (.modeChange p tandem) s = .next t ∧ t.tandem = tandem ∧ ∀ b, t.byte b = s.byte b) ∧
      (s.tandem ≠ tandem →
        (s.resident = true → ∃ t, exec (.modeChange p tandem) s = .next t ∧ t.flag .hubModstat F.hubModstat_REJ = true ∧ t.tandem = s.tandem ∧
          ∀ b, t.byte b = s.byte b) ∧
        (s.resident = false → tandem = false ∨ (s.dieUsable 1 = true ∧ s.dramSize 0 ≤ s.dramSize 1) →
          ∃ t, exec (.modeChange p tandem) s = .next t ∧ t.tandem = tandem ∧
            (∀ b, 2 ^ 40 ≤ b → b < 2 ^ 41 → t.byte b = Config.lostByte s.free b) ∧ ∀ b, b < 2 ^ 40 ∨ 2 ^ 41 ≤ b → t.byte b = s.byte b))) ∧
    (∀ t, exec (.modeChange .job t) s = .next s) ∧
    (∀ (c : Fin 256) (r : Fin 3),
      let l := (ctxsOf c).filter fun x => !s.isMoved x && decide (s.ctxState x = 1 ∨ s.ctxState x = 2 ∨ s.ctxState x = 3)
      let now := l.filter fun x => (s.ctx x).run.isNone
      let late := l.filter fun x => (s.ctx x).run.isSome
      let stored (x : CtxId) := (s.usedSlots x).map fun i => (i, s.slot x.core i, s.reg (.coreAtstat x.core i))
      let waits := (s.moved.any fun m => m.x.core == c && m.dest.isNone) = true ∨ s.core.handAsked.has c = true
      ∃ t, exec (.handover c r) s = .next t ∧ t.moved.map Moved.x = s.moved.map Moved.x ++ now ∧
        (∀ m ∈ t.moved, m ∈ s.moved ∨ (m.x ∈ now ∧ m.dest = none ∧ m.reason = r.val ∧ m.at_ = s.time)) ∧
        (∀ x, now = [x] → t.moved = s.moved ++ [{ x := x, dest := none, stored := stored x, reason := r.val, at_ := s.time }] ∧
          ∀ i ∈ s.usedSlots x, t.slotEmpty x.core i = true) ∧
        (∀ x ∈ now, s.ctxState x = 1 → t.ctxState x = 5) ∧ (∀ x ∈ late, t.ctxState x = s.ctxState x) ∧
        (late ≠ [] → t.core.handAsked.get c 0 = r.val ∧ t.core.handAsked.has c = true) ∧
        (t.fld (.cluHandcnt (clusterOf c)) F.cluHandcnt_COUNT = if l = [] ∧ ¬ waits
          then min (s.fld (.cluHandcnt (clusterOf c)) F.cluHandcnt_COUNT + 1) (2 ^ F.cluHandcnt_COUNT.2 - 1)
          else s.fld (.cluHandcnt (clusterOf c)) F.cluHandcnt_COUNT) ∧
        (∀ x, t.sreg x = s.sreg x) ∧ ∀ b, t.byte b = s.byte b) ∧
    (∀ nth, ((s.moved.filter fun m => m.dest.isNone)[nth]? = none → exec (.handoverTileAssign nth) s = .next s) ∧
      ∀ m, (s.moved.filter fun m => m.dest.isNone)[nth]? = some m →
        (s.siblingFor m = none → exec (.handoverTileAssign nth) s = .next s) ∧
        (∀ y, s.siblingFor m = some y → s.canTake y.core = true ∧ y.core ≠ m.x.core ∧ m.stored.length ≤ (s.freeSlots y).length ∧
          ∃ t, exec (.handoverTileAssign nth) s = .next t ∧
            t.moved = s.moved.map fun q => if q.x = m.x then { q with dest := some y } else q)) ∧
    (∀ c : Fin 256,
      let late := s.svc.late2.contains c = true ∧ 8 ≤ ((List.finRange 16).filter fun j =>
        s.flag (.coreCstat (coreOf (clusterOf c) j)) F.coreCstat_USABLE &&
          (ctxsOf (coreOf (clusterOf c) j)).all fun x => s.ctxState x == 0 || s.ctxState x == 4).length
      (¬ late → exec (.latenessHandover c) s = .next s) ∧
      (late → (∃ t, exec (.latenessHandover c) s = .next t ∧ exec (.handover c 2) s = .next t ∧
        ∀ x, x.core = c → s.ctxState x = 1 → s.isMoved x = false → (s.ctx x).run = none → t.isMoved x = true ∧ t.ctxState x = 5)))

/-- SPOT_CHECK_RUN removes the check and counts it, and a mismatch too. SELF_TEST_START by a cause that ends no step, of a good unit
without a test and not fenced, starts one in state 1, counted. SELF_TEST_WITHDRAWN moves an idle suspect in state 1 on to state 2; a clean
pass in states 2, 3 or 6 moves on by one and a failed one fences the unit with verdict 3; a clean LEARNED_REPLAY_COMPLETE in state 4 goes
on to the vote where a capture exists, and in state 7, where no command waits for the core's contexts, ends the in-field test with its
time noted. VOTE_COMPLETE with three equal results that agree with the suspect's own, where no command waits, ends the test and fences
nothing; it acts only in state 5. SELF_TEST_LATE and IN_FIELD_TEST_OVERDUE report once when late; IN_FIELD_TEST_DUE starts a test of a
usable core whose contexts have no tile in progress, of a running cluster, when due. Without a test or out of these states nothing
changes. -/
def Obligations.SuspectsAreTestedAndFenced : Prop :=
  ∀ (s : State), s.stores = [] →
    (∀ nth d, (s.int.spots[nth]? = none → exec (.spotCheckRun nth d) s = .next s) ∧
      ∀ q, s.int.spots[nth]? = some q → ∃ t, exec (.spotCheckRun nth d) s = .next t ∧ q ∉ t.int.spots ∧
        t.fld .intSpotcnt F.intSpotcnt_CHECKED = min (s.fld .intSpotcnt F.intSpotcnt_CHECKED + 1) (2 ^ F.intSpotcnt_CHECKED.2 - 1) ∧
        t.fld .intSpotcnt F.intSpotcnt_MIS = (if d then min (s.fld .intSpotcnt F.intSpotcnt_MIS + 1) (2 ^ F.intSpotcnt_MIS.2 - 1)
          else s.fld .intSpotcnt F.intSpotcnt_MIS) ∧ ∀ b, t.byte b = s.byte b) ∧
    (∀ (u : Word) (cause : Fin 8) cap, endsStep cause.val = false →
      ((s.testOf u).isSome = true ∨ unitOk u = false → exec (.selfTestStart u cause cap) s = .next s) ∧
      (s.testOf u = none → unitOk u = true → s.isFenced u = false → ∃ t, exec (.selfTestStart u cause cap) s = .next t ∧
        t.testOf u = some { unit := u.toNat, state := 1, cause := cause.val, cap := cap.map BitVec.toNat, since := s.time, late := false } ∧
        t.fld .intStcnt F.intStcnt_TESTS = min (s.fld .intStcnt F.intStcnt_TESTS + 1) (2 ^ F.intStcnt_TESTS.2 - 1))) ∧
    (∀ (u : Word), s.testOf u = none → exec (.selfTestWithdrawn u) s = .next s ∧ exec (.selfTestLate u) s = .next s ∧
      ∀ sa sb ab orig res, exec (.voteComplete u sa sb ab orig res) s = .next s) ∧
    (∀ (u : Word) c, s.testFor u = none → exec (.selfTestPassComplete u c) s = .next s ∧ exec (.learnedReplayComplete u c) s = .next s) ∧
    (∀ (u : Word) (q : SelfTest), s.testOf u = some q →
      (q.state = 1 → s.suspectIdle u = true → ∃ t, exec (.selfTestWithdrawn u) s = .next t ∧ t.testOf u = some { q with state := 2 } ∧
        t.core = s.core ∧ ∀ b, t.byte b = s.byte b) ∧
      (q.state = 2 ∨ q.state = 3 ∨ q.state = 6 →
        (∃ t, exec (.selfTestPassComplete u true) s = .next t ∧ t.testOf u = some { q with state := q.state + 1 } ∧ t.core = s.core) ∧
        exec (.selfTestPassComplete u false) s = .next (s.settle (s.testFence q u 3))) ∧
      (q.state = 1 ∨ q.state = 4 ∨ q.state = 5 ∨ q.state = 7 → ∀ c, exec (.selfTestPassComplete u c) s = .next s) ∧
      (q.state = 4 → q.cap.isSome = true → ∃ t, exec (.learnedReplayComplete u true) s = .next t ∧ t.testOf u = some { q with state := 5 }) ∧
      (q.state = 7 → ∀ c, unitCore u = some c → (∀ x : CtxId, x.core = c → (s.ctx x).owed = 0) → ∃ t, exec (.learnedReplayComplete u true) s = .next t ∧ t.testOf u = none ∧
        t.int.lastTest.get c 0 = s.time) ∧
      (q.state = 1 ∨ q.state = 2 ∨ q.state = 3 ∨ q.state = 5 ∨ q.state = 6 → ∀ c, exec (.learnedReplayComplete u c) s = .next s) ∧
      (q.state ≠ 5 → ∀ sa sb ab orig res, exec (.voteComplete u sa sb ab orig res) s = .next s) ∧
      (q.state = 5 → ∀ c res, unitCore u = some c → (∀ x : CtxId, x.core = c → (s.ctx x).owed = 0) → ∃ t, exec (.voteComplete u true true true false res) s = .next t ∧ t.testOf u = none ∧
        t.int.fenced = s.int.fenced) ∧
      (q.late = true ∨ 6 ≤ q.state ∨ s.time ≤ q.since + 5000000 → exec (.selfTestLate u) s = .next s) ∧
      (q.late = false → q.state < 6 → q.since + 5000000 < s.time → ∃ t, exec (.selfTestLate u) s = .next t ∧ t.testOf u = some { q with late := true })) ∧
    (∀ c : Fin 256,
      let k := clusterOf c
      (s.ifDue c 1 = false ∨ s.clusterInTest k = true ∨ s.flag (.coreCstat c) F.coreCstat_USABLE = false → exec (.inFieldTestDue c) s = .next s) ∧
      (s.ifDue c 1 = true → s.clusterInTest k = false → s.flag (.coreCstat c) F.coreCstat_USABLE = true → s.pstate k = 0 →
        ((ctxsOf c).any fun x => (s.ctx x).run.isSome) = false → ∃ t, exec (.inFieldTestDue c) s = .next t ∧
          t.testOf (unitId 5 c.val 0) = some { unit := (unitId 5 c.val 0).toNat, state := 6, cause := 7, cap := none, since := s.time, late := false }) ∧
      (s.ifDue c 2 = false ∨ s.int.inField.contains c = true → exec (.inFieldTestOverdue c) s = .next s) ∧
      (s.ifDue c 2 = true → s.int.inField.contains c = false → s.events.length < 4096 → ∃ t d, exec (.inFieldTestOverdue c) s = .next t ∧
        t.int.inField.contains c = true ∧ t.events = s.events ++ [{ cls := 4, code := 0x8031, die := dieOf c, data := d }]))

/-- Without service, writes to a window change nothing. A write to a busy window is dropped and flagged; otherwise the bytes stand in the
window. A whole commit word with a wrong SEQ, COUNT 0, a reserved bit or a window not enabled is refused with no round; a good one appends
a round of COUNT entries, sets ACCSEQ and BUSY. When no entry may start, or the next has another opcode, an entry command changes nothing.
A malformed entry ends with status 1, which sets ERR; REGW and CTXCMD in a job's window end with 2. NOP ends with 0. REGW off a multiple
of 8 ends with 1, beyond the window with 3, else writes the register. CTXCMD with reserved bits ends with 1, else commands the context.
CLADD of no cleat ends with 3, of a far one from a job's window with 2, else delivers with the live generation's tag. A copy ends with 1
for its length, 2 for a job's range outside its ring, 3 for its target and 8 without bus mastering, else runs (a COPYOUT from another
module is not stated); a COPYIN asks the host for its bytes. COPY_COMPLETE of a copy with nothing unanswered ends it with 4 for a host
error, and a COPYIN to this module that the die bridge, Tandem and errors do not touch stores the host's bytes and ends with 0. INPUT
without a plan or early ends with 6, else posts. ROUND_COMPLETE of a round whose entries have all ended shows DONESEQ and frees the
window. No entry but those that act on registers, contexts, cleats or memory changes core, collectives or a byte. -/
def Obligations.IssueEntriesRun : Prop :=
  ∀ (s : State) (w : Fin 256), s.stores = [] →
    let b := s.setFld (.pciIwstat w) F.pciIwstat_BUSY 0
    let quiet (t : State) : Prop := t.core = s.core ∧ t.plt = s.plt ∧ ∀ a, t.byte a = s.byte a
    let at_ (q : Round) (i phase status : Nat) (t : State) : Prop := ∃ r rest e, (t.window w).rounds = r :: rest ∧ r.serial = q.serial ∧
      r.seq = q.seq ∧ r.entries[i]? = some e ∧ e.phase = phase ∧ e.status = status
    let ended (q : Round) (i n : Nat) (t : State) : Prop := at_ q i 2 n t ∧ (n ≠ 0 → t.flag (.pciIwstat w) F.pciIwstat_ERR = true)
    let refused (t : State) : Prop := (t.window w).rounds = (s.window w).rounds ∧ t.flag (.pciIwstat w) F.pciIwstat_REFUSED = true ∧ quiet t
    (s.hostServes = false → ∀ off data v, exec (.issueWindowWrite w off data) s = .next s ∧ exec (.issueCommit w v) s = .next s) ∧
    (s.hostServes = true → s.flag (.pciIwstat w) F.pciIwstat_BUSY = true → ∀ off data v,
      (∃ t, exec (.issueWindowWrite w off data) s = .next t ∧ t.window w = s.window w ∧ t.flag (.pciIwstat w) F.pciIwstat_DROP = true ∧ quiet t) ∧
      ∃ t, exec (.issueCommit w v) s = .next t ∧ t.window w = s.window w ∧ t.flag (.pciIwstat w) F.pciIwstat_DROP = true ∧ quiet t) ∧
    (s.hostServes = true → s.flag (.pciIwstat w) F.pciIwstat_BUSY = false →
      (∀ (off : BitVec 12) (data : List Byte), off.toNat + data.length ≤ 0xFF8 → (s.window w).written ≠ 0xFF →
        ∃ t, exec (.issueWindowWrite w off data) s = .next t ∧ (t.window w).rounds = (s.window w).rounds ∧
          (∀ j (h : j < data.length), (t.window w).cells.get (off.toNat + j) 0 = data[j]) ∧ quiet t) ∧
      (∀ v : Word,
        let seq := getBits v (0, 16)
        let n := getBits v (16, 7)
        let okSeq : Prop := seq = (s.fld (.pciIwstat w) F.pciIwstat_ACCSEQ + 1) % 65536
        let en := s.flag (.pciIwcfg w) F.pciIwcfg_EN
        (¬ okSeq ∨ n = 0 ∨ getBits v (23, 41) ≠ 0 ∨ en = false → ∃ t, exec (.issueCommit w v) s = .next t ∧ refused t) ∧
        (okSeq → n ≠ 0 → getBits v (23, 41) = 0 → en = true →
          ∃ t q, exec (.issueCommit w v) s = .next t ∧ (t.window w).rounds.length = (s.window w).rounds.length + 1 ∧
            (t.window w).rounds.getLast? = some q ∧ q.seq = seq ∧ q.entries.length = n ∧ q.serial = s.host.nextRound ∧
            t.fld (.pciIwstat w) F.pciIwstat_ACCSEQ = seq ∧ t.flag (.pciIwstat w) F.pciIwstat_BUSY = true ∧ quiet t))) ∧
    (s.nextEntry w = none → exec (.entryNop w) s = .next s ∧ exec (.regw w) s = .next s ∧ exec (.ctxcmd w) s = .next s ∧
      exec (.cladd w) s = .next s ∧ exec (.copyin w) s = .next s ∧ exec (.copyout w) s = .next s ∧ exec (.input w) s = .next s) ∧
    (∀ q i e, s.nextEntry w = some (q, i, e) →
      (e.opc ≠ 1 → exec (.entryNop w) s = .next s) ∧ (e.opc ≠ 2 → exec (.copyin w) s = .next s) ∧ (e.opc ≠ 3 → exec (.copyout w) s = .next s) ∧
      (e.opc ≠ 4 → exec (.regw w) s = .next s) ∧ (e.opc ≠ 5 → exec (.cladd w) s = .next s) ∧ (e.opc ≠ 6 → exec (.ctxcmd w) s = .next s) ∧
      (e.opc ≠ 0x16 → exec (.input w) s = .next s) ∧
      (e.formed = false →
        (e.opc = 1 → ∃ t, exec (.entryNop w) s = .next t ∧ ended q i 1 t ∧ quiet t) ∧
        (e.opc = 2 → ∃ t, exec (.copyin w) s = .next t ∧ ended q i 1 t ∧ quiet t) ∧
        (e.opc = 3 → ∃ t, exec (.copyout w) s = .next t ∧ ended q i 1 t ∧ quiet t) ∧
        (e.opc = 4 → ∃ t, exec (.regw w) s = .next t ∧ ended q i 1 t ∧ quiet t) ∧
        (e.opc = 5 → ∃ t, exec (.cladd w) s = .next t ∧ ended q i 1 t ∧ quiet t) ∧
        (e.opc = 6 → ∃ t, exec (.ctxcmd w) s = .next t ∧ ended q i 1 t ∧ quiet t) ∧
        (e.opc = 0x16 → ∃ t, exec (.input w) s = .next t ∧ ended q i 1 t ∧ quiet t)) ∧
      (e.formed = true →
        (e.opc = 1 → ∃ t, exec (.entryNop w) s = .next t ∧ ended q i 0 t ∧ quiet t) ∧
        (q.priv = .job →
          (e.opc = 4 → ∃ t, exec (.regw w) s = .next t ∧ ended q i 2 t ∧ quiet t) ∧
          (e.opc = 6 → ∃ t, exec (.ctxcmd w) s = .next t ∧ ended q i 2 t ∧ quiet t)) ∧
        (q.priv ≠ .job → e.opc = 4 →
          (e.w1.toNat % 8 ≠ 0 → ∃ t, exec (.regw w) s = .next t ∧ ended q i 1 t ∧ quiet t) ∧
          (e.w1.toNat % 8 = 0 → 2 ^ 30 ≤ e.w1.toNat → ∃ t, exec (.regw w) s = .next t ∧ ended q i 3 t ∧ quiet t) ∧
          (e.w1.toNat % 8 = 0 → e.w1.toNat < 2 ^ 30 →
            exec (.regw w) s = .next (s.settle (((b.ctlWrite .driver e.w1.toNat .w8 e.w2).endEntry w q i 0).weed w)))) ∧
        (q.priv ≠ .job → e.opc = 6 →
          (getBits e.w1 (13, 51) ≠ 0 → ∃ t, exec (.ctxcmd w) s = .next t ∧ ended q i 1 t ∧ quiet t) ∧
          (getBits e.w1 (13, 51) = 0 → exec (.ctxcmd w) s = .next (s.settle (((b.command
            ⟨Fin.ofNat _ (getBits e.w1 (0, 8)), Fin.ofNat _ (getBits e.w1 (8, 2))⟩ (getBits e.w1 (10, 3))).endEntry w q i 0).weed w)))) ∧
        (e.opc = 5 →
          (b.target e.w1 = none ∨ (cleatAt (lowAddr e.w1)).isNone = true → ∃ t, exec (.cladd w) s = .next t ∧ ended q i 3 t ∧ quiet t) ∧
          (∀ g, b.target e.w1 = some g → (cleatAt (lowAddr e.w1)).isNone = false →
            let far : Prop := ∀ a, b.homeTarget g ≠ .here a
            (far → q.priv = .job → ∃ t, exec (.cladd w) s = .next t ∧ ended q i 2 t ∧ quiet t) ∧
            (¬ (far ∧ q.priv = .job) →
              exec (.cladd w) s = .next (s.settle (((b.deliver b.gtag e.w1 e.w2).endEntry w q i 0).weed w))))) ∧
        (let n := getBits e.w3 (0, 32)
         let apart : Prop := q.priv = .job ∧ (e.w2.toNat / 2 ^ 48 ≠ 0 ∨ b.inRing e.w2.toNat n = false)
         let sized : Prop := n ≠ 0 ∧ getBits e.w3 (32, 32) = 0
         (e.opc = 2 →
          (¬ sized → ∃ t, exec (.copyin w) s = .next t ∧ ended q i 1 t ∧ quiet t) ∧
          (sized → apart → ∃ t, exec (.copyin w) s = .next t ∧ ended q i 2 t ∧ quiet t) ∧
          (sized → ¬ apart → b.copyTarget e.w2 n = none → ∃ t, exec (.copyin w) s = .next t ∧ ended q i 3 t ∧ quiet t) ∧
          (sized → ¬ apart → b.copyTarget e.w2 n ≠ none → s.canMaster = false → ∃ t, exec (.copyin w) s = .next t ∧ ended q i 8 t ∧ quiet t) ∧
          (sized → ¬ apart → b.copyTarget e.w2 n ≠ none → s.canMaster = true → ∃ t more, exec (.copyin w) s = .next t ∧
            at_ q i 1 e.status t ∧ t.out = s.out ++ .hostRead w.val i e.w1.toNat n :: more ∧ quiet t)) ∧
         (e.opc = 3 →
          (¬ sized → ∃ t, exec (.copyout w) s = .next t ∧ ended q i 1 t ∧ quiet t) ∧
          (sized → apart → ∃ t, exec (.copyout w) s = .next t ∧ ended q i 2 t ∧ quiet t) ∧
          (sized → ¬ apart → b.copyTarget e.w2 n = none → ∃ t, exec (.copyout w) s = .next t ∧ ended q i 3 t ∧ quiet t) ∧
          (sized → ¬ apart → b.copyTarget e.w2 n ≠ none → s.canMaster = false → ∃ t, exec (.copyout w) s = .next t ∧ ended q i 8 t ∧ quiet t) ∧
          (∀ a, sized → ¬ apart → b.copyTarget e.w2 n = some (none, a) → s.canMaster = true →
            ∃ t, exec (.copyout w) s = .next t ∧ at_ q i 1 e.status t ∧ quiet t))) ∧
        (e.opc = 0x16 →
          let t0 := getBits e.w1 (0, 32)
          let k := getBits e.w1 (32, 32)
          (s.svc.plan = none → ∃ t, exec (.input w) s = .next t ∧ ended q i 6 t ∧ quiet t) ∧
          (∀ p, s.svc.plan = some p →
            let n := t0 * p.inper + k
            let early : Prop := p.inslots ≤ n ∧ p.first ≤ (n - p.inslots) / p.inper ∧ b.stepDone ((n - p.inslots) / p.inper) = false
            (p.inper ≤ k ∨ early → ∃ t, exec (.input w) s = .next t ∧ ended q i 6 t ∧ quiet t ∧ t.svc.posted = s.svc.posted) ∧
            (k < p.inper → ¬ early → ∃ t, exec (.input w) s = .next t ∧ ended q i 0 t ∧ quiet t ∧
              ∀ x, x ∈ t.svc.posted ↔ x = (t0, k) ∨ x ∈ s.svc.posted))))) ∧
    ((s.window w).rounds = [] → exec (.roundComplete w) s = .next s ∧ ∀ nth h data, exec (.copyComplete w nth h data) s = .next s) ∧
    (∀ q rest, (s.window w).rounds = q :: rest →
      ((q.entries.any fun e => e.phase != 2) = true → exec (.roundComplete w) s = .next s) ∧
      ((q.entries.all fun e => e.phase == 2) = true → q.seq < 65536 → ∃ t, exec (.roundComplete w) s = .next t ∧
        (t.window w).rounds.map Round.seq = rest.map Round.seq ∧ t.fld (.pciIwstat w) F.pciIwstat_DONESEQ = q.seq ∧
        t.flag (.pciIwstat w) F.pciIwstat_BUSY = false ∧ quiet t) ∧
      (∀ nth h data, q.entries[nth]? = none → exec (.copyComplete w nth h data) s = .next s) ∧
      (∀ nth (h : BitVec 8) data e, q.entries[nth]? = some e →
        (e.phase ≠ 1 ∨ s.copyPending w q.serial nth = true → exec (.copyComplete w nth h data) s = .next s) ∧
        (e.phase = 1 → s.copyPending w q.serial nth = false →
          (h ≠ 0 → ∃ t, exec (.copyComplete w nth h data) s = .next t ∧ at_ q nth 2 4 t ∧ quiet t) ∧
          (∀ a, h = 0 → e.status = 0 → e.opc = 2 → s.copyTarget e.w2 data.length = some (none, a) → data.length = getBits e.w3 (0, 32) →
            s.flawed a data.length = [] → s.tandem = false → s.hostCut a = false → ∃ t, exec (.copyComplete w nth h data) s = .next t ∧ at_ q nth 2 0 t ∧
              (∀ j (hj : j < data.length), t.byte (a + j) = data[j]) ∧ ∀ x, ¬ s.touches a data.length x → t.byte x = s.byte x))))

/-- A command entry of the step service whose turn has not come changes nothing; a malformed one ends with status 1, one in a job's window
with 2, one in a state that does not accept it with 6, the service unchanged. PLAN of an unaligned address ends with 1, outside DRAM with
3; a plan that does not read ends with 6 and its PLANERR, one that cannot be applied with 6; one that applies leaves LOADED at FIRST.
START runs from FIRST, or ends with 6 without a plan. HOLD with NOW 0 stops after the running step, or at once between steps; with NOW 1
it ends the step and holds. RESUME runs on, after an ended step with the contexts reloaded. REWIND without a local snapshot of the step
ends with 6, else rewinds, after a hold with cause 5 as a re-forming. END leaves IDLE without a plan. STEP_START does nothing until ready;
then the boundary work is done, unequal Tandem digests hold with cause 4, waiting changes of FSCTL stage a generation or wait for
draining, and else the next step begins with its number in STEP. STEP_END finishes and counts a step whose contexts are all idle and whose
snapshot is done, changes nothing while one runs and none has halted, and holds with a lone context halted by a fault. INPUT_LATE reports
once. -/
def Obligations.StepServiceRuns : Prop :=
  ∀ (s : State), s.stores = [] →
    (∀ (w : Fin 256) (newest : BitVec 32),
      let b := s.setFld (.pciIwstat w) F.pciIwstat_BUSY 0
      let quiet (t : State) : Prop := t.core = s.core ∧ t.plt = s.plt ∧ ∀ a, t.byte a = s.byte a
      let sits (t : State) : Prop := t.svcState = s.svcState ∧ t.svc.plan = s.svc.plan ∧ t.svc.next = s.svc.next ∧ quiet t
      let ended (q : Round) (i n : Nat) (t : State) : Prop := ∃ r rest e, (t.window w).rounds = r :: rest ∧ r.serial = q.serial ∧
        r.entries[i]? = some e ∧ e.phase = 2 ∧ e.status = n
      (∀ c ∈ [(Instr.plan w, 0x10, [0]), (Instr.entryStart w, 0x11, [1]), (Instr.entryHold w, 0x12, [2]), (Instr.entryResume w, 0x13, [3]),
          (Instr.entryRewind w newest, 0x14, [3]), (Instr.entryEnd w, 0x15, [1, 2, 3])],
        ((∀ q i e, s.nextEntry w = some (q, i, e) → e.opc ≠ c.2.1) → exec c.1 s = .next s) ∧
        (∀ q i e, s.nextEntry w = some (q, i, e) → e.opc = c.2.1 →
          (e.formed = false → ∃ t, exec c.1 s = .next t ∧ ended q i 1 t ∧ sits t) ∧
          (e.formed = true → q.priv = .job → ∃ t, exec c.1 s = .next t ∧ ended q i 2 t ∧ sits t) ∧
          (e.formed = true → q.priv ≠ .job → s.svcState ∉ c.2.2 → ∃ t, exec c.1 s = .next t ∧ ended q i 6 t ∧ sits t))) ∧
      (∀ q i e, s.nextEntry w = some (q, i, e) → e.formed = true → q.priv ≠ .job →
        (e.opc = 0x10 → s.svcState = 0 →
          let a := e.w1.toNat
          (a % 64 ≠ 0 → ∃ t, exec (.plan w) s = .next t ∧ ended q i 1 t ∧ sits t) ∧
          (a % 64 = 0 → b.inDram a 256 = false → ∃ t, exec (.plan w) s = .next t ∧ ended q i 3 t ∧ sits t) ∧
          (a % 64 = 0 → b.inDram a 256 = true →
            (∀ u n, b.readPlan a = (u, .error n) → n < 256 →
              ∃ t, exec (.plan w) s = .next t ∧ t = s.settle (((u.planFail n [] []).endEntry w q i 6).weed w) ∧
                t.fld .hubSvcstat F.hubSvcstat_PLANERR = n) ∧
            (∀ u p v, b.readPlan a = (u, .ok p) → u.planApply p = (v, true) →
              ∃ t, exec (.plan w) s = .next t ∧ t = s.settle ((v.endEntry w q i 0).weed w) ∧ t.svcState = 1 ∧ t.svc.plan = some p ∧
                t.svc.next = p.first ∧ t.fld .hubSvcstat F.hubSvcstat_PLANERR = 0 ∧ t.fld .hubSvcstat F.hubSvcstat_CAUSE = 0) ∧
            (∀ u p v, b.readPlan a = (u, .ok p) → u.planApply p = (v, false) →
              exec (.plan w) s = .next (s.settle ((v.endEntry w q i 6).weed w))))) ∧
        (e.opc = 0x11 → s.svcState = 1 →
          (s.svc.plan = none → ∃ t, exec (.entryStart w) s = .next t ∧ ended q i 6 t ∧ sits t) ∧
          (∀ p, s.svc.plan = some p → ∃ t, exec (.entryStart w) s = .next t ∧ ended q i 0 t ∧ t.svcState = 2 ∧ t.svc.plan = some p ∧
            t.svc.next = p.first ∧ t.svc.active = false ∧ t.svc.stop = none ∧ ∀ x, t.byte x = s.byte x)) ∧
        (e.opc = 0x12 → s.svcState = 2 →
          (getBits e.w0 (32, 1) = 0 → s.svc.active = true → ∃ t, exec (.entryHold w) s = .next t ∧ ended q i 0 t ∧ sits t ∧
            t.svc.stop = some (s.svcStep, 1)) ∧
          (getBits e.w0 (32, 1) = 0 → s.svc.active = false → ∃ t, exec (.entryHold w) s = .next t ∧ ended q i 0 t ∧ quiet t ∧
            t.svcState = 3 ∧ t.fld .hubSvcstat F.hubSvcstat_CAUSE = 1 ∧ t.svc.next = s.svc.next) ∧
          (getBits e.w0 (32, 1) = 1 →
            exec (.entryHold w) s = .next (s.settle (((((b.endStep 1 1).svcHold 1)).endEntry w q i 0).weed w)))) ∧
        (e.opc = 0x13 → s.svcState = 3 →
          (s.svc.abandoned = false → ∃ t, exec (.entryResume w) s = .next t ∧ ended q i 0 t ∧ quiet t ∧ t.svcState = 2 ∧ t.svc.stop = none ∧
            t.svc.next = s.svc.next ∧ t.svc.plan = s.svc.plan) ∧
          (s.svc.abandoned = true →
            let r := b.reloadPlan.clearStep
            exec (.entryResume w) s = .next (s.settle (((({ r with svc := { r.svc with cnt := StepCnt.zero } } : State).svcRun).endEntry w q i 0).weed w)))) ∧
        (e.opc = 0x14 → s.svcState = 3 →
          let n := getBits e.w1 (0, 32)
          let step := if n = 2 ^ 32 - 1 then newest.toNat else n
          (s.slotOf step = none → ∃ t, exec (.entryRewind w newest) s = .next t ∧ ended q i 6 t ∧ sits t) ∧
          (∀ k, s.slotOf step = some k →
            (s.fld .hubSvcstat F.hubSvcstat_CAUSE ≠ 5 →
              exec (.entryRewind w newest) s = .next (s.settle (((b.rewind step 1 k).showNextIn.endEntry w q i 0).weed w))) ∧
            (s.fld .hubSvcstat F.hubSvcstat_CAUSE = 5 →
              exec (.entryRewind w newest) s = .next (s.settle (((b.reform step s.svc.taken k).showNextIn.endEntry w q i 0).weed w))))) ∧
        (e.opc = 0x15 → s.svcState ≠ 0 →
          (s.svc.plan = none → ∃ t, exec (.entryEnd w) s = .next t ∧ ended q i 6 t ∧ sits t) ∧
          (s.svc.plan ≠ none → ∃ t, exec (.entryEnd w) s = .next t ∧ t.svcState = 0 ∧ t.svc.plan = none ∧ t.svc.active = false ∧
            t.svc.posted = [])))) ∧
    (s.svc.plan = none → exec .inputLate s = .next s ∧ exec .stepEnd s = .next s ∧ ∀ o m d, exec (.stepStart o m d) s = .next s) ∧
    (∀ p, s.svc.plan = some p →
      let idle : Prop := s.svcState = 2 ∧ s.svc.active = false ∧ s.svc.late = false ∧ s.inputsReady p = false ∧ p.inwait ≤ s.usSince s.svc.ended
      (¬ idle → exec .inputLate s = .next s) ∧
      (idle → ∃ t, exec .inputLate s = .next t ∧ t.svc.late = true ∧ t.svc.next = s.svc.next ∧ t.core = s.core ∧ ∀ a, t.byte a = s.byte a) ∧
      (∀ o m d, s.stepReady p = false → exec (.stepStart o m d) s = .next s) ∧
      (∀ o m d, s.stepReady p = true →
        let h := if s.svc.ran then s.boundaryWork p o m d else s
        let g : State := if h.svc.passed then h else { h.boundaryGen with svc := { h.boundaryGen.svc with passed := true } }
        let held : Prop := s.svc.ran = true ∧ h.tandem = true ∧ h.reg .intTddig0 ≠ h.reg .intTddig1
        let wants : Prop := (g.svc.due ≠ [] ∨ g.svc.undo ≠ []) ∧ g.flag .hubGenstat F.hubGenstat_PEND = false
        (held → exec (.stepStart o m d) s = .next (s.settle (h.svcHold 4))) ∧
        (¬ held → wants → g.draining = true → exec (.stepStart o m d) s = .next (s.settle g)) ∧
        (¬ held → wants → g.draining = false →
          exec (.stepStart o m d) s = .next (s.settle ((g.stageAdjust (g.svc.next + 1)).stepBegin p))) ∧
        (¬ held → ¬ wants → ∃ t, exec (.stepStart o m d) s = .next t ∧ t = s.settle (g.stepBegin p) ∧ t.svc.active = true ∧
          t.svc.next = g.svc.next + 1 ∧ t.fld .hubSvcstat F.hubSvcstat_STEP = g.svc.next % 2 ^ 32)) ∧
      (s.svc.active = false ∨ s.svcState < 2 → exec .stepEnd s = .next s) ∧
      (s.svc.active = true → s.svcState = 2 ∨ s.svcState = 3 →
        ((∀ c ∈ p.ctxs, s.ctxState c.x = 0) → s.plt.snap = none → ∃ t, exec .stepEnd s = .next t ∧ t = s.settle (s.stepFinish p) ∧
          t.svc.active = false ∧ t.svc.plan = some p ∧
          t.fld .hubSvccnt F.hubSvccnt_STEPS = min (s.fld .hubSvccnt F.hubSvccnt_STEPS + 1) (2 ^ F.hubSvccnt_STEPS.2 - 1)) ∧
        ((∀ c ∈ p.ctxs, s.ctxState c.x ≠ 4) → (∃ c ∈ p.ctxs, s.ctxState c.x ≠ 0) ∨ s.plt.snap ≠ none → exec .stepEnd s = .next s) ∧
        (∀ c, p.ctxs = [c] → s.ctxState c.x = 4 → (s.ctx c.x).why = 1 → ∃ t, exec .stepEnd s = .next t ∧ t.svcState = 3 ∧
          t.svc.active = true ∧ t.core = s.core ∧ ∀ a, t.byte a = s.byte a)))

/-- While the endpoint does not serve, BAR accesses change nothing; nor does one into Yalar-1 while the die bridge is stopped (log entry
35). A BAR0 access of an issue window reads or writes it; one of 4 or 8 aligned bytes reads or writes the control window at privilege 1;
behind a closed aperture reads give 0 and writes do nothing; another shape is a Completer Abort. A BAR2 access of module memory, where no
word has errors and outside Tandem mode, moves its bytes, and is a Completer Abort outside it, at the control window or in recovery.
Training shows speed and width. A hot reset or function level reset takes the link down, forgets the windows, keeps the plan and changes
no core and no memory; D3hot is entered, here with no copy in flight, and left. Without power, firmware or dynamic address the side-band
is silent; in recovery its commands but image pieces are refused. ENTDAA answers the provisioned ID once; register reads and writes,
status and Odometer reads, image commands and well-formed MCTP control commands (the forms are log entry 52's) are answered, others as
unsupported. SPDM requests get no response in recovery, else their responses (free bytes: log entry 53); of GET_MEASUREMENTS its refusals
and its unsigned single blocks are stated. -/
def Obligations.EndpointAndSideBandAnswer : Prop :=
  ∀ (s : State), s.stores = [] →
    let quiet (t : State) : Prop := t.core = s.core ∧ t.plt = s.plt ∧ ∀ a, t.byte a = s.byte a
    let said (o : Out) : Host.Outcome State Fault Refusal := .next { s with out := s.out ++ [o] }
    let caught (t : State) : Prop := t.fld .pciErr F.pciErr_CA = min (s.fld .pciErr F.pciErr_CA + 1) (2 ^ F.pciErr_CA.2 - 1) ∧ quiet t
    (∀ off len wr data, s.hostServes = false → exec (.bar0Access off len wr data) s = .next s) ∧
    (∀ off len wr data, s.hostServes = false → exec (.bar2Access off len wr data) s = .next s) ∧
    (s.hostServes = true →
      (∀ (off : BitVec 26) len data w o, s.bar0Place off.toNat = .window w o →
        exec (.bar0Access off len true data) s = .next (s.settle (s.windowWrite w o data)) ∧
        exec (.bar0Access off len false data) s =
          said (.data ((List.range len).map fun i => if o + i < 0x1000 then (s.window w).cells.get (o + i) 0 else 0))) ∧
      (∀ (off : BitVec 26) n data, data.length = n → (∀ w o, s.bar0Place off.toNat ≠ .window w o) →
        (ctlShape off.toNat n = false →
          (∃ t, exec (.bar0Access off n true data) s = .next t ∧ t.out = s.out ∧ caught t) ∧
          ∃ t, exec (.bar0Access off n false data) s = .next t ∧ t.out = s.out ++ [.abort] ∧ caught t) ∧
        (ctlShape off.toNat n = true →
          (s.bar0Place off.toNat = .closed → exec (.bar0Access off n true data) s = .next s ∧
            exec (.bar0Access off n false data) s = said (.data (List.replicate n 0))) ∧
          (∀ o, s.bar0Place off.toNat = .control o → s.hostCut (0xFF0000000000 + o) = true → ∀ wr, exec (.bar0Access off n wr data) s = .next s) ∧
          (∀ o, s.bar0Place off.toNat = .control o → s.hostCut (0xFF0000000000 + o) = false →
            exec (.bar0Access off n true data) s =
              .next (s.settle (s.ctlWrite .driver o (ctlSize n) (BitVec.ofNat 64 (ofBytes data)))) ∧
            exec (.bar0Access off n false data) s =
              .next (s.settle ((s.ctlRead .driver o (ctlSize n)).1.answer (.data (toBytes n (s.ctlRead .driver o (ctlSize n)).2.toNat))))))) ∧
      (∀ (off : BitVec 36) n data, data.length = n → 0 < n →
        let a := s.bar2Addr off.toNat
        let good : Prop := ctlOff a = none ∧ ctlOff (a + n - 1) = none ∧ s.spanExists .driver a n = true ∧ s.phase ≠ 4
        (¬ good →
          (∃ t, exec (.bar2Access off n true data) s = .next t ∧ t.out = s.out ∧ caught t) ∧
          ∃ t, exec (.bar2Access off n false data) s = .next t ∧ t.out = s.out ++ [.abort] ∧ caught t) ∧
        (good → s.hostCut a = true → ∀ wr, exec (.bar2Access off n wr data) s = .next s) ∧
        (good → s.hostCut a = false → s.flawed a n = [] → s.tandem = false →
          (∃ t, exec (.bar2Access off n true data) s = .next t ∧ t.out = s.out ∧ (∀ j (h : j < data.length), t.byte (a + j) = data[j]) ∧
            ∀ x, ¬ s.touches a n x → t.byte x = s.byte x) ∧
          ∃ t, exec (.bar2Access off n false data) s = .next t ∧ t.out = s.out ++ [.data (s.bytes a n)] ∧ quiet t))) ∧
    (∀ (sp : BitVec 3) (wd : BitVec 5) rev,
      let fit : Prop := 1 ≤ sp.toNat ∧ sp.toNat ≤ 5 ∧ wd.toNat ∈ [1, 2, 4, 8, 16] ∧ s.pow.off = false ∧ s.pow.inReset = false ∧ s.pins.perst = true
      (¬ fit → exec (.pcieLinkTrained sp wd rev) s = .next s) ∧
      (fit → ∃ t, exec (.pcieLinkTrained sp wd rev) s = .next t ∧ t.host.up = true ∧ t.host.d3hot = false ∧
        t.fld .pciLstat F.pciLstat_SPEED = sp.toNat ∧ t.fld .pciLstat F.pciLstat_WIDTH = wd.toNat ∧ t.flag .pciLstat F.pciLstat_REV = rev ∧
        t.flag .pciLstat F.pciLstat_UP = true ∧ t.flag .pciLstat F.pciLstat_REDUCED = decide (sp.toNat < 5 ∨ wd.toNat < 16) ∧ quiet t)) ∧
    (s.pow.off = true ∨ s.host.up = false → (∀ down, exec (.hotReset down) s = .next s) ∧ exec .functionLevelReset s = .next s) ∧
    (s.pow.off = false → s.host.up = true →
      let after (t : State) : Prop := t.host.up = false ∧ t.host.d3hot = false ∧ t.host.wins = [] ∧ t.fld .pciLstat F.pciLstat_DOWNS = 1 ∧
        t.fld .clkRststat F.clkRststat_HOTRST =
          min (s.fld .clkRststat F.clkRststat_HOTRST + 1) (2 ^ F.clkRststat_HOTRST.2 - 1) ∧ t.svc.plan = s.svc.plan ∧ quiet t
      (∀ down, ∃ t, exec (.hotReset down) s = .next t ∧ after t) ∧ ∃ t, exec .functionLevelReset s = .next t ∧ after t) ∧
    (s.hostServes = false → exec .d3hotEnter s = .next s) ∧
    (s.hostServes = true → s.copiesInFlight = [] → ∃ t, exec .d3hotEnter s = .next t ∧ t.host = { s.host with d3hot := true } ∧
      t.regs = s.regs ∧ quiet t) ∧
    (s.host.d3hot = false → exec .d3hotLeave s = .next s) ∧
    (s.host.d3hot = true → ∃ t, exec .d3hotLeave s = .next t ∧ t.host.d3hot = false ∧ t.host.wins = s.host.wins ∧ t.regs = s.regs ∧ quiet t) ∧
    (∀ a, s.sbServes = false ∨ s.fw.i3c ≠ none → exec (.i3cDynamicAddress a) s = .next s) ∧
    (∀ a, s.sbServes = true → s.fw.i3c = none → exec (.i3cDynamicAddress a) s =
      .next { s with fw := { s.fw with i3c := some a }, out := s.out ++ [.sideband 0 0 (beBytes 6 s.provisionedId)] }) ∧
    (∀ off v cur data cmd, s.sbReady = false → exec (.sbRegisterRead off) s = .next s ∧ exec (.sbRegisterWrite off v) s = .next s ∧
      exec .sbStatus s = .next s ∧ exec (.sbOdometerRead cur) s = .next s ∧ exec (.sbImagePiece data) s = .next s ∧
      exec (.mctpControl cmd data) s = .next s) ∧
    (s.sbReady = true →
      let refused (code : Nat) (t : State) : Prop := (∃ more, t.out = s.out ++ more ++ [.sideband code 1 []]) ∧ quiet t
      (s.phase = 4 → ∀ off v cur, (∃ t, exec (.sbRegisterRead off) s = .next t ∧ refused 1 t) ∧
        (∃ t, exec (.sbRegisterWrite off v) s = .next t ∧ refused 2 t) ∧ (∃ t, exec .sbStatus s = .next t ∧ refused 3 t) ∧
        ∃ t, exec (.sbOdometerRead cur) s = .next t ∧ refused 4 t) ∧
      (s.phase ≠ 4 →
        (∀ (off : BitVec 32) v,
          let o := off.toNat
          (o % 8 ≠ 0 ∨ 2 ^ 30 ≤ o → (∃ t, exec (.sbRegisterRead off) s = .next t ∧ refused 1 t) ∧
            ∃ t, exec (.sbRegisterWrite off v) s = .next t ∧ refused 2 t) ∧
          (o % 8 = 0 → o < 2 ^ 30 →
            exec (.sbRegisterRead off) s =
              .next (s.settle ((s.ctlRead .driver o .w8).1.answer (.sideband 1 0 (toBytes 8 (s.ctlRead .driver o .w8).2.toNat)))) ∧
            exec (.sbRegisterWrite off v) s = .next (s.settle ((s.ctlWrite .driver o .w8 v).answer (.sideband 2 0 []))))) ∧
        exec .sbStatus s = said (.sideband 3 0 (List.flatten [toBytes 8 (s.view .clkBrstat).toNat, toBytes 8 (s.view .clkPwrstat).toNat,
          toBytes 8 (s.view .hubSvcstat).toNat])) ∧
        (∀ cur : BitVec 32,
          (s.flash.atCursor cur.toNat = none → ∃ t, exec (.sbOdometerRead cur) s = .next t ∧
            t.out = s.out ++ [.sideband 4 0 (List.replicate 64 0)] ∧ t.fw.sbCursor = cur.toNat ∧ t.flash = s.flash ∧ t.regs = s.regs ∧ quiet t) ∧
          (∀ r, s.flash.atCursor cur.toNat = some r → ∃ t, exec (.sbOdometerRead cur) s = .next t ∧
            t.out = s.out ++ [.sideband 4 0 r.bytes] ∧ t.fw.sbCursor = (r.seq + 1) % 2 ^ 32 ∧ t.flash = s.flash ∧ t.regs = s.regs ∧ quiet t))) ∧
      (∀ data,
        let r := (s.setFld .hubFwstat F.hubFwstat_REJ 0).sbDelivery data
        (r = none → ∃ t, exec (.sbImagePiece data) s = .next t ∧ refused 5 t) ∧
        (∀ u, r = some u → u.flag .hubFwstat F.hubFwstat_REJ = false → exec (.sbImagePiece data) s =
          .next (s.settle ((u.setFld .hubFwstat F.hubFwstat_REJ (s.fld .hubFwstat F.hubFwstat_REJ)).answer (.sideband 5 0 [])))) ∧
        (∀ u, r = some u → u.flag .hubFwstat F.hubFwstat_REJ = true →
          exec (.sbImagePiece data) s = .next (s.settle (u.sbRefuse 5 2)))) ∧
      (∀ eid : Byte, eid ≠ 0 → eid ≠ 255 → exec (.mctpControl 1 [0, eid]) s =
        .next { s with fw := { s.fw with eid := eid.toNat }, out := s.out ++ [.sideband 1 0 [0, eid, 0]] }) ∧
      exec (.mctpControl 2 []) s = said (.sideband 2 0 (List.flatten [toBytes 1 s.fw.eid, [0, 0]])) ∧
      (∀ b, exec (.mctpControl 4 [b]) s = said (.sideband 4 0 [1, 0xF0, 0xF1, 0xF3, 0xF1])) ∧
      exec (.mctpControl 6 [0]) s = said (.sideband 6 0 [0xFF, 0x00, 0x1F, 0x4C, 0x00, 0x00]) ∧
      exec (.mctpControl 5 []) s = said (.sideband 5 0 [2, 0x05, 0x7E]) ∧
      (∀ cmd : BitVec 8, cmd.toNat ∉ [1, 2, 4, 5, 6] → ∀ data, exec (.mctpControl cmd data) s = said (.sideband cmd.toNat 5 []))) ∧
    (∀ a h sl off len nonce i sg raw, s.sbReady = false ∨ s.phase = 4 →
      exec .getVersion s = .next s ∧ exec .getCapabilities s = .next s ∧ exec (.negotiateAlgorithms a h) s = .next s ∧
      exec .getDigests s = .next s ∧ exec (.getCertificate sl off len) s = .next s ∧ exec (.challenge sl nonce) s = .next s ∧
      exec (.getMeasurements i sg raw nonce) s = .next s) ∧
    (s.sbReady = true → s.phase ≠ 4 →
      let ready := s.flag .clkBrstat F.clkBrstat_KEYOK
      let chain := Config.certChain
      let drew (o : Out) : Host.Outcome State Fault Refusal :=
        .next { s with fw := { s.fw with answers := s.fw.answers + 1 }, out := s.out ++ [o] }
      exec .getVersion s = said (.spdm 0x04 [0, 2, 0x00, 0x12, 0x00, 0x13]) ∧
      exec .getCapabilities s = said (.spdm 0x61 (toBytes 4 0x16)) ∧
      (∀ a h, exec (.negotiateAlgorithms a h) s = said (.spdm 0x63 (List.flatten [[1], toBytes 4 (a &&& 4).toNat, toBytes 4 (h &&& 1).toNat]))) ∧
      exec .getDigests s = said (.spdm 0x01 (1 :: sha256 chain)) ∧
      (∀ (sl : BitVec 8) (off len : BitVec 16),
        let part := (chain.drop off.toNat).take len.toNat
        (sl ≠ 0 ∨ chain.length ≤ off.toNat → exec (.getCertificate sl off len) s = said (.spdm 0x7F (toBytes 1 1))) ∧
        (sl = 0 → off.toNat < chain.length → exec (.getCertificate sl off len) s =
          said (.spdm 0x02 (List.flatten [[0], toBytes 2 part.length, toBytes 2 (chain.length - off.toNat - part.length), part])))) ∧
      (∀ (sl : BitVec 8) (nonce : List Byte),
        let body := List.flatten [[0, 1], sha256 chain, Config.spdmBytes 3 s.fw.answers]
        (sl ≠ 0 ∨ nonce.length ≠ 32 → exec (.challenge sl nonce) s = said (.spdm 0x7F (toBytes 1 1))) ∧
        (sl = 0 → nonce.length = 32 → ready = false → exec (.challenge sl nonce) s = said (.spdm 0x7F (toBytes 1 3))) ∧
        (sl = 0 → nonce.length = 32 → ready = true → exec (.challenge sl nonce) s =
          drew (.spdm 0x03 (List.flatten [body, Config.sign (List.flatten [nonce, body])])))) ∧
      (∀ (i : BitVec 8) sg raw (nonce : List Byte),
        let bad : Prop := (9 < i.toNat ∧ i.toNat ≠ 255) ∨ (sg = true ∧ nonce.length ≠ 32)
        (bad → exec (.getMeasurements i sg raw nonce) s = said (.spdm 0x7F (toBytes 1 1))) ∧
        (¬ bad → sg = true → ready = false → exec (.getMeasurements i sg raw nonce) s = said (.spdm 0x7F (toBytes 1 3))) ∧
        (1 ≤ i.toNat → i.toNat ≤ 9 → sg = false →
          let m := (s.measurement raw i.toNat).2
          let form := i.toNat + if (s.measurement raw i.toNat).1 = true then 128 else 0
          let block := List.flatten [toBytes 1 i.toNat, [1], toBytes 2 (m.length + 3), toBytes 1 form, toBytes 2 m.length, m]
          exec (.getMeasurements i sg raw nonce) s =
            drew (.spdm 0x60 (List.flatten [[0], [1], toBytes 3 block.length, block, Config.spdmBytes 0x60 s.fw.answers])))))

/-- From a job, or before the boot ROM has handed over, a delivery command changes nothing; while BUSY it is counted in DUP. Otherwise
BEGIN reads a manifest and is refused with WHY 9, 1, its fault, 5 or 6, or opens a delivery into the slot that ACTIVE does not name; PIECE
is refused with 9, 1, 8 or 7, counted as a duplicate, or accepted; COMMIT is refused with 1, drops bad pieces with 10, or completes;
ACTIVATE is refused with 1 or makes the slot a trial; LIVE is refused with 11 or starts a takeover; CONFIRM ends a trial; ABANDON erases
the record. A refusal changes nothing in flash but what 10 says. A written piece joins its slot, and the last one completes the delivery;
a takeover moves the primary role, or is abandoned; a trial is confirmed when due. -/
def Obligations.FirmwareIsDeliveredAndActivated : Prop :=
  ∀ (s : State), s.stores = [] →
    let away (p : Priv) : Prop := p = .job ∨ s.fwServes = false
    let busy : Bool := s.flag .hubFwstat F.hubFwstat_BUSY
    let d := s.flash.delivery
    let now := s.bootNow
    let quiet (t : State) : Prop := t.core = s.core ∧ t.plt = s.plt ∧ ∀ a, t.byte a = s.byte a
    let dup (t : State) : Prop := t.fld .hubFwcnt F.hubFwcnt_DUP = min (s.fld .hubFwcnt F.hubFwcnt_DUP + 1) (2 ^ F.hubFwcnt_DUP.2 - 1) ∧
      t.flash = s.flash ∧ t.fw.piece = s.fw.piece ∧ quiet t
    let why (n : Nat) (u t : State) : Prop := t.flag .hubFwstat F.hubFwstat_REJ = true ∧ t.fld .hubFwstat F.hubFwstat_WHY = n ∧
      t.flash = u.flash ∧ t.fw.piece = u.fw.piece
    let boots (t : State) (active trial : Bool) (minSvn : Nat) : Prop :=
      t.flash.boot = some ⟨(now.seq + 1) % 2 ^ 32, active, trial, 0, minSvn⟩ ∧ t.flash.slotA = s.flash.slotA ∧ t.flash.slotB = s.flash.slotB ∧
      t.fld .hubFwstat F.hubFwstat_ACTSLOT = b2n active ∧ t.flag .hubFwstat F.hubFwstat_TRIAL = trial ∧ quiet t
    (∀ p a i bad, away p → exec (.fwBegin p a) s = .next s ∧ exec (.fwPiece p i a) s = .next s ∧ exec (.fwCommit p bad) s = .next s ∧
      exec (.fwActivate p) s = .next s ∧ exec (.fwActivateLive p) s = .next s ∧ exec (.fwConfirm p) s = .next s ∧ exec (.fwAbandon p) s = .next s) ∧
    (∀ p a i bad, ¬ away p → busy = true → (∃ t, exec (.fwBegin p a) s = .next t ∧ dup t) ∧ (∃ t, exec (.fwPiece p i a) s = .next t ∧ dup t) ∧
      (∃ t, exec (.fwCommit p bad) s = .next t ∧ dup t) ∧ (∃ t, exec (.fwActivate p) s = .next t ∧ dup t) ∧
      (∃ t, exec (.fwActivateLive p) s = .next t ∧ dup t) ∧ (∃ t, exec (.fwConfirm p) s = .next t ∧ dup t) ∧
      ∃ t, exec (.fwAbandon p) s = .next t ∧ dup t) ∧
    (∀ p, ¬ away p → busy = false →
      (∀ a : BitVec 42,
        (∀ u, s.readManifest (64 * a.toNat) = (u, none) → ∃ t, exec (.fwBegin p a) s = .next t ∧ why 9 u t) ∧
        (∀ u m, s.readManifest (64 * a.toNat) = (u, some m) → u.flash = s.flash → u.phase = s.phase →
          (2 ≤ d.dstate → ∃ t, exec (.fwBegin p a) s = .next t ∧ why 1 u t) ∧
          (∀ n, d.dstate < 2 → s.mFault m = some n → ∃ t, exec (.fwBegin p a) s = .next t ∧ why n u t) ∧
          (d.dstate < 2 → s.mFault m = none → now.trial = true ∧ s.phase ≠ 4 → ∃ t, exec (.fwBegin p a) s = .next t ∧ why 5 u t) ∧
          (d.dstate < 2 → s.mFault m = none → ¬ (now.trial = true ∧ s.phase ≠ 4) →
            (d.dstate = 1 → d.digest ≠ sha256 m → ∃ t, exec (.fwBegin p a) s = .next t ∧ why 6 u t) ∧
            (d.dstate = 1 → d.digest = sha256 m → ∃ t, exec (.fwBegin p a) s = .next t ∧ t.flash = s.flash) ∧
            (d.dstate = 0 → ∃ t, exec (.fwBegin p a) s = .next t ∧ t.flash.delivery = ⟨1, !now.active, sha256 m, m, []⟩ ∧
              (t.fwSlot (!now.active)).manifest = m ∧ t.fwSlot now.active = s.fwSlot now.active ∧ t.flash.boot = s.flash.boot ∧
              t.fld .hubFwstat F.hubFwstat_DSTATE = 1)))) ∧
      (∀ (i : BitVec 10) (a : BitVec 42),
        (∀ u, s.hubRead (64 * a.toNat) 65536 = (u, none) → ∃ t, exec (.fwPiece p i a) s = .next t ∧ why 9 u t) ∧
        (∀ u bs, s.hubRead (64 * a.toNat) 65536 = (u, some bs) → u.flash = s.flash →
          (d.dstate ≠ 1 → ∃ t, exec (.fwPiece p i a) s = .next t ∧ why 1 u t) ∧
          (d.dstate = 1 → mPieces d.manifest ≤ i.toNat → ∃ t, exec (.fwPiece p i a) s = .next t ∧ why 8 u t) ∧
          (d.dstate = 1 → i.toNat < mPieces d.manifest →
            let matches_ : Prop := sha256 bs = mDigest d.manifest i.toNat
            let known : Bool := d.present.contains i.toNat || u.fw.piece.any fun q => q.1 == i.toNat
            (¬ matches_ → ∃ t, exec (.fwPiece p i a) s = .next t ∧ why 7 u t) ∧
            (matches_ → known = true → ∃ t, exec (.fwPiece p i a) s = .next t ∧ t.flash = s.flash ∧ t.fw.piece = u.fw.piece ∧
              t.fw.dups = u.fw.dups + 1) ∧
            (matches_ → known = false → ∃ t, exec (.fwPiece p i a) s = .next t ∧ t.flash = s.flash ∧
              t.fw.piece = u.fw.piece ++ [(i.toNat, bs)])))) ∧
      (∀ bad : List (BitVec 10),
        let wrong := d.present.filter fun i => (bad.map BitVec.toNat).contains i || !(s.fwSlot d.slot).pieceOk i
        (d.dstate ≠ 2 → ∃ t, exec (.fwCommit p bad) s = .next t ∧ why 1 s t ∧ quiet t) ∧
        (d.dstate = 2 → wrong = [] ∧ s.manifestOk d.slot (s.fwSlot d.slot) = true → ∃ t, exec (.fwCommit p bad) s = .next t ∧
          t.flash = { s.flash with delivery := { d with dstate := 3 } } ∧ t.fld .hubFwstat F.hubFwstat_DSTATE = 3 ∧ quiet t) ∧
        (d.dstate = 2 → ¬ (wrong = [] ∧ s.manifestOk d.slot (s.fwSlot d.slot) = true) → ∃ t, exec (.fwCommit p bad) s = .next t ∧
          t.flash.delivery = { d with dstate := 1, present := d.present.filter fun i => !wrong.contains i } ∧
          t.fld .hubFwstat F.hubFwstat_WHY = 10 ∧ t.flag .hubFwstat F.hubFwstat_REJ = true ∧ quiet t)) ∧
      (d.dstate ≠ 3 → (∃ t, exec (.fwActivate p) s = .next t ∧ why 1 s t ∧ quiet t) ∧
        ∃ t, exec (.fwActivateLive p) s = .next t ∧ why 1 s t ∧ quiet t) ∧
      (d.dstate = 3 →
        let unfit : Prop := imageField s.fw.runSlot s.fw.running 24 2 < mField (s.fwSlot d.slot).manifest 26 2 ∨
          (s.resident = true ∧ mField (s.fwSlot d.slot).manifest 28 1 % 2 = 0) ∨ s.phase ≠ 3
        (∃ t, exec (.fwActivate p) s = .next t ∧ boots t d.slot true now.minSvn) ∧
        (s.phase = 4 → exec (.fwActivateLive p) s = .next (s.settle ((s.writeBoot d.slot true 0 now.minSvn).moduleReset 3))) ∧
        (s.phase ≠ 4 → unfit → ∃ t, exec (.fwActivateLive p) s = .next t ∧ why 11 s t ∧ quiet t) ∧
        (¬ unfit → ∃ t, exec (.fwActivateLive p) s = .next t ∧ t.fld .hubFwstat F.hubFwstat_TKSTATE = 1 ∧
          t.flag .hubFwstat F.hubFwstat_BUSY = true ∧ t.fw.takeover = some s.time ∧ t.flash = s.flash ∧ quiet t)) ∧
      (now.trial = false → ∃ t, exec (.fwConfirm p) s = .next t ∧ why 1 s t ∧ quiet t) ∧
      (now.trial = true → (s.fwSlot now.active).manifest ≠ [] → ∃ t, exec (.fwConfirm p) s = .next t ∧
        boots t now.active false (max now.minSvn (mField (s.fwSlot now.active).manifest 16 4))) ∧
      (d.dstate = 0 → ∃ t, exec (.fwAbandon p) s = .next t ∧ why 1 s t ∧ quiet t) ∧
      (d.dstate ≠ 0 → ∃ t, exec (.fwAbandon p) s = .next t ∧ t.flash.delivery = ⟨0, false, [], [], []⟩ ∧ t.fw.piece = [] ∧
        t.flash.boot = s.flash.boot ∧ t.fwSlot now.active = s.fwSlot now.active ∧ t.fld .hubFwstat F.hubFwstat_DSTATE = 0 ∧ quiet t)) ∧
    (∀ ok, s.fw.piece = [] → exec (.pieceWriteComplete ok) s = .next s) ∧
    (∀ i bs rest, s.fw.piece = (i, bs) :: rest →
      (∀ ok, s.pow.off = true ∨ d.dstate ≠ 1 → ∃ t, exec (.pieceWriteComplete ok) s = .next t ∧ t.fw.piece = rest ∧ t.flash = s.flash) ∧
      (s.pow.off = false → d.dstate = 1 →
        let l := i :: d.present.filter fun p => p != i
        let dst := if mPieces d.manifest ≤ l.length then 2 else 1
        (∃ t, exec (.pieceWriteComplete false) s = .next t ∧ t.fw.piece = rest ∧ t.flash = s.flash ∧ t.fld .hubFwstat F.hubFwstat_WHY = 12) ∧
        ∃ t, exec (.pieceWriteComplete true) s = .next t ∧ t.fw.piece = rest ∧ t.flash.delivery = { d with dstate := dst, present := l } ∧
          (t.fwSlot d.slot).pieces = (s.fwSlot d.slot).pieces.set i bs ∧ t.flash.boot = s.flash.boot ∧
          t.fld .hubFwstat F.hubFwstat_DSTATE = dst)) ∧
    (let due : Prop := s.flag .hubFwctl F.hubFwctl_AUTOCONF = true ∧ now.trial = true ∧ s.fw.runSlot = now.active ∧ s.phase = 3 ∧
        s.fw.watchdog = false ∧ s.sinceFor s.fw.since 60000000000 = true
     (¬ due → exec .autoConfirm s = .next s) ∧
     (due → (s.fwSlot now.active).manifest ≠ [] → ∃ t, exec .autoConfirm s = .next t ∧
        boots t now.active false (max now.minSvn (mField (s.fwSlot now.active).manifest 16 4)))) ∧
    (s.fw.takeover = none → exec .takeoverAbandon s = .next s ∧ ∀ ok, exec (.takeoverStandbyStarted ok) s = .next s) ∧
    (∀ at_, s.fw.takeover = some at_ →
      let over_ (t : State) : Prop := t.fw.takeover = none ∧ t.fw.oldBoot = none ∧ t.fld .hubFwstat F.hubFwstat_TKSTATE = 0 ∧
        t.flag .hubFwstat F.hubFwstat_BUSY = false ∧ quiet t
      (∃ t, exec .takeoverAbandon s = .next t ∧ over_ t ∧ t.flash = s.flash ∧ t.primDie = s.primDie) ∧
      (∀ e, s.fw.oldBoot = some e →
        (∃ t, exec (.takeoverStandbyStarted false) s = .next t ∧ over_ t ∧ t.primDie = s.primDie ∧ t.fw.runSlot = s.fw.runSlot ∧
          ∃ q, t.flash.boot = some ⟨q, e.active, e.trial, e.tryCnt, e.minSvn⟩) ∧
        (∃ t, exec (.takeoverStandbyStarted true) s = .next t ∧ over_ t ∧ t.primDie = s.primDie + 1 ∧ t.fw.runSlot = d.slot ∧
          t.fw.running = s.fwSlot d.slot ∧ boots t d.slot true e.minSvn ∧
          t.fld .hubFwcnt F.hubFwcnt_TAKEOVERS = min (s.fld .hubFwcnt F.hubFwcnt_TAKEOVERS + 1) (2 ^ F.hubFwcnt_TAKEOVERS.2 - 1))))
end

