-- ==== Sys2Proof/Laws/Memory.lean ====
section
/-!
SUPPORT. Laws of memory: every change keeps the canonical form, a read after a write gives the byte written, and a write leaves every
other address alone.
-/

namespace Sys2Proof.Machine

/-! ## The canonical form -/

/-- Sorted cells are pairwise rising. -/
theorem cellsSorted_iff (l : List Host.Cell) : cellsSorted l = true ↔ l.Pairwise (fun x y => x.1 < y.1) := by
  induction l with
  | nil => simp [cellsSorted]
  | cons x t ih =>
    cases t with
    | nil => simp [cellsSorted]
    | cons y u =>
      simp only [cellsSorted, Bool.and_eq_true, decide_eq_true_eq, ih, List.pairwise_cons]
      constructor
      · rintro ⟨h, h2, h3⟩
        refine ⟨?_, h2, h3⟩
        intro z hz
        rcases List.mem_cons.mp hz with rfl | hz
        · exact h
        · exact Nat.lt_trans h (h2 z hz)
      · rintro ⟨h, h2, h3⟩
        exact ⟨h y (by simp), h2, h3⟩

/-- What `cellsPut` lists. -/
theorem mem_cellsPut {a : Nat} {b : Byte} {l : List Host.Cell} {z : Host.Cell} (h : z ∈ cellsPut a b l) : z = (a, b) ∨ z ∈ l := by
  induction l with
  | nil => simpa [cellsPut] using h
  | cons x t ih =>
    unfold cellsPut at h
    split at h
    · simpa using h
    · split at h
      · rcases List.mem_cons.mp h with h | h
        · exact .inl h
        · exact .inr (by simp [h])
      · rcases List.mem_cons.mp h with h | h
        · exact .inr (by simp [h])
        · rcases ih h with h | h
          · exact .inl h
          · exact .inr (by simp [h])

/-- Inserting a cell keeps the order. -/
theorem cellsPut_sorted (a : Nat) (b : Byte) {l : List Host.Cell} (h : cellsSorted l = true) : cellsSorted (cellsPut a b l) = true := by
  rw [cellsSorted_iff] at *
  induction l with
  | nil => simp [cellsPut]
  | cons x t ih =>
    obtain ⟨hx, ht⟩ := List.pairwise_cons.mp h
    unfold cellsPut
    split
    · next hlt =>
      refine List.pairwise_cons.mpr ⟨?_, h⟩
      intro z hz
      rcases List.mem_cons.mp hz with rfl | hz
      · exact hlt
      · exact Nat.lt_trans hlt (hx z hz)
    · split
      · next _ heq =>
        subst heq
        exact List.pairwise_cons.mpr ⟨hx, ht⟩
      · next h1 h2 =>
        refine List.pairwise_cons.mpr ⟨?_, ih ht⟩
        intro z hz
        rcases mem_cellsPut hz with rfl | hz
        · exact Nat.lt_of_le_of_ne (Nat.le_of_not_lt h1) (Ne.symm h2)
        · exact hx z hz

/-- Dropping cells keeps the canonical form. -/
theorem cells_filter_wf (p : Host.Cell → Bool) {l : List Host.Cell} {r r' : List LostRange} (h : (Memory.mk l r).wf = true) :
    (Memory.mk (l.filter p) r').wf = true := by
  simp only [Memory.wf, Bool.and_eq_true, cellsSorted_iff, List.all_eq_true] at *
  exact ⟨h.1.filter _, fun c hc => h.2 c (List.mem_filter.mp hc).1⟩

/-- One change keeps the canonical form. -/
theorem Memory.apply_wf {m : Memory} (h : m.wf = true) (o : MemOp) : (m.apply o).wf = true := by
  cases o with
  | put a b =>
    unfold Memory.apply
    by_cases hb : b = 0
    · simp only [hb, if_true]
      exact cells_filter_wf _ h
    · simp only [hb, if_false]
      simp only [Memory.wf, Bool.and_eq_true, List.all_eq_true] at *
      refine ⟨cellsPut_sorted a b h.1, fun c hc => ?_⟩
      rcases mem_cellsPut hc with rfl | hc
      · simpa using hb
      · exact h.2 c hc
  | zero lo hi => exact cells_filter_wf _ h
  | lose lo hi n => exact cells_filter_wf _ h

/-- The changes of a command keep the canonical form. -/
theorem Memory.applyAll_wf {m : Memory} (h : m.wf = true) (l : List MemOp) : (m.applyAll l).wf = true := by
  induction l with
  | nil => exact h
  | cons o t ih => exact Memory.apply_wf ih o

/-! ## Reading after writing -/

/-- Finding a cell after an insertion. -/
theorem find_cellsPut (a : Nat) (b : Byte) (l : List Host.Cell) (x : Nat) :
    (cellsPut a b l).find? (fun c => decide (c.1 = x)) = if x = a then some (a, b) else l.find? (fun c => decide (c.1 = x)) := by
  induction l with
  | nil =>
    by_cases h : x = a
    · simp [cellsPut, h]
    · simp [cellsPut, h, Ne.symm h]
  | cons y t ih =>
    unfold cellsPut
    split
    · by_cases h : x = a
      · simp [h]
      · simp [h, Ne.symm h]
    · split
      · next _ heq =>
        by_cases h : x = a
        · simp [h]
        · have h2 : ¬ y.1 = x := by rw [← heq]; exact Ne.symm h
          simp [h, Ne.symm h, h2]
      · next _ hne =>
        simp only [List.find?_cons]
        by_cases hy : y.1 = x
        · have : ¬ x = a := by rw [← hy]; exact fun e => hne e.symm
          simp [hy, this]
        · simp [hy, ih]

/-- Finding a cell after others were dropped. -/
theorem find_filter_keep (p : Host.Cell → Bool) (l : List Host.Cell) (x : Nat) (h : ∀ c : Host.Cell, c.1 = x → p c = true) :
    (l.filter p).find? (fun c => decide (c.1 = x)) = l.find? (fun c => decide (c.1 = x)) := by
  induction l with
  | nil => rfl
  | cons y t ih =>
    by_cases hp : p y = true
    · simp [List.filter_cons, hp, List.find?_cons, ih]
    · have hy : ¬ y.1 = x := fun e => hp (h y e)
      simp [List.filter_cons, hp, List.find?_cons, hy, ih]

/-- Finding a cell that was dropped. -/
theorem find_filter_drop (p : Host.Cell → Bool) (l : List Host.Cell) (x : Nat) (h : ∀ c : Host.Cell, c.1 = x → p c = false) :
    (l.filter p).find? (fun c => decide (c.1 = x)) = none := by
  rw [List.find?_eq_none]
  intro c hc e
  have := (List.mem_filter.mp hc).2
  simp [h c (by simpa using e)] at this

/-- Whether an address lies in a list of lost ranges is unchanged outside a range that is cut out. -/
theorem unlisted_cut_out (lo hi : Nat) (l : List LostRange) (x : Nat) (h : ¬ (lo ≤ x ∧ x < hi)) :
    unlisted (cutLost lo hi l) x = unlisted l x := by
  induction l with
  | nil => rfl
  | cons r t ih =>
    have step : ∀ u : List LostRange, unlisted (LostRange.cut lo hi r ++ u) x = if r.lo ≤ x ∧ x < r.hi then Config.lostByte r.serial x else unlisted u x := by
      intro u
      unfold LostRange.cut
      split <;> split <;> simp only [List.cons_append, List.nil_append, unlisted] <;> split_ifs <;> first | rfl | (exfalso; omega)
    simp only [cutLost, List.map_cons, List.flatten_cons] at *
    rw [step, unlisted, ih]

/-- Inside a range that is cut out nothing is lost. -/
theorem unlisted_cut_in (lo hi : Nat) (l : List LostRange) (x : Nat) (h : lo ≤ x ∧ x < hi) : unlisted (cutLost lo hi l) x = 0 := by
  induction l with
  | nil => rfl
  | cons r t ih =>
    have step : ∀ u : List LostRange, unlisted u x = 0 → unlisted (LostRange.cut lo hi r ++ u) x = 0 := by
      intro u hu
      unfold LostRange.cut
      split <;> split <;> simp only [List.cons_append, List.nil_append, unlisted] <;>
        first | exact hu | (split_ifs <;> first | exact hu | (exfalso; omega))
    simp only [cutLost, List.map_cons, List.flatten_cons] at *
    exact step _ ih

/-- A read after a change: the byte the change leaves, or what was there before. -/
theorem Memory.get_apply (m : Memory) (o : MemOp) (x : Nat) : (m.apply o).get x = (storedByte x [o]).getD (m.get x) := by
  cases o with
  | put a b =>
    by_cases h : x = a
    · subst h
      by_cases hb : b = 0
      · simp only [Memory.apply, hb, if_true, Memory.get, storedByte, Option.getD_some]
        rw [find_filter_drop]
        · exact unlisted_cut_in _ _ _ _ (by omega)
        · intro c hc
          simp [hc]
      · simp only [Memory.apply, if_neg hb, Memory.get, storedByte, find_cellsPut, if_true, Option.getD_some]
    · have hc : ¬ (a ≤ x ∧ x < a + 1) := by omega
      by_cases hb : b = 0
      · simp only [Memory.apply, hb, if_true, Memory.get, storedByte, h, if_false, Option.getD_none]
        rw [find_filter_keep, unlisted_cut_out _ _ _ _ hc]
        intro c e
        simp [e, h]
      · simp only [Memory.apply, if_neg hb, Memory.get, storedByte, find_cellsPut, if_neg h, unlisted_cut_out _ _ _ _ hc, Option.getD_none]
  | zero lo hi =>
    by_cases h : lo ≤ x ∧ x < hi
    · simp only [Memory.apply, Memory.get, storedByte, h, and_self, if_true, Option.getD_some]
      rw [find_filter_drop]
      · exact unlisted_cut_in _ _ _ _ h
      · intro c e
        simp [e, h]
    · simp only [Memory.apply, Memory.get, storedByte, h, if_false, Option.getD_none]
      rw [find_filter_keep, unlisted_cut_out _ _ _ _ h]
      intro c e
      simp only [e]
      exact decide_eq_true h
  | lose lo hi n =>
    by_cases h : lo ≤ x ∧ x < hi
    · simp only [Memory.apply, Memory.get, storedByte, h, and_self, if_true, Option.getD_some]
      rw [find_filter_drop]
      · simp [unlisted, h]
      · intro c e
        simp [e, h]
    · simp only [Memory.apply, Memory.get, storedByte, h, if_false, Option.getD_none, unlisted]
      rw [find_filter_keep, unlisted_cut_out _ _ _ _ h]
      intro c e
      simp only [e]
      exact decide_eq_true h

/-- A read after all changes of a command. -/
theorem Memory.get_applyAll (m : Memory) (l : List MemOp) (x : Nat) : (m.applyAll l).get x = (storedByte x l).getD (m.get x) := by
  induction l with
  | nil => rfl
  | cons o t ih =>
    show ((m.applyAll t).apply o).get x = _
    rw [Memory.get_apply, ih]
    cases o <;> simp only [storedByte] <;> split <;> simp

/-- A byte that a command has put is what it reads next. -/
theorem State.byte_putByte (s : State) (a : Nat) (b : Byte) (x : Nat) : (s.putByte a b).byte x = if x = a then b else s.byte x := by
  by_cases h : x = a <;> simp [State.byte, State.putByte, storedByte, h]

/-- What a command's end leaves at an address. -/
theorem State.byte_settle (s t : State) (x : Nat) : (s.settle t).byte x = (storedByte x t.stores).getD (s.mem.get x) := by
  simp [State.byte, State.settle, storedByte, Memory.get_applyAll]

/-- A command's end keeps the canonical form of memory. -/
theorem State.settle_mem_wf {s : State} (h : s.mem.wf = true) (t : State) : (s.settle t).mem.wf = true := Memory.applyAll_wf h t.stores

end Sys2Proof.Machine
end

