-- ==== Sys2Proof/Laws/State.lean ====
section
/-!
SUPPORT. Laws of the state: what each named update leaves alone, field by field, and a register or a map entry after it was set.
-/

namespace Sys2Proof.Machine

/-! ## Maps -/

/-- Reading a key that was just set. -/
@[simp] theorem Map.get_set_same {α β : Type} [DecidableEq α] (m : Map α β) (a : α) (b d : β) : (m.set a b).get a d = b := by
  simp [Map.set, Map.get]

/-- Unlisting a key leaves the others alone. -/
theorem Map.get_del {α β : Type} [DecidableEq α] (m : Map α β) {a x : α} (h : x ≠ a) (d : β) : (m.del a).get x d = m.get x d := by
  induction m with
  | nil => rfl
  | cons p t ih =>
    by_cases hp : p.1 = a
    · have hx : ¬ p.1 = x := fun e => h (e ▸ hp)
      have hd : Map.del (p :: t) a = Map.del t a := by simp [Map.del, hp]
      rw [hd, ih]
      simp [Map.get, hx]
    · have hd : Map.del (p :: t) a = p :: Map.del t a := by simp [Map.del, hp]
      rw [hd]
      simp [Map.get, ih]

/-- Setting a key leaves the others alone. -/
theorem Map.get_set_ne {α β : Type} [DecidableEq α] (m : Map α β) {a x : α} (h : x ≠ a) (b d : β) : (m.set a b).get x d = m.get x d := by
  have h2 : ¬ a = x := fun e => h e.symm
  simp [Map.set, Map.get, h2, Map.get_del m h]

/-! ## Registers -/

/-- A register that was just set reads its value, less its reserved bits (R8). -/
@[simp] theorem State.reg_setReg_same (s : State) (r : Reg) (v : Word) : (s.setReg r v).reg r = v &&& r.mask := by
  simp [State.reg, State.setReg, BitVec.and_assoc]

/-- Setting a register leaves the others alone. -/
theorem State.reg_setReg_ne (s : State) {r q : Reg} (h : q ≠ r) (v : Word) : (s.setReg r v).reg q = s.reg q := by
  simp [State.reg, State.setReg, Map.get_set_ne _ h]

/-- Setting a field leaves the other registers alone. -/
theorem State.reg_setFld_ne (s : State) {r q : Reg} (h : q ≠ r) (f : Nat × Nat) (v : Nat) : (s.setFld r f v).reg q = s.reg q :=
  State.reg_setReg_ne s h _

/-- Counting leaves the other registers alone. -/
theorem State.reg_count_ne (s : State) {r q : Reg} (h : q ≠ r) (f : Nat × Nat) (n : Nat) : (s.count r f n).reg q = s.reg q := by
  unfold State.count
  split
  · rfl
  · exact State.reg_setFld_ne s h f _

/-! ## Contexts -/

/-- A context that was just set. -/
@[simp] theorem State.ctx_setCtx_same (s : State) (x : CtxId) (c : Ctx) : (s.setCtx x c).ctx x = c := by
  simp [State.ctx, State.setCtx]

/-- Setting a context leaves the others alone. -/
theorem State.ctx_setCtx_ne (s : State) {x y : CtxId} (h : y ≠ x) (c : Ctx) : (s.setCtx x c).ctx y = s.ctx y := by
  simp [State.ctx, State.setCtx, Map.get_set_ne _ h]

/-- A scalar register that was just written; s0 reads 0 (R127). -/
theorem State.sreg_setSreg_same (s : State) (x : CtxId) (r : R5) (v : Word) : (s.setSreg x r v).sreg x r = if r = 0 then 0 else v := by
  by_cases h : r = 0 <;> simp [State.sreg, State.setSreg, h]

/-- Writing a scalar register leaves the others alone. -/
theorem State.sreg_setSreg_ne (s : State) (x : CtxId) {r q : R5} (h : q ≠ r) (v : Word) : (s.setSreg x r v).sreg x q = s.sreg x q := by
  by_cases h0 : r = 0
  · simp [State.setSreg, h0]
  · simp [State.sreg, State.setSreg, h0, Map.get_set_ne _ h]

/-- A predicate that was just written; p0 reads 1 (R127). -/
theorem State.pred_setPred_same (s : State) (x : CtxId) (p : Fin 8) (v : Bool) :
    (s.setPred x p v).pred x p = if p = 0 then true else v := by
  by_cases h : p = 0 <;> simp [State.pred, State.setPred, h]


/-! ## What `setReg` leaves alone -/

@[simp] theorem State.setReg_pending (s : State) (r : Reg) (v : Word) : (s.setReg r v).pending = s.pending := rfl
@[simp] theorem State.setReg_mem (s : State) (r : Reg) (v : Word) : (s.setReg r v).mem = s.mem := rfl
@[simp] theorem State.setReg_stores (s : State) (r : Reg) (v : Word) : (s.setReg r v).stores = s.stores := rfl
@[simp] theorem State.setReg_rim (s : State) (r : Reg) (v : Word) : (s.setReg r v).rim = s.rim := rfl
@[simp] theorem State.setReg_core (s : State) (r : Reg) (v : Word) : (s.setReg r v).core = s.core := rfl
@[simp] theorem State.setReg_fab (s : State) (r : Reg) (v : Word) : (s.setReg r v).fab = s.fab := rfl
@[simp] theorem State.setReg_plt (s : State) (r : Reg) (v : Word) : (s.setReg r v).plt = s.plt := rfl
@[simp] theorem State.setReg_host (s : State) (r : Reg) (v : Word) : (s.setReg r v).host = s.host := rfl
@[simp] theorem State.setReg_obs (s : State) (r : Reg) (v : Word) : (s.setReg r v).obs = s.obs := rfl
@[simp] theorem State.setReg_int (s : State) (r : Reg) (v : Word) : (s.setReg r v).int = s.int := rfl
@[simp] theorem State.setReg_gen (s : State) (r : Reg) (v : Word) : (s.setReg r v).gen = s.gen := rfl
@[simp] theorem State.setReg_pins (s : State) (r : Reg) (v : Word) : (s.setReg r v).pins = s.pins := rfl
@[simp] theorem State.setReg_pow (s : State) (r : Reg) (v : Word) : (s.setReg r v).pow = s.pow := rfl
@[simp] theorem State.setReg_keep (s : State) (r : Reg) (v : Word) : (s.setReg r v).keep = s.keep := rfl
@[simp] theorem State.setReg_svc (s : State) (r : Reg) (v : Word) : (s.setReg r v).svc = s.svc := rfl
@[simp] theorem State.setReg_moved (s : State) (r : Reg) (v : Word) : (s.setReg r v).moved = s.moved := rfl
@[simp] theorem State.setReg_flash (s : State) (r : Reg) (v : Word) : (s.setReg r v).flash = s.flash := rfl
@[simp] theorem State.setReg_fw (s : State) (r : Reg) (v : Word) : (s.setReg r v).fw = s.fw := rfl
@[simp] theorem State.setReg_mapbuf (s : State) (r : Reg) (v : Word) : (s.setReg r v).mapbuf = s.mapbuf := rfl
@[simp] theorem State.setReg_time (s : State) (r : Reg) (v : Word) : (s.setReg r v).time = s.time := rfl
@[simp] theorem State.setReg_events (s : State) (r : Reg) (v : Word) : (s.setReg r v).events = s.events := rfl
@[simp] theorem State.setReg_out (s : State) (r : Reg) (v : Word) : (s.setReg r v).out = s.out := rfl
@[simp] theorem State.setReg_free (s : State) (r : Reg) (v : Word) : (s.setReg r v).free = s.free := rfl

/-! ## What `setFld` leaves alone -/

@[simp] theorem State.setFld_pending (s : State) (r : Reg) (f : Nat × Nat) (v : Nat) : (s.setFld r f v).pending = s.pending := rfl
@[simp] theorem State.setFld_mem (s : State) (r : Reg) (f : Nat × Nat) (v : Nat) : (s.setFld r f v).mem = s.mem := rfl
@[simp] theorem State.setFld_stores (s : State) (r : Reg) (f : Nat × Nat) (v : Nat) : (s.setFld r f v).stores = s.stores := rfl
@[simp] theorem State.setFld_rim (s : State) (r : Reg) (f : Nat × Nat) (v : Nat) : (s.setFld r f v).rim = s.rim := rfl
@[simp] theorem State.setFld_core (s : State) (r : Reg) (f : Nat × Nat) (v : Nat) : (s.setFld r f v).core = s.core := rfl
@[simp] theorem State.setFld_fab (s : State) (r : Reg) (f : Nat × Nat) (v : Nat) : (s.setFld r f v).fab = s.fab := rfl
@[simp] theorem State.setFld_plt (s : State) (r : Reg) (f : Nat × Nat) (v : Nat) : (s.setFld r f v).plt = s.plt := rfl
@[simp] theorem State.setFld_host (s : State) (r : Reg) (f : Nat × Nat) (v : Nat) : (s.setFld r f v).host = s.host := rfl
@[simp] theorem State.setFld_obs (s : State) (r : Reg) (f : Nat × Nat) (v : Nat) : (s.setFld r f v).obs = s.obs := rfl
@[simp] theorem State.setFld_int (s : State) (r : Reg) (f : Nat × Nat) (v : Nat) : (s.setFld r f v).int = s.int := rfl
@[simp] theorem State.setFld_gen (s : State) (r : Reg) (f : Nat × Nat) (v : Nat) : (s.setFld r f v).gen = s.gen := rfl
@[simp] theorem State.setFld_pins (s : State) (r : Reg) (f : Nat × Nat) (v : Nat) : (s.setFld r f v).pins = s.pins := rfl
@[simp] theorem State.setFld_pow (s : State) (r : Reg) (f : Nat × Nat) (v : Nat) : (s.setFld r f v).pow = s.pow := rfl
@[simp] theorem State.setFld_keep (s : State) (r : Reg) (f : Nat × Nat) (v : Nat) : (s.setFld r f v).keep = s.keep := rfl
@[simp] theorem State.setFld_svc (s : State) (r : Reg) (f : Nat × Nat) (v : Nat) : (s.setFld r f v).svc = s.svc := rfl
@[simp] theorem State.setFld_moved (s : State) (r : Reg) (f : Nat × Nat) (v : Nat) : (s.setFld r f v).moved = s.moved := rfl
@[simp] theorem State.setFld_flash (s : State) (r : Reg) (f : Nat × Nat) (v : Nat) : (s.setFld r f v).flash = s.flash := rfl
@[simp] theorem State.setFld_fw (s : State) (r : Reg) (f : Nat × Nat) (v : Nat) : (s.setFld r f v).fw = s.fw := rfl
@[simp] theorem State.setFld_mapbuf (s : State) (r : Reg) (f : Nat × Nat) (v : Nat) : (s.setFld r f v).mapbuf = s.mapbuf := rfl
@[simp] theorem State.setFld_time (s : State) (r : Reg) (f : Nat × Nat) (v : Nat) : (s.setFld r f v).time = s.time := rfl
@[simp] theorem State.setFld_events (s : State) (r : Reg) (f : Nat × Nat) (v : Nat) : (s.setFld r f v).events = s.events := rfl
@[simp] theorem State.setFld_out (s : State) (r : Reg) (f : Nat × Nat) (v : Nat) : (s.setFld r f v).out = s.out := rfl
@[simp] theorem State.setFld_free (s : State) (r : Reg) (f : Nat × Nat) (v : Nat) : (s.setFld r f v).free = s.free := rfl

/-! ## What `wrap` leaves alone -/

@[simp] theorem State.wrap_pending (s : State) (r : Reg) (f : Nat × Nat) (v : Nat) : (s.wrap r f v).pending = s.pending := rfl
@[simp] theorem State.wrap_mem (s : State) (r : Reg) (f : Nat × Nat) (v : Nat) : (s.wrap r f v).mem = s.mem := rfl
@[simp] theorem State.wrap_stores (s : State) (r : Reg) (f : Nat × Nat) (v : Nat) : (s.wrap r f v).stores = s.stores := rfl
@[simp] theorem State.wrap_rim (s : State) (r : Reg) (f : Nat × Nat) (v : Nat) : (s.wrap r f v).rim = s.rim := rfl
@[simp] theorem State.wrap_core (s : State) (r : Reg) (f : Nat × Nat) (v : Nat) : (s.wrap r f v).core = s.core := rfl
@[simp] theorem State.wrap_fab (s : State) (r : Reg) (f : Nat × Nat) (v : Nat) : (s.wrap r f v).fab = s.fab := rfl
@[simp] theorem State.wrap_plt (s : State) (r : Reg) (f : Nat × Nat) (v : Nat) : (s.wrap r f v).plt = s.plt := rfl
@[simp] theorem State.wrap_host (s : State) (r : Reg) (f : Nat × Nat) (v : Nat) : (s.wrap r f v).host = s.host := rfl
@[simp] theorem State.wrap_obs (s : State) (r : Reg) (f : Nat × Nat) (v : Nat) : (s.wrap r f v).obs = s.obs := rfl
@[simp] theorem State.wrap_int (s : State) (r : Reg) (f : Nat × Nat) (v : Nat) : (s.wrap r f v).int = s.int := rfl
@[simp] theorem State.wrap_gen (s : State) (r : Reg) (f : Nat × Nat) (v : Nat) : (s.wrap r f v).gen = s.gen := rfl
@[simp] theorem State.wrap_pins (s : State) (r : Reg) (f : Nat × Nat) (v : Nat) : (s.wrap r f v).pins = s.pins := rfl
@[simp] theorem State.wrap_pow (s : State) (r : Reg) (f : Nat × Nat) (v : Nat) : (s.wrap r f v).pow = s.pow := rfl
@[simp] theorem State.wrap_keep (s : State) (r : Reg) (f : Nat × Nat) (v : Nat) : (s.wrap r f v).keep = s.keep := rfl
@[simp] theorem State.wrap_svc (s : State) (r : Reg) (f : Nat × Nat) (v : Nat) : (s.wrap r f v).svc = s.svc := rfl
@[simp] theorem State.wrap_moved (s : State) (r : Reg) (f : Nat × Nat) (v : Nat) : (s.wrap r f v).moved = s.moved := rfl
@[simp] theorem State.wrap_flash (s : State) (r : Reg) (f : Nat × Nat) (v : Nat) : (s.wrap r f v).flash = s.flash := rfl
@[simp] theorem State.wrap_fw (s : State) (r : Reg) (f : Nat × Nat) (v : Nat) : (s.wrap r f v).fw = s.fw := rfl
@[simp] theorem State.wrap_mapbuf (s : State) (r : Reg) (f : Nat × Nat) (v : Nat) : (s.wrap r f v).mapbuf = s.mapbuf := rfl
@[simp] theorem State.wrap_time (s : State) (r : Reg) (f : Nat × Nat) (v : Nat) : (s.wrap r f v).time = s.time := rfl
@[simp] theorem State.wrap_events (s : State) (r : Reg) (f : Nat × Nat) (v : Nat) : (s.wrap r f v).events = s.events := rfl
@[simp] theorem State.wrap_out (s : State) (r : Reg) (f : Nat × Nat) (v : Nat) : (s.wrap r f v).out = s.out := rfl
@[simp] theorem State.wrap_free (s : State) (r : Reg) (f : Nat × Nat) (v : Nat) : (s.wrap r f v).free = s.free := rfl

/-! ## What `setPc` leaves alone -/

@[simp] theorem State.setPc_pending (s : State) (x : CtxId) (v : Nat) : (s.setPc x v).pending = s.pending := rfl
@[simp] theorem State.setPc_mem (s : State) (x : CtxId) (v : Nat) : (s.setPc x v).mem = s.mem := rfl
@[simp] theorem State.setPc_stores (s : State) (x : CtxId) (v : Nat) : (s.setPc x v).stores = s.stores := rfl
@[simp] theorem State.setPc_rim (s : State) (x : CtxId) (v : Nat) : (s.setPc x v).rim = s.rim := rfl
@[simp] theorem State.setPc_core (s : State) (x : CtxId) (v : Nat) : (s.setPc x v).core = s.core := rfl
@[simp] theorem State.setPc_fab (s : State) (x : CtxId) (v : Nat) : (s.setPc x v).fab = s.fab := rfl
@[simp] theorem State.setPc_plt (s : State) (x : CtxId) (v : Nat) : (s.setPc x v).plt = s.plt := rfl
@[simp] theorem State.setPc_host (s : State) (x : CtxId) (v : Nat) : (s.setPc x v).host = s.host := rfl
@[simp] theorem State.setPc_obs (s : State) (x : CtxId) (v : Nat) : (s.setPc x v).obs = s.obs := rfl
@[simp] theorem State.setPc_int (s : State) (x : CtxId) (v : Nat) : (s.setPc x v).int = s.int := rfl
@[simp] theorem State.setPc_gen (s : State) (x : CtxId) (v : Nat) : (s.setPc x v).gen = s.gen := rfl
@[simp] theorem State.setPc_pins (s : State) (x : CtxId) (v : Nat) : (s.setPc x v).pins = s.pins := rfl
@[simp] theorem State.setPc_pow (s : State) (x : CtxId) (v : Nat) : (s.setPc x v).pow = s.pow := rfl
@[simp] theorem State.setPc_keep (s : State) (x : CtxId) (v : Nat) : (s.setPc x v).keep = s.keep := rfl
@[simp] theorem State.setPc_svc (s : State) (x : CtxId) (v : Nat) : (s.setPc x v).svc = s.svc := rfl
@[simp] theorem State.setPc_moved (s : State) (x : CtxId) (v : Nat) : (s.setPc x v).moved = s.moved := rfl
@[simp] theorem State.setPc_flash (s : State) (x : CtxId) (v : Nat) : (s.setPc x v).flash = s.flash := rfl
@[simp] theorem State.setPc_fw (s : State) (x : CtxId) (v : Nat) : (s.setPc x v).fw = s.fw := rfl
@[simp] theorem State.setPc_mapbuf (s : State) (x : CtxId) (v : Nat) : (s.setPc x v).mapbuf = s.mapbuf := rfl
@[simp] theorem State.setPc_time (s : State) (x : CtxId) (v : Nat) : (s.setPc x v).time = s.time := rfl
@[simp] theorem State.setPc_events (s : State) (x : CtxId) (v : Nat) : (s.setPc x v).events = s.events := rfl
@[simp] theorem State.setPc_out (s : State) (x : CtxId) (v : Nat) : (s.setPc x v).out = s.out := rfl
@[simp] theorem State.setPc_free (s : State) (x : CtxId) (v : Nat) : (s.setPc x v).free = s.free := rfl

/-! ## What `setCtxState` leaves alone -/

@[simp] theorem State.setCtxState_pending (s : State) (x : CtxId) (v : Nat) : (s.setCtxState x v).pending = s.pending := rfl
@[simp] theorem State.setCtxState_mem (s : State) (x : CtxId) (v : Nat) : (s.setCtxState x v).mem = s.mem := rfl
@[simp] theorem State.setCtxState_stores (s : State) (x : CtxId) (v : Nat) : (s.setCtxState x v).stores = s.stores := rfl
@[simp] theorem State.setCtxState_rim (s : State) (x : CtxId) (v : Nat) : (s.setCtxState x v).rim = s.rim := rfl
@[simp] theorem State.setCtxState_core (s : State) (x : CtxId) (v : Nat) : (s.setCtxState x v).core = s.core := rfl
@[simp] theorem State.setCtxState_fab (s : State) (x : CtxId) (v : Nat) : (s.setCtxState x v).fab = s.fab := rfl
@[simp] theorem State.setCtxState_plt (s : State) (x : CtxId) (v : Nat) : (s.setCtxState x v).plt = s.plt := rfl
@[simp] theorem State.setCtxState_host (s : State) (x : CtxId) (v : Nat) : (s.setCtxState x v).host = s.host := rfl
@[simp] theorem State.setCtxState_obs (s : State) (x : CtxId) (v : Nat) : (s.setCtxState x v).obs = s.obs := rfl
@[simp] theorem State.setCtxState_int (s : State) (x : CtxId) (v : Nat) : (s.setCtxState x v).int = s.int := rfl
@[simp] theorem State.setCtxState_gen (s : State) (x : CtxId) (v : Nat) : (s.setCtxState x v).gen = s.gen := rfl
@[simp] theorem State.setCtxState_pins (s : State) (x : CtxId) (v : Nat) : (s.setCtxState x v).pins = s.pins := rfl
@[simp] theorem State.setCtxState_pow (s : State) (x : CtxId) (v : Nat) : (s.setCtxState x v).pow = s.pow := rfl
@[simp] theorem State.setCtxState_keep (s : State) (x : CtxId) (v : Nat) : (s.setCtxState x v).keep = s.keep := rfl
@[simp] theorem State.setCtxState_svc (s : State) (x : CtxId) (v : Nat) : (s.setCtxState x v).svc = s.svc := rfl
@[simp] theorem State.setCtxState_moved (s : State) (x : CtxId) (v : Nat) : (s.setCtxState x v).moved = s.moved := rfl
@[simp] theorem State.setCtxState_flash (s : State) (x : CtxId) (v : Nat) : (s.setCtxState x v).flash = s.flash := rfl
@[simp] theorem State.setCtxState_fw (s : State) (x : CtxId) (v : Nat) : (s.setCtxState x v).fw = s.fw := rfl
@[simp] theorem State.setCtxState_mapbuf (s : State) (x : CtxId) (v : Nat) : (s.setCtxState x v).mapbuf = s.mapbuf := rfl
@[simp] theorem State.setCtxState_time (s : State) (x : CtxId) (v : Nat) : (s.setCtxState x v).time = s.time := rfl
@[simp] theorem State.setCtxState_events (s : State) (x : CtxId) (v : Nat) : (s.setCtxState x v).events = s.events := rfl
@[simp] theorem State.setCtxState_out (s : State) (x : CtxId) (v : Nat) : (s.setCtxState x v).out = s.out := rfl
@[simp] theorem State.setCtxState_free (s : State) (x : CtxId) (v : Nat) : (s.setCtxState x v).free = s.free := rfl

/-! ## What `setCtx` leaves alone -/

@[simp] theorem State.setCtx_pending (s : State) (x : CtxId) (c : Ctx) : (s.setCtx x c).pending = s.pending := rfl
@[simp] theorem State.setCtx_mem (s : State) (x : CtxId) (c : Ctx) : (s.setCtx x c).mem = s.mem := rfl
@[simp] theorem State.setCtx_stores (s : State) (x : CtxId) (c : Ctx) : (s.setCtx x c).stores = s.stores := rfl
@[simp] theorem State.setCtx_rim (s : State) (x : CtxId) (c : Ctx) : (s.setCtx x c).rim = s.rim := rfl
@[simp] theorem State.setCtx_regs (s : State) (x : CtxId) (c : Ctx) : (s.setCtx x c).regs = s.regs := rfl
@[simp] theorem State.setCtx_fab (s : State) (x : CtxId) (c : Ctx) : (s.setCtx x c).fab = s.fab := rfl
@[simp] theorem State.setCtx_plt (s : State) (x : CtxId) (c : Ctx) : (s.setCtx x c).plt = s.plt := rfl
@[simp] theorem State.setCtx_host (s : State) (x : CtxId) (c : Ctx) : (s.setCtx x c).host = s.host := rfl
@[simp] theorem State.setCtx_obs (s : State) (x : CtxId) (c : Ctx) : (s.setCtx x c).obs = s.obs := rfl
@[simp] theorem State.setCtx_int (s : State) (x : CtxId) (c : Ctx) : (s.setCtx x c).int = s.int := rfl
@[simp] theorem State.setCtx_gen (s : State) (x : CtxId) (c : Ctx) : (s.setCtx x c).gen = s.gen := rfl
@[simp] theorem State.setCtx_pins (s : State) (x : CtxId) (c : Ctx) : (s.setCtx x c).pins = s.pins := rfl
@[simp] theorem State.setCtx_pow (s : State) (x : CtxId) (c : Ctx) : (s.setCtx x c).pow = s.pow := rfl
@[simp] theorem State.setCtx_keep (s : State) (x : CtxId) (c : Ctx) : (s.setCtx x c).keep = s.keep := rfl
@[simp] theorem State.setCtx_svc (s : State) (x : CtxId) (c : Ctx) : (s.setCtx x c).svc = s.svc := rfl
@[simp] theorem State.setCtx_moved (s : State) (x : CtxId) (c : Ctx) : (s.setCtx x c).moved = s.moved := rfl
@[simp] theorem State.setCtx_flash (s : State) (x : CtxId) (c : Ctx) : (s.setCtx x c).flash = s.flash := rfl
@[simp] theorem State.setCtx_fw (s : State) (x : CtxId) (c : Ctx) : (s.setCtx x c).fw = s.fw := rfl
@[simp] theorem State.setCtx_mapbuf (s : State) (x : CtxId) (c : Ctx) : (s.setCtx x c).mapbuf = s.mapbuf := rfl
@[simp] theorem State.setCtx_time (s : State) (x : CtxId) (c : Ctx) : (s.setCtx x c).time = s.time := rfl
@[simp] theorem State.setCtx_events (s : State) (x : CtxId) (c : Ctx) : (s.setCtx x c).events = s.events := rfl
@[simp] theorem State.setCtx_out (s : State) (x : CtxId) (c : Ctx) : (s.setCtx x c).out = s.out := rfl
@[simp] theorem State.setCtx_free (s : State) (x : CtxId) (c : Ctx) : (s.setCtx x c).free = s.free := rfl

/-! ## What `setWait` leaves alone -/

@[simp] theorem State.setWait_pending (s : State) (x : CtxId) (w : Option Wait) : (s.setWait x w).pending = s.pending := rfl
@[simp] theorem State.setWait_mem (s : State) (x : CtxId) (w : Option Wait) : (s.setWait x w).mem = s.mem := rfl
@[simp] theorem State.setWait_stores (s : State) (x : CtxId) (w : Option Wait) : (s.setWait x w).stores = s.stores := rfl
@[simp] theorem State.setWait_rim (s : State) (x : CtxId) (w : Option Wait) : (s.setWait x w).rim = s.rim := rfl
@[simp] theorem State.setWait_regs (s : State) (x : CtxId) (w : Option Wait) : (s.setWait x w).regs = s.regs := rfl
@[simp] theorem State.setWait_fab (s : State) (x : CtxId) (w : Option Wait) : (s.setWait x w).fab = s.fab := rfl
@[simp] theorem State.setWait_plt (s : State) (x : CtxId) (w : Option Wait) : (s.setWait x w).plt = s.plt := rfl
@[simp] theorem State.setWait_host (s : State) (x : CtxId) (w : Option Wait) : (s.setWait x w).host = s.host := rfl
@[simp] theorem State.setWait_obs (s : State) (x : CtxId) (w : Option Wait) : (s.setWait x w).obs = s.obs := rfl
@[simp] theorem State.setWait_int (s : State) (x : CtxId) (w : Option Wait) : (s.setWait x w).int = s.int := rfl
@[simp] theorem State.setWait_gen (s : State) (x : CtxId) (w : Option Wait) : (s.setWait x w).gen = s.gen := rfl
@[simp] theorem State.setWait_pins (s : State) (x : CtxId) (w : Option Wait) : (s.setWait x w).pins = s.pins := rfl
@[simp] theorem State.setWait_pow (s : State) (x : CtxId) (w : Option Wait) : (s.setWait x w).pow = s.pow := rfl
@[simp] theorem State.setWait_keep (s : State) (x : CtxId) (w : Option Wait) : (s.setWait x w).keep = s.keep := rfl
@[simp] theorem State.setWait_svc (s : State) (x : CtxId) (w : Option Wait) : (s.setWait x w).svc = s.svc := rfl
@[simp] theorem State.setWait_moved (s : State) (x : CtxId) (w : Option Wait) : (s.setWait x w).moved = s.moved := rfl
@[simp] theorem State.setWait_flash (s : State) (x : CtxId) (w : Option Wait) : (s.setWait x w).flash = s.flash := rfl
@[simp] theorem State.setWait_fw (s : State) (x : CtxId) (w : Option Wait) : (s.setWait x w).fw = s.fw := rfl
@[simp] theorem State.setWait_mapbuf (s : State) (x : CtxId) (w : Option Wait) : (s.setWait x w).mapbuf = s.mapbuf := rfl
@[simp] theorem State.setWait_time (s : State) (x : CtxId) (w : Option Wait) : (s.setWait x w).time = s.time := rfl
@[simp] theorem State.setWait_events (s : State) (x : CtxId) (w : Option Wait) : (s.setWait x w).events = s.events := rfl
@[simp] theorem State.setWait_out (s : State) (x : CtxId) (w : Option Wait) : (s.setWait x w).out = s.out := rfl
@[simp] theorem State.setWait_free (s : State) (x : CtxId) (w : Option Wait) : (s.setWait x w).free = s.free := rfl

/-! ## What `setTile` leaves alone -/

@[simp] theorem State.setTile_pending (s : State) (x : CtxId) (t : T4) (d : Desc) : (s.setTile x t d).pending = s.pending := rfl
@[simp] theorem State.setTile_mem (s : State) (x : CtxId) (t : T4) (d : Desc) : (s.setTile x t d).mem = s.mem := rfl
@[simp] theorem State.setTile_stores (s : State) (x : CtxId) (t : T4) (d : Desc) : (s.setTile x t d).stores = s.stores := rfl
@[simp] theorem State.setTile_rim (s : State) (x : CtxId) (t : T4) (d : Desc) : (s.setTile x t d).rim = s.rim := rfl
@[simp] theorem State.setTile_regs (s : State) (x : CtxId) (t : T4) (d : Desc) : (s.setTile x t d).regs = s.regs := rfl
@[simp] theorem State.setTile_fab (s : State) (x : CtxId) (t : T4) (d : Desc) : (s.setTile x t d).fab = s.fab := rfl
@[simp] theorem State.setTile_plt (s : State) (x : CtxId) (t : T4) (d : Desc) : (s.setTile x t d).plt = s.plt := rfl
@[simp] theorem State.setTile_host (s : State) (x : CtxId) (t : T4) (d : Desc) : (s.setTile x t d).host = s.host := rfl
@[simp] theorem State.setTile_obs (s : State) (x : CtxId) (t : T4) (d : Desc) : (s.setTile x t d).obs = s.obs := rfl
@[simp] theorem State.setTile_int (s : State) (x : CtxId) (t : T4) (d : Desc) : (s.setTile x t d).int = s.int := rfl
@[simp] theorem State.setTile_gen (s : State) (x : CtxId) (t : T4) (d : Desc) : (s.setTile x t d).gen = s.gen := rfl
@[simp] theorem State.setTile_pins (s : State) (x : CtxId) (t : T4) (d : Desc) : (s.setTile x t d).pins = s.pins := rfl
@[simp] theorem State.setTile_pow (s : State) (x : CtxId) (t : T4) (d : Desc) : (s.setTile x t d).pow = s.pow := rfl
@[simp] theorem State.setTile_keep (s : State) (x : CtxId) (t : T4) (d : Desc) : (s.setTile x t d).keep = s.keep := rfl
@[simp] theorem State.setTile_svc (s : State) (x : CtxId) (t : T4) (d : Desc) : (s.setTile x t d).svc = s.svc := rfl
@[simp] theorem State.setTile_moved (s : State) (x : CtxId) (t : T4) (d : Desc) : (s.setTile x t d).moved = s.moved := rfl
@[simp] theorem State.setTile_flash (s : State) (x : CtxId) (t : T4) (d : Desc) : (s.setTile x t d).flash = s.flash := rfl
@[simp] theorem State.setTile_fw (s : State) (x : CtxId) (t : T4) (d : Desc) : (s.setTile x t d).fw = s.fw := rfl
@[simp] theorem State.setTile_mapbuf (s : State) (x : CtxId) (t : T4) (d : Desc) : (s.setTile x t d).mapbuf = s.mapbuf := rfl
@[simp] theorem State.setTile_time (s : State) (x : CtxId) (t : T4) (d : Desc) : (s.setTile x t d).time = s.time := rfl
@[simp] theorem State.setTile_events (s : State) (x : CtxId) (t : T4) (d : Desc) : (s.setTile x t d).events = s.events := rfl
@[simp] theorem State.setTile_out (s : State) (x : CtxId) (t : T4) (d : Desc) : (s.setTile x t d).out = s.out := rfl
@[simp] theorem State.setTile_free (s : State) (x : CtxId) (t : T4) (d : Desc) : (s.setTile x t d).free = s.free := rfl

/-! ## What `setSlot` leaves alone -/

@[simp] theorem State.setSlot_pending (s : State) (c : Fin 256) (i : A3) (v : Slot) : (s.setSlot c i v).pending = s.pending := rfl
@[simp] theorem State.setSlot_mem (s : State) (c : Fin 256) (i : A3) (v : Slot) : (s.setSlot c i v).mem = s.mem := rfl
@[simp] theorem State.setSlot_stores (s : State) (c : Fin 256) (i : A3) (v : Slot) : (s.setSlot c i v).stores = s.stores := rfl
@[simp] theorem State.setSlot_rim (s : State) (c : Fin 256) (i : A3) (v : Slot) : (s.setSlot c i v).rim = s.rim := rfl
@[simp] theorem State.setSlot_regs (s : State) (c : Fin 256) (i : A3) (v : Slot) : (s.setSlot c i v).regs = s.regs := rfl
@[simp] theorem State.setSlot_fab (s : State) (c : Fin 256) (i : A3) (v : Slot) : (s.setSlot c i v).fab = s.fab := rfl
@[simp] theorem State.setSlot_plt (s : State) (c : Fin 256) (i : A3) (v : Slot) : (s.setSlot c i v).plt = s.plt := rfl
@[simp] theorem State.setSlot_host (s : State) (c : Fin 256) (i : A3) (v : Slot) : (s.setSlot c i v).host = s.host := rfl
@[simp] theorem State.setSlot_obs (s : State) (c : Fin 256) (i : A3) (v : Slot) : (s.setSlot c i v).obs = s.obs := rfl
@[simp] theorem State.setSlot_int (s : State) (c : Fin 256) (i : A3) (v : Slot) : (s.setSlot c i v).int = s.int := rfl
@[simp] theorem State.setSlot_gen (s : State) (c : Fin 256) (i : A3) (v : Slot) : (s.setSlot c i v).gen = s.gen := rfl
@[simp] theorem State.setSlot_pins (s : State) (c : Fin 256) (i : A3) (v : Slot) : (s.setSlot c i v).pins = s.pins := rfl
@[simp] theorem State.setSlot_pow (s : State) (c : Fin 256) (i : A3) (v : Slot) : (s.setSlot c i v).pow = s.pow := rfl
@[simp] theorem State.setSlot_keep (s : State) (c : Fin 256) (i : A3) (v : Slot) : (s.setSlot c i v).keep = s.keep := rfl
@[simp] theorem State.setSlot_svc (s : State) (c : Fin 256) (i : A3) (v : Slot) : (s.setSlot c i v).svc = s.svc := rfl
@[simp] theorem State.setSlot_moved (s : State) (c : Fin 256) (i : A3) (v : Slot) : (s.setSlot c i v).moved = s.moved := rfl
@[simp] theorem State.setSlot_flash (s : State) (c : Fin 256) (i : A3) (v : Slot) : (s.setSlot c i v).flash = s.flash := rfl
@[simp] theorem State.setSlot_fw (s : State) (c : Fin 256) (i : A3) (v : Slot) : (s.setSlot c i v).fw = s.fw := rfl
@[simp] theorem State.setSlot_mapbuf (s : State) (c : Fin 256) (i : A3) (v : Slot) : (s.setSlot c i v).mapbuf = s.mapbuf := rfl
@[simp] theorem State.setSlot_time (s : State) (c : Fin 256) (i : A3) (v : Slot) : (s.setSlot c i v).time = s.time := rfl
@[simp] theorem State.setSlot_events (s : State) (c : Fin 256) (i : A3) (v : Slot) : (s.setSlot c i v).events = s.events := rfl
@[simp] theorem State.setSlot_out (s : State) (c : Fin 256) (i : A3) (v : Slot) : (s.setSlot c i v).out = s.out := rfl
@[simp] theorem State.setSlot_free (s : State) (c : Fin 256) (i : A3) (v : Slot) : (s.setSlot c i v).free = s.free := rfl

/-! ## What `putByte` leaves alone -/

@[simp] theorem State.putByte_pending (s : State) (a : Nat) (b : Byte) : (s.putByte a b).pending = s.pending := rfl
@[simp] theorem State.putByte_mem (s : State) (a : Nat) (b : Byte) : (s.putByte a b).mem = s.mem := rfl
@[simp] theorem State.putByte_rim (s : State) (a : Nat) (b : Byte) : (s.putByte a b).rim = s.rim := rfl
@[simp] theorem State.putByte_regs (s : State) (a : Nat) (b : Byte) : (s.putByte a b).regs = s.regs := rfl
@[simp] theorem State.putByte_core (s : State) (a : Nat) (b : Byte) : (s.putByte a b).core = s.core := rfl
@[simp] theorem State.putByte_fab (s : State) (a : Nat) (b : Byte) : (s.putByte a b).fab = s.fab := rfl
@[simp] theorem State.putByte_plt (s : State) (a : Nat) (b : Byte) : (s.putByte a b).plt = s.plt := rfl
@[simp] theorem State.putByte_host (s : State) (a : Nat) (b : Byte) : (s.putByte a b).host = s.host := rfl
@[simp] theorem State.putByte_obs (s : State) (a : Nat) (b : Byte) : (s.putByte a b).obs = s.obs := rfl
@[simp] theorem State.putByte_int (s : State) (a : Nat) (b : Byte) : (s.putByte a b).int = s.int := rfl
@[simp] theorem State.putByte_gen (s : State) (a : Nat) (b : Byte) : (s.putByte a b).gen = s.gen := rfl
@[simp] theorem State.putByte_pins (s : State) (a : Nat) (b : Byte) : (s.putByte a b).pins = s.pins := rfl
@[simp] theorem State.putByte_pow (s : State) (a : Nat) (b : Byte) : (s.putByte a b).pow = s.pow := rfl
@[simp] theorem State.putByte_keep (s : State) (a : Nat) (b : Byte) : (s.putByte a b).keep = s.keep := rfl
@[simp] theorem State.putByte_svc (s : State) (a : Nat) (b : Byte) : (s.putByte a b).svc = s.svc := rfl
@[simp] theorem State.putByte_moved (s : State) (a : Nat) (b : Byte) : (s.putByte a b).moved = s.moved := rfl
@[simp] theorem State.putByte_flash (s : State) (a : Nat) (b : Byte) : (s.putByte a b).flash = s.flash := rfl
@[simp] theorem State.putByte_fw (s : State) (a : Nat) (b : Byte) : (s.putByte a b).fw = s.fw := rfl
@[simp] theorem State.putByte_mapbuf (s : State) (a : Nat) (b : Byte) : (s.putByte a b).mapbuf = s.mapbuf := rfl
@[simp] theorem State.putByte_time (s : State) (a : Nat) (b : Byte) : (s.putByte a b).time = s.time := rfl
@[simp] theorem State.putByte_events (s : State) (a : Nat) (b : Byte) : (s.putByte a b).events = s.events := rfl
@[simp] theorem State.putByte_out (s : State) (a : Nat) (b : Byte) : (s.putByte a b).out = s.out := rfl
@[simp] theorem State.putByte_free (s : State) (a : Nat) (b : Byte) : (s.putByte a b).free = s.free := rfl

/-! ## What `setPow` leaves alone -/

@[simp] theorem State.setPow_pending (s : State) (f : PowerState → PowerState) : (s.setPow f).pending = s.pending := rfl
@[simp] theorem State.setPow_mem (s : State) (f : PowerState → PowerState) : (s.setPow f).mem = s.mem := rfl
@[simp] theorem State.setPow_stores (s : State) (f : PowerState → PowerState) : (s.setPow f).stores = s.stores := rfl
@[simp] theorem State.setPow_rim (s : State) (f : PowerState → PowerState) : (s.setPow f).rim = s.rim := rfl
@[simp] theorem State.setPow_regs (s : State) (f : PowerState → PowerState) : (s.setPow f).regs = s.regs := rfl
@[simp] theorem State.setPow_core (s : State) (f : PowerState → PowerState) : (s.setPow f).core = s.core := rfl
@[simp] theorem State.setPow_fab (s : State) (f : PowerState → PowerState) : (s.setPow f).fab = s.fab := rfl
@[simp] theorem State.setPow_plt (s : State) (f : PowerState → PowerState) : (s.setPow f).plt = s.plt := rfl
@[simp] theorem State.setPow_host (s : State) (f : PowerState → PowerState) : (s.setPow f).host = s.host := rfl
@[simp] theorem State.setPow_obs (s : State) (f : PowerState → PowerState) : (s.setPow f).obs = s.obs := rfl
@[simp] theorem State.setPow_int (s : State) (f : PowerState → PowerState) : (s.setPow f).int = s.int := rfl
@[simp] theorem State.setPow_gen (s : State) (f : PowerState → PowerState) : (s.setPow f).gen = s.gen := rfl
@[simp] theorem State.setPow_pins (s : State) (f : PowerState → PowerState) : (s.setPow f).pins = s.pins := rfl
@[simp] theorem State.setPow_keep (s : State) (f : PowerState → PowerState) : (s.setPow f).keep = s.keep := rfl
@[simp] theorem State.setPow_svc (s : State) (f : PowerState → PowerState) : (s.setPow f).svc = s.svc := rfl
@[simp] theorem State.setPow_moved (s : State) (f : PowerState → PowerState) : (s.setPow f).moved = s.moved := rfl
@[simp] theorem State.setPow_flash (s : State) (f : PowerState → PowerState) : (s.setPow f).flash = s.flash := rfl
@[simp] theorem State.setPow_fw (s : State) (f : PowerState → PowerState) : (s.setPow f).fw = s.fw := rfl
@[simp] theorem State.setPow_mapbuf (s : State) (f : PowerState → PowerState) : (s.setPow f).mapbuf = s.mapbuf := rfl
@[simp] theorem State.setPow_time (s : State) (f : PowerState → PowerState) : (s.setPow f).time = s.time := rfl
@[simp] theorem State.setPow_events (s : State) (f : PowerState → PowerState) : (s.setPow f).events = s.events := rfl
@[simp] theorem State.setPow_out (s : State) (f : PowerState → PowerState) : (s.setPow f).out = s.out := rfl
@[simp] theorem State.setPow_free (s : State) (f : PowerState → PowerState) : (s.setPow f).free = s.free := rfl

/-! ## What `tally` leaves alone -/

@[simp] theorem State.tally_pending (s : State) (f : StepCnt → StepCnt) : (s.tally f).pending = s.pending := rfl
@[simp] theorem State.tally_mem (s : State) (f : StepCnt → StepCnt) : (s.tally f).mem = s.mem := rfl
@[simp] theorem State.tally_stores (s : State) (f : StepCnt → StepCnt) : (s.tally f).stores = s.stores := rfl
@[simp] theorem State.tally_rim (s : State) (f : StepCnt → StepCnt) : (s.tally f).rim = s.rim := rfl
@[simp] theorem State.tally_regs (s : State) (f : StepCnt → StepCnt) : (s.tally f).regs = s.regs := rfl
@[simp] theorem State.tally_core (s : State) (f : StepCnt → StepCnt) : (s.tally f).core = s.core := rfl
@[simp] theorem State.tally_fab (s : State) (f : StepCnt → StepCnt) : (s.tally f).fab = s.fab := rfl
@[simp] theorem State.tally_plt (s : State) (f : StepCnt → StepCnt) : (s.tally f).plt = s.plt := rfl
@[simp] theorem State.tally_host (s : State) (f : StepCnt → StepCnt) : (s.tally f).host = s.host := rfl
@[simp] theorem State.tally_obs (s : State) (f : StepCnt → StepCnt) : (s.tally f).obs = s.obs := rfl
@[simp] theorem State.tally_int (s : State) (f : StepCnt → StepCnt) : (s.tally f).int = s.int := rfl
@[simp] theorem State.tally_gen (s : State) (f : StepCnt → StepCnt) : (s.tally f).gen = s.gen := rfl
@[simp] theorem State.tally_pins (s : State) (f : StepCnt → StepCnt) : (s.tally f).pins = s.pins := rfl
@[simp] theorem State.tally_pow (s : State) (f : StepCnt → StepCnt) : (s.tally f).pow = s.pow := rfl
@[simp] theorem State.tally_keep (s : State) (f : StepCnt → StepCnt) : (s.tally f).keep = s.keep := rfl
@[simp] theorem State.tally_moved (s : State) (f : StepCnt → StepCnt) : (s.tally f).moved = s.moved := rfl
@[simp] theorem State.tally_flash (s : State) (f : StepCnt → StepCnt) : (s.tally f).flash = s.flash := rfl
@[simp] theorem State.tally_fw (s : State) (f : StepCnt → StepCnt) : (s.tally f).fw = s.fw := rfl
@[simp] theorem State.tally_mapbuf (s : State) (f : StepCnt → StepCnt) : (s.tally f).mapbuf = s.mapbuf := rfl
@[simp] theorem State.tally_time (s : State) (f : StepCnt → StepCnt) : (s.tally f).time = s.time := rfl
@[simp] theorem State.tally_events (s : State) (f : StepCnt → StepCnt) : (s.tally f).events = s.events := rfl
@[simp] theorem State.tally_out (s : State) (f : StepCnt → StepCnt) : (s.tally f).out = s.out := rfl
@[simp] theorem State.tally_free (s : State) (f : StepCnt → StepCnt) : (s.tally f).free = s.free := rfl

/-! ## What `answer` leaves alone -/

@[simp] theorem State.answer_pending (s : State) (o : Out) : (s.answer o).pending = s.pending := rfl
@[simp] theorem State.answer_mem (s : State) (o : Out) : (s.answer o).mem = s.mem := rfl
@[simp] theorem State.answer_stores (s : State) (o : Out) : (s.answer o).stores = s.stores := rfl
@[simp] theorem State.answer_rim (s : State) (o : Out) : (s.answer o).rim = s.rim := rfl
@[simp] theorem State.answer_regs (s : State) (o : Out) : (s.answer o).regs = s.regs := rfl
@[simp] theorem State.answer_core (s : State) (o : Out) : (s.answer o).core = s.core := rfl
@[simp] theorem State.answer_fab (s : State) (o : Out) : (s.answer o).fab = s.fab := rfl
@[simp] theorem State.answer_plt (s : State) (o : Out) : (s.answer o).plt = s.plt := rfl
@[simp] theorem State.answer_host (s : State) (o : Out) : (s.answer o).host = s.host := rfl
@[simp] theorem State.answer_obs (s : State) (o : Out) : (s.answer o).obs = s.obs := rfl
@[simp] theorem State.answer_int (s : State) (o : Out) : (s.answer o).int = s.int := rfl
@[simp] theorem State.answer_gen (s : State) (o : Out) : (s.answer o).gen = s.gen := rfl
@[simp] theorem State.answer_pins (s : State) (o : Out) : (s.answer o).pins = s.pins := rfl
@[simp] theorem State.answer_pow (s : State) (o : Out) : (s.answer o).pow = s.pow := rfl
@[simp] theorem State.answer_keep (s : State) (o : Out) : (s.answer o).keep = s.keep := rfl
@[simp] theorem State.answer_svc (s : State) (o : Out) : (s.answer o).svc = s.svc := rfl
@[simp] theorem State.answer_moved (s : State) (o : Out) : (s.answer o).moved = s.moved := rfl
@[simp] theorem State.answer_flash (s : State) (o : Out) : (s.answer o).flash = s.flash := rfl
@[simp] theorem State.answer_fw (s : State) (o : Out) : (s.answer o).fw = s.fw := rfl
@[simp] theorem State.answer_mapbuf (s : State) (o : Out) : (s.answer o).mapbuf = s.mapbuf := rfl
@[simp] theorem State.answer_time (s : State) (o : Out) : (s.answer o).time = s.time := rfl
@[simp] theorem State.answer_events (s : State) (o : Out) : (s.answer o).events = s.events := rfl
@[simp] theorem State.answer_free (s : State) (o : Out) : (s.answer o).free = s.free := rfl

/-! ## What `setSpoke` leaves alone -/

@[simp] theorem State.setSpoke_pending (s : State) (p : SpokeId) (v : Spoke) : (s.setSpoke p v).pending = s.pending := rfl
@[simp] theorem State.setSpoke_mem (s : State) (p : SpokeId) (v : Spoke) : (s.setSpoke p v).mem = s.mem := rfl
@[simp] theorem State.setSpoke_stores (s : State) (p : SpokeId) (v : Spoke) : (s.setSpoke p v).stores = s.stores := rfl
@[simp] theorem State.setSpoke_rim (s : State) (p : SpokeId) (v : Spoke) : (s.setSpoke p v).rim = s.rim := rfl
@[simp] theorem State.setSpoke_regs (s : State) (p : SpokeId) (v : Spoke) : (s.setSpoke p v).regs = s.regs := rfl
@[simp] theorem State.setSpoke_core (s : State) (p : SpokeId) (v : Spoke) : (s.setSpoke p v).core = s.core := rfl
@[simp] theorem State.setSpoke_plt (s : State) (p : SpokeId) (v : Spoke) : (s.setSpoke p v).plt = s.plt := rfl
@[simp] theorem State.setSpoke_host (s : State) (p : SpokeId) (v : Spoke) : (s.setSpoke p v).host = s.host := rfl
@[simp] theorem State.setSpoke_obs (s : State) (p : SpokeId) (v : Spoke) : (s.setSpoke p v).obs = s.obs := rfl
@[simp] theorem State.setSpoke_int (s : State) (p : SpokeId) (v : Spoke) : (s.setSpoke p v).int = s.int := rfl
@[simp] theorem State.setSpoke_gen (s : State) (p : SpokeId) (v : Spoke) : (s.setSpoke p v).gen = s.gen := rfl
@[simp] theorem State.setSpoke_pins (s : State) (p : SpokeId) (v : Spoke) : (s.setSpoke p v).pins = s.pins := rfl
@[simp] theorem State.setSpoke_pow (s : State) (p : SpokeId) (v : Spoke) : (s.setSpoke p v).pow = s.pow := rfl
@[simp] theorem State.setSpoke_keep (s : State) (p : SpokeId) (v : Spoke) : (s.setSpoke p v).keep = s.keep := rfl
@[simp] theorem State.setSpoke_svc (s : State) (p : SpokeId) (v : Spoke) : (s.setSpoke p v).svc = s.svc := rfl
@[simp] theorem State.setSpoke_moved (s : State) (p : SpokeId) (v : Spoke) : (s.setSpoke p v).moved = s.moved := rfl
@[simp] theorem State.setSpoke_flash (s : State) (p : SpokeId) (v : Spoke) : (s.setSpoke p v).flash = s.flash := rfl
@[simp] theorem State.setSpoke_fw (s : State) (p : SpokeId) (v : Spoke) : (s.setSpoke p v).fw = s.fw := rfl
@[simp] theorem State.setSpoke_mapbuf (s : State) (p : SpokeId) (v : Spoke) : (s.setSpoke p v).mapbuf = s.mapbuf := rfl
@[simp] theorem State.setSpoke_time (s : State) (p : SpokeId) (v : Spoke) : (s.setSpoke p v).time = s.time := rfl
@[simp] theorem State.setSpoke_events (s : State) (p : SpokeId) (v : Spoke) : (s.setSpoke p v).events = s.events := rfl
@[simp] theorem State.setSpoke_out (s : State) (p : SpokeId) (v : Spoke) : (s.setSpoke p v).out = s.out := rfl
@[simp] theorem State.setSpoke_free (s : State) (p : SpokeId) (v : Spoke) : (s.setSpoke p v).free = s.free := rfl

/-! ## What `setLink` leaves alone -/

@[simp] theorem State.setLink_pending (s : State) (p : SpokeId) (v : Nat) : (s.setLink p v).pending = s.pending := rfl
@[simp] theorem State.setLink_mem (s : State) (p : SpokeId) (v : Nat) : (s.setLink p v).mem = s.mem := rfl
@[simp] theorem State.setLink_stores (s : State) (p : SpokeId) (v : Nat) : (s.setLink p v).stores = s.stores := rfl
@[simp] theorem State.setLink_rim (s : State) (p : SpokeId) (v : Nat) : (s.setLink p v).rim = s.rim := rfl
@[simp] theorem State.setLink_core (s : State) (p : SpokeId) (v : Nat) : (s.setLink p v).core = s.core := rfl
@[simp] theorem State.setLink_fab (s : State) (p : SpokeId) (v : Nat) : (s.setLink p v).fab = s.fab := rfl
@[simp] theorem State.setLink_plt (s : State) (p : SpokeId) (v : Nat) : (s.setLink p v).plt = s.plt := rfl
@[simp] theorem State.setLink_host (s : State) (p : SpokeId) (v : Nat) : (s.setLink p v).host = s.host := rfl
@[simp] theorem State.setLink_obs (s : State) (p : SpokeId) (v : Nat) : (s.setLink p v).obs = s.obs := rfl
@[simp] theorem State.setLink_int (s : State) (p : SpokeId) (v : Nat) : (s.setLink p v).int = s.int := rfl
@[simp] theorem State.setLink_gen (s : State) (p : SpokeId) (v : Nat) : (s.setLink p v).gen = s.gen := rfl
@[simp] theorem State.setLink_pins (s : State) (p : SpokeId) (v : Nat) : (s.setLink p v).pins = s.pins := rfl
@[simp] theorem State.setLink_pow (s : State) (p : SpokeId) (v : Nat) : (s.setLink p v).pow = s.pow := rfl
@[simp] theorem State.setLink_keep (s : State) (p : SpokeId) (v : Nat) : (s.setLink p v).keep = s.keep := rfl
@[simp] theorem State.setLink_svc (s : State) (p : SpokeId) (v : Nat) : (s.setLink p v).svc = s.svc := rfl
@[simp] theorem State.setLink_moved (s : State) (p : SpokeId) (v : Nat) : (s.setLink p v).moved = s.moved := rfl
@[simp] theorem State.setLink_flash (s : State) (p : SpokeId) (v : Nat) : (s.setLink p v).flash = s.flash := rfl
@[simp] theorem State.setLink_fw (s : State) (p : SpokeId) (v : Nat) : (s.setLink p v).fw = s.fw := rfl
@[simp] theorem State.setLink_mapbuf (s : State) (p : SpokeId) (v : Nat) : (s.setLink p v).mapbuf = s.mapbuf := rfl
@[simp] theorem State.setLink_time (s : State) (p : SpokeId) (v : Nat) : (s.setLink p v).time = s.time := rfl
@[simp] theorem State.setLink_events (s : State) (p : SpokeId) (v : Nat) : (s.setLink p v).events = s.events := rfl
@[simp] theorem State.setLink_out (s : State) (p : SpokeId) (v : Nat) : (s.setLink p v).out = s.out := rfl
@[simp] theorem State.setLink_free (s : State) (p : SpokeId) (v : Nat) : (s.setLink p v).free = s.free := rfl

/-! ## What `setWindow` leaves alone -/

@[simp] theorem State.setWindow_pending (s : State) (w : Fin 256) (v : IssueWin) : (s.setWindow w v).pending = s.pending := rfl
@[simp] theorem State.setWindow_mem (s : State) (w : Fin 256) (v : IssueWin) : (s.setWindow w v).mem = s.mem := rfl
@[simp] theorem State.setWindow_stores (s : State) (w : Fin 256) (v : IssueWin) : (s.setWindow w v).stores = s.stores := rfl
@[simp] theorem State.setWindow_rim (s : State) (w : Fin 256) (v : IssueWin) : (s.setWindow w v).rim = s.rim := rfl
@[simp] theorem State.setWindow_regs (s : State) (w : Fin 256) (v : IssueWin) : (s.setWindow w v).regs = s.regs := rfl
@[simp] theorem State.setWindow_core (s : State) (w : Fin 256) (v : IssueWin) : (s.setWindow w v).core = s.core := rfl
@[simp] theorem State.setWindow_fab (s : State) (w : Fin 256) (v : IssueWin) : (s.setWindow w v).fab = s.fab := rfl
@[simp] theorem State.setWindow_plt (s : State) (w : Fin 256) (v : IssueWin) : (s.setWindow w v).plt = s.plt := rfl
@[simp] theorem State.setWindow_obs (s : State) (w : Fin 256) (v : IssueWin) : (s.setWindow w v).obs = s.obs := rfl
@[simp] theorem State.setWindow_int (s : State) (w : Fin 256) (v : IssueWin) : (s.setWindow w v).int = s.int := rfl
@[simp] theorem State.setWindow_gen (s : State) (w : Fin 256) (v : IssueWin) : (s.setWindow w v).gen = s.gen := rfl
@[simp] theorem State.setWindow_pins (s : State) (w : Fin 256) (v : IssueWin) : (s.setWindow w v).pins = s.pins := rfl
@[simp] theorem State.setWindow_pow (s : State) (w : Fin 256) (v : IssueWin) : (s.setWindow w v).pow = s.pow := rfl
@[simp] theorem State.setWindow_keep (s : State) (w : Fin 256) (v : IssueWin) : (s.setWindow w v).keep = s.keep := rfl
@[simp] theorem State.setWindow_svc (s : State) (w : Fin 256) (v : IssueWin) : (s.setWindow w v).svc = s.svc := rfl
@[simp] theorem State.setWindow_moved (s : State) (w : Fin 256) (v : IssueWin) : (s.setWindow w v).moved = s.moved := rfl
@[simp] theorem State.setWindow_flash (s : State) (w : Fin 256) (v : IssueWin) : (s.setWindow w v).flash = s.flash := rfl
@[simp] theorem State.setWindow_fw (s : State) (w : Fin 256) (v : IssueWin) : (s.setWindow w v).fw = s.fw := rfl
@[simp] theorem State.setWindow_mapbuf (s : State) (w : Fin 256) (v : IssueWin) : (s.setWindow w v).mapbuf = s.mapbuf := rfl
@[simp] theorem State.setWindow_time (s : State) (w : Fin 256) (v : IssueWin) : (s.setWindow w v).time = s.time := rfl
@[simp] theorem State.setWindow_events (s : State) (w : Fin 256) (v : IssueWin) : (s.setWindow w v).events = s.events := rfl
@[simp] theorem State.setWindow_out (s : State) (w : Fin 256) (v : IssueWin) : (s.setWindow w v).out = s.out := rfl
@[simp] theorem State.setWindow_free (s : State) (w : Fin 256) (v : IssueWin) : (s.setWindow w v).free = s.free := rfl

/-! ## What `setAttempt` leaves alone -/

@[simp] theorem State.setAttempt_pending (s : State) (a : Attempt) : (s.setAttempt a).pending = s.pending := rfl
@[simp] theorem State.setAttempt_mem (s : State) (a : Attempt) : (s.setAttempt a).mem = s.mem := rfl
@[simp] theorem State.setAttempt_stores (s : State) (a : Attempt) : (s.setAttempt a).stores = s.stores := rfl
@[simp] theorem State.setAttempt_rim (s : State) (a : Attempt) : (s.setAttempt a).rim = s.rim := rfl
@[simp] theorem State.setAttempt_regs (s : State) (a : Attempt) : (s.setAttempt a).regs = s.regs := rfl
@[simp] theorem State.setAttempt_core (s : State) (a : Attempt) : (s.setAttempt a).core = s.core := rfl
@[simp] theorem State.setAttempt_fab (s : State) (a : Attempt) : (s.setAttempt a).fab = s.fab := rfl
@[simp] theorem State.setAttempt_host (s : State) (a : Attempt) : (s.setAttempt a).host = s.host := rfl
@[simp] theorem State.setAttempt_obs (s : State) (a : Attempt) : (s.setAttempt a).obs = s.obs := rfl
@[simp] theorem State.setAttempt_int (s : State) (a : Attempt) : (s.setAttempt a).int = s.int := rfl
@[simp] theorem State.setAttempt_gen (s : State) (a : Attempt) : (s.setAttempt a).gen = s.gen := rfl
@[simp] theorem State.setAttempt_pins (s : State) (a : Attempt) : (s.setAttempt a).pins = s.pins := rfl
@[simp] theorem State.setAttempt_pow (s : State) (a : Attempt) : (s.setAttempt a).pow = s.pow := rfl
@[simp] theorem State.setAttempt_keep (s : State) (a : Attempt) : (s.setAttempt a).keep = s.keep := rfl
@[simp] theorem State.setAttempt_svc (s : State) (a : Attempt) : (s.setAttempt a).svc = s.svc := rfl
@[simp] theorem State.setAttempt_moved (s : State) (a : Attempt) : (s.setAttempt a).moved = s.moved := rfl
@[simp] theorem State.setAttempt_flash (s : State) (a : Attempt) : (s.setAttempt a).flash = s.flash := rfl
@[simp] theorem State.setAttempt_fw (s : State) (a : Attempt) : (s.setAttempt a).fw = s.fw := rfl
@[simp] theorem State.setAttempt_mapbuf (s : State) (a : Attempt) : (s.setAttempt a).mapbuf = s.mapbuf := rfl
@[simp] theorem State.setAttempt_time (s : State) (a : Attempt) : (s.setAttempt a).time = s.time := rfl
@[simp] theorem State.setAttempt_events (s : State) (a : Attempt) : (s.setAttempt a).events = s.events := rfl
@[simp] theorem State.setAttempt_out (s : State) (a : Attempt) : (s.setAttempt a).out = s.out := rfl
@[simp] theorem State.setAttempt_free (s : State) (a : Attempt) : (s.setAttempt a).free = s.free := rfl

/-! ## What `advance` leaves alone -/

@[simp] theorem State.advance_pending (s : State) (i : Ins) : (s.advance i).pending = s.pending := rfl
@[simp] theorem State.advance_mem (s : State) (i : Ins) : (s.advance i).mem = s.mem := rfl
@[simp] theorem State.advance_stores (s : State) (i : Ins) : (s.advance i).stores = s.stores := rfl
@[simp] theorem State.advance_rim (s : State) (i : Ins) : (s.advance i).rim = s.rim := rfl
@[simp] theorem State.advance_fab (s : State) (i : Ins) : (s.advance i).fab = s.fab := rfl
@[simp] theorem State.advance_plt (s : State) (i : Ins) : (s.advance i).plt = s.plt := rfl
@[simp] theorem State.advance_host (s : State) (i : Ins) : (s.advance i).host = s.host := rfl
@[simp] theorem State.advance_obs (s : State) (i : Ins) : (s.advance i).obs = s.obs := rfl
@[simp] theorem State.advance_int (s : State) (i : Ins) : (s.advance i).int = s.int := rfl
@[simp] theorem State.advance_gen (s : State) (i : Ins) : (s.advance i).gen = s.gen := rfl
@[simp] theorem State.advance_pins (s : State) (i : Ins) : (s.advance i).pins = s.pins := rfl
@[simp] theorem State.advance_pow (s : State) (i : Ins) : (s.advance i).pow = s.pow := rfl
@[simp] theorem State.advance_keep (s : State) (i : Ins) : (s.advance i).keep = s.keep := rfl
@[simp] theorem State.advance_svc (s : State) (i : Ins) : (s.advance i).svc = s.svc := rfl
@[simp] theorem State.advance_moved (s : State) (i : Ins) : (s.advance i).moved = s.moved := rfl
@[simp] theorem State.advance_flash (s : State) (i : Ins) : (s.advance i).flash = s.flash := rfl
@[simp] theorem State.advance_fw (s : State) (i : Ins) : (s.advance i).fw = s.fw := rfl
@[simp] theorem State.advance_mapbuf (s : State) (i : Ins) : (s.advance i).mapbuf = s.mapbuf := rfl
@[simp] theorem State.advance_time (s : State) (i : Ins) : (s.advance i).time = s.time := rfl
@[simp] theorem State.advance_events (s : State) (i : Ins) : (s.advance i).events = s.events := rfl
@[simp] theorem State.advance_out (s : State) (i : Ins) : (s.advance i).out = s.out := rfl
@[simp] theorem State.advance_free (s : State) (i : Ins) : (s.advance i).free = s.free := rfl

/-! ## What `stall` leaves alone -/

@[simp] theorem State.stall_pending (s : State) (i : Ins) : (s.stall i).pending = s.pending := rfl
@[simp] theorem State.stall_mem (s : State) (i : Ins) : (s.stall i).mem = s.mem := rfl
@[simp] theorem State.stall_stores (s : State) (i : Ins) : (s.stall i).stores = s.stores := rfl
@[simp] theorem State.stall_rim (s : State) (i : Ins) : (s.stall i).rim = s.rim := rfl
@[simp] theorem State.stall_fab (s : State) (i : Ins) : (s.stall i).fab = s.fab := rfl
@[simp] theorem State.stall_plt (s : State) (i : Ins) : (s.stall i).plt = s.plt := rfl
@[simp] theorem State.stall_host (s : State) (i : Ins) : (s.stall i).host = s.host := rfl
@[simp] theorem State.stall_obs (s : State) (i : Ins) : (s.stall i).obs = s.obs := rfl
@[simp] theorem State.stall_int (s : State) (i : Ins) : (s.stall i).int = s.int := rfl
@[simp] theorem State.stall_gen (s : State) (i : Ins) : (s.stall i).gen = s.gen := rfl
@[simp] theorem State.stall_pins (s : State) (i : Ins) : (s.stall i).pins = s.pins := rfl
@[simp] theorem State.stall_pow (s : State) (i : Ins) : (s.stall i).pow = s.pow := rfl
@[simp] theorem State.stall_keep (s : State) (i : Ins) : (s.stall i).keep = s.keep := rfl
@[simp] theorem State.stall_svc (s : State) (i : Ins) : (s.stall i).svc = s.svc := rfl
@[simp] theorem State.stall_moved (s : State) (i : Ins) : (s.stall i).moved = s.moved := rfl
@[simp] theorem State.stall_flash (s : State) (i : Ins) : (s.stall i).flash = s.flash := rfl
@[simp] theorem State.stall_fw (s : State) (i : Ins) : (s.stall i).fw = s.fw := rfl
@[simp] theorem State.stall_mapbuf (s : State) (i : Ins) : (s.stall i).mapbuf = s.mapbuf := rfl
@[simp] theorem State.stall_time (s : State) (i : Ins) : (s.stall i).time = s.time := rfl
@[simp] theorem State.stall_events (s : State) (i : Ins) : (s.stall i).events = s.events := rfl
@[simp] theorem State.stall_out (s : State) (i : Ins) : (s.stall i).out = s.out := rfl
@[simp] theorem State.stall_free (s : State) (i : Ins) : (s.stall i).free = s.free := rfl

/-! ## What `startTile` leaves alone -/

@[simp] theorem State.startTile_pending (s : State) (x : CtxId) : (s.startTile x).pending = s.pending := rfl
@[simp] theorem State.startTile_mem (s : State) (x : CtxId) : (s.startTile x).mem = s.mem := rfl
@[simp] theorem State.startTile_stores (s : State) (x : CtxId) : (s.startTile x).stores = s.stores := rfl
@[simp] theorem State.startTile_rim (s : State) (x : CtxId) : (s.startTile x).rim = s.rim := rfl
@[simp] theorem State.startTile_regs (s : State) (x : CtxId) : (s.startTile x).regs = s.regs := rfl
@[simp] theorem State.startTile_fab (s : State) (x : CtxId) : (s.startTile x).fab = s.fab := rfl
@[simp] theorem State.startTile_plt (s : State) (x : CtxId) : (s.startTile x).plt = s.plt := rfl
@[simp] theorem State.startTile_host (s : State) (x : CtxId) : (s.startTile x).host = s.host := rfl
@[simp] theorem State.startTile_obs (s : State) (x : CtxId) : (s.startTile x).obs = s.obs := rfl
@[simp] theorem State.startTile_int (s : State) (x : CtxId) : (s.startTile x).int = s.int := rfl
@[simp] theorem State.startTile_gen (s : State) (x : CtxId) : (s.startTile x).gen = s.gen := rfl
@[simp] theorem State.startTile_pins (s : State) (x : CtxId) : (s.startTile x).pins = s.pins := rfl
@[simp] theorem State.startTile_pow (s : State) (x : CtxId) : (s.startTile x).pow = s.pow := rfl
@[simp] theorem State.startTile_keep (s : State) (x : CtxId) : (s.startTile x).keep = s.keep := rfl
@[simp] theorem State.startTile_svc (s : State) (x : CtxId) : (s.startTile x).svc = s.svc := rfl
@[simp] theorem State.startTile_moved (s : State) (x : CtxId) : (s.startTile x).moved = s.moved := rfl
@[simp] theorem State.startTile_flash (s : State) (x : CtxId) : (s.startTile x).flash = s.flash := rfl
@[simp] theorem State.startTile_fw (s : State) (x : CtxId) : (s.startTile x).fw = s.fw := rfl
@[simp] theorem State.startTile_mapbuf (s : State) (x : CtxId) : (s.startTile x).mapbuf = s.mapbuf := rfl
@[simp] theorem State.startTile_time (s : State) (x : CtxId) : (s.startTile x).time = s.time := rfl
@[simp] theorem State.startTile_events (s : State) (x : CtxId) : (s.startTile x).events = s.events := rfl
@[simp] theorem State.startTile_out (s : State) (x : CtxId) : (s.startTile x).out = s.out := rfl
@[simp] theorem State.startTile_free (s : State) (x : CtxId) : (s.startTile x).free = s.free := rfl

/-! ## What `modBg` leaves alone -/

@[simp] theorem State.modBg_pending (s : State) (id : Nat) (f : Bg → Bg) : (s.modBg id f).pending = s.pending := rfl
@[simp] theorem State.modBg_mem (s : State) (id : Nat) (f : Bg → Bg) : (s.modBg id f).mem = s.mem := rfl
@[simp] theorem State.modBg_stores (s : State) (id : Nat) (f : Bg → Bg) : (s.modBg id f).stores = s.stores := rfl
@[simp] theorem State.modBg_rim (s : State) (id : Nat) (f : Bg → Bg) : (s.modBg id f).rim = s.rim := rfl
@[simp] theorem State.modBg_regs (s : State) (id : Nat) (f : Bg → Bg) : (s.modBg id f).regs = s.regs := rfl
@[simp] theorem State.modBg_fab (s : State) (id : Nat) (f : Bg → Bg) : (s.modBg id f).fab = s.fab := rfl
@[simp] theorem State.modBg_plt (s : State) (id : Nat) (f : Bg → Bg) : (s.modBg id f).plt = s.plt := rfl
@[simp] theorem State.modBg_host (s : State) (id : Nat) (f : Bg → Bg) : (s.modBg id f).host = s.host := rfl
@[simp] theorem State.modBg_obs (s : State) (id : Nat) (f : Bg → Bg) : (s.modBg id f).obs = s.obs := rfl
@[simp] theorem State.modBg_int (s : State) (id : Nat) (f : Bg → Bg) : (s.modBg id f).int = s.int := rfl
@[simp] theorem State.modBg_gen (s : State) (id : Nat) (f : Bg → Bg) : (s.modBg id f).gen = s.gen := rfl
@[simp] theorem State.modBg_pins (s : State) (id : Nat) (f : Bg → Bg) : (s.modBg id f).pins = s.pins := rfl
@[simp] theorem State.modBg_pow (s : State) (id : Nat) (f : Bg → Bg) : (s.modBg id f).pow = s.pow := rfl
@[simp] theorem State.modBg_keep (s : State) (id : Nat) (f : Bg → Bg) : (s.modBg id f).keep = s.keep := rfl
@[simp] theorem State.modBg_svc (s : State) (id : Nat) (f : Bg → Bg) : (s.modBg id f).svc = s.svc := rfl
@[simp] theorem State.modBg_moved (s : State) (id : Nat) (f : Bg → Bg) : (s.modBg id f).moved = s.moved := rfl
@[simp] theorem State.modBg_flash (s : State) (id : Nat) (f : Bg → Bg) : (s.modBg id f).flash = s.flash := rfl
@[simp] theorem State.modBg_fw (s : State) (id : Nat) (f : Bg → Bg) : (s.modBg id f).fw = s.fw := rfl
@[simp] theorem State.modBg_mapbuf (s : State) (id : Nat) (f : Bg → Bg) : (s.modBg id f).mapbuf = s.mapbuf := rfl
@[simp] theorem State.modBg_time (s : State) (id : Nat) (f : Bg → Bg) : (s.modBg id f).time = s.time := rfl
@[simp] theorem State.modBg_events (s : State) (id : Nat) (f : Bg → Bg) : (s.modBg id f).events = s.events := rfl
@[simp] theorem State.modBg_out (s : State) (id : Nat) (f : Bg → Bg) : (s.modBg id f).out = s.out := rfl
@[simp] theorem State.modBg_free (s : State) (id : Nat) (f : Bg → Bg) : (s.modBg id f).free = s.free := rfl

/-! ## What `setColl` leaves alone -/

@[simp] theorem State.setColl_pending (s : State) (c : Coll) : (s.setColl c).pending = s.pending := rfl
@[simp] theorem State.setColl_mem (s : State) (c : Coll) : (s.setColl c).mem = s.mem := rfl
@[simp] theorem State.setColl_stores (s : State) (c : Coll) : (s.setColl c).stores = s.stores := rfl
@[simp] theorem State.setColl_rim (s : State) (c : Coll) : (s.setColl c).rim = s.rim := rfl
@[simp] theorem State.setColl_regs (s : State) (c : Coll) : (s.setColl c).regs = s.regs := rfl
@[simp] theorem State.setColl_core (s : State) (c : Coll) : (s.setColl c).core = s.core := rfl
@[simp] theorem State.setColl_fab (s : State) (c : Coll) : (s.setColl c).fab = s.fab := rfl
@[simp] theorem State.setColl_host (s : State) (c : Coll) : (s.setColl c).host = s.host := rfl
@[simp] theorem State.setColl_obs (s : State) (c : Coll) : (s.setColl c).obs = s.obs := rfl
@[simp] theorem State.setColl_int (s : State) (c : Coll) : (s.setColl c).int = s.int := rfl
@[simp] theorem State.setColl_gen (s : State) (c : Coll) : (s.setColl c).gen = s.gen := rfl
@[simp] theorem State.setColl_pins (s : State) (c : Coll) : (s.setColl c).pins = s.pins := rfl
@[simp] theorem State.setColl_pow (s : State) (c : Coll) : (s.setColl c).pow = s.pow := rfl
@[simp] theorem State.setColl_keep (s : State) (c : Coll) : (s.setColl c).keep = s.keep := rfl
@[simp] theorem State.setColl_svc (s : State) (c : Coll) : (s.setColl c).svc = s.svc := rfl
@[simp] theorem State.setColl_moved (s : State) (c : Coll) : (s.setColl c).moved = s.moved := rfl
@[simp] theorem State.setColl_flash (s : State) (c : Coll) : (s.setColl c).flash = s.flash := rfl
@[simp] theorem State.setColl_fw (s : State) (c : Coll) : (s.setColl c).fw = s.fw := rfl
@[simp] theorem State.setColl_mapbuf (s : State) (c : Coll) : (s.setColl c).mapbuf = s.mapbuf := rfl
@[simp] theorem State.setColl_time (s : State) (c : Coll) : (s.setColl c).time = s.time := rfl
@[simp] theorem State.setColl_events (s : State) (c : Coll) : (s.setColl c).events = s.events := rfl
@[simp] theorem State.setColl_out (s : State) (c : Coll) : (s.setColl c).out = s.out := rfl
@[simp] theorem State.setColl_free (s : State) (c : Coll) : (s.setColl c).free = s.free := rfl

/-! ## What `setRegion` leaves alone -/

@[simp] theorem State.setRegion_pending (s : State) (r : XRegion) : (s.setRegion r).pending = s.pending := rfl
@[simp] theorem State.setRegion_mem (s : State) (r : XRegion) : (s.setRegion r).mem = s.mem := rfl
@[simp] theorem State.setRegion_stores (s : State) (r : XRegion) : (s.setRegion r).stores = s.stores := rfl
@[simp] theorem State.setRegion_rim (s : State) (r : XRegion) : (s.setRegion r).rim = s.rim := rfl
@[simp] theorem State.setRegion_regs (s : State) (r : XRegion) : (s.setRegion r).regs = s.regs := rfl
@[simp] theorem State.setRegion_core (s : State) (r : XRegion) : (s.setRegion r).core = s.core := rfl
@[simp] theorem State.setRegion_fab (s : State) (r : XRegion) : (s.setRegion r).fab = s.fab := rfl
@[simp] theorem State.setRegion_host (s : State) (r : XRegion) : (s.setRegion r).host = s.host := rfl
@[simp] theorem State.setRegion_obs (s : State) (r : XRegion) : (s.setRegion r).obs = s.obs := rfl
@[simp] theorem State.setRegion_int (s : State) (r : XRegion) : (s.setRegion r).int = s.int := rfl
@[simp] theorem State.setRegion_gen (s : State) (r : XRegion) : (s.setRegion r).gen = s.gen := rfl
@[simp] theorem State.setRegion_pins (s : State) (r : XRegion) : (s.setRegion r).pins = s.pins := rfl
@[simp] theorem State.setRegion_pow (s : State) (r : XRegion) : (s.setRegion r).pow = s.pow := rfl
@[simp] theorem State.setRegion_keep (s : State) (r : XRegion) : (s.setRegion r).keep = s.keep := rfl
@[simp] theorem State.setRegion_svc (s : State) (r : XRegion) : (s.setRegion r).svc = s.svc := rfl
@[simp] theorem State.setRegion_moved (s : State) (r : XRegion) : (s.setRegion r).moved = s.moved := rfl
@[simp] theorem State.setRegion_flash (s : State) (r : XRegion) : (s.setRegion r).flash = s.flash := rfl
@[simp] theorem State.setRegion_fw (s : State) (r : XRegion) : (s.setRegion r).fw = s.fw := rfl
@[simp] theorem State.setRegion_mapbuf (s : State) (r : XRegion) : (s.setRegion r).mapbuf = s.mapbuf := rfl
@[simp] theorem State.setRegion_time (s : State) (r : XRegion) : (s.setRegion r).time = s.time := rfl
@[simp] theorem State.setRegion_events (s : State) (r : XRegion) : (s.setRegion r).events = s.events := rfl
@[simp] theorem State.setRegion_out (s : State) (r : XRegion) : (s.setRegion r).out = s.out := rfl
@[simp] theorem State.setRegion_free (s : State) (r : XRegion) : (s.setRegion r).free = s.free := rfl

/-! ## What writing a scalar register, a predicate or a counter leaves alone -/

@[simp] theorem State.setSreg_pending (s : State) (x : CtxId) (r : R5) (v : Word) : (s.setSreg x r v).pending = s.pending := by unfold State.setSreg; split <;> rfl
@[simp] theorem State.setSreg_mem (s : State) (x : CtxId) (r : R5) (v : Word) : (s.setSreg x r v).mem = s.mem := by unfold State.setSreg; split <;> rfl
@[simp] theorem State.setSreg_stores (s : State) (x : CtxId) (r : R5) (v : Word) : (s.setSreg x r v).stores = s.stores := by unfold State.setSreg; split <;> rfl
@[simp] theorem State.setSreg_rim (s : State) (x : CtxId) (r : R5) (v : Word) : (s.setSreg x r v).rim = s.rim := by unfold State.setSreg; split <;> rfl
@[simp] theorem State.setSreg_regs (s : State) (x : CtxId) (r : R5) (v : Word) : (s.setSreg x r v).regs = s.regs := by unfold State.setSreg; split <;> rfl
@[simp] theorem State.setSreg_fab (s : State) (x : CtxId) (r : R5) (v : Word) : (s.setSreg x r v).fab = s.fab := by unfold State.setSreg; split <;> rfl
@[simp] theorem State.setSreg_plt (s : State) (x : CtxId) (r : R5) (v : Word) : (s.setSreg x r v).plt = s.plt := by unfold State.setSreg; split <;> rfl
@[simp] theorem State.setSreg_host (s : State) (x : CtxId) (r : R5) (v : Word) : (s.setSreg x r v).host = s.host := by unfold State.setSreg; split <;> rfl
@[simp] theorem State.setSreg_obs (s : State) (x : CtxId) (r : R5) (v : Word) : (s.setSreg x r v).obs = s.obs := by unfold State.setSreg; split <;> rfl
@[simp] theorem State.setSreg_int (s : State) (x : CtxId) (r : R5) (v : Word) : (s.setSreg x r v).int = s.int := by unfold State.setSreg; split <;> rfl
@[simp] theorem State.setSreg_gen (s : State) (x : CtxId) (r : R5) (v : Word) : (s.setSreg x r v).gen = s.gen := by unfold State.setSreg; split <;> rfl
@[simp] theorem State.setSreg_pins (s : State) (x : CtxId) (r : R5) (v : Word) : (s.setSreg x r v).pins = s.pins := by unfold State.setSreg; split <;> rfl
@[simp] theorem State.setSreg_pow (s : State) (x : CtxId) (r : R5) (v : Word) : (s.setSreg x r v).pow = s.pow := by unfold State.setSreg; split <;> rfl
@[simp] theorem State.setSreg_keep (s : State) (x : CtxId) (r : R5) (v : Word) : (s.setSreg x r v).keep = s.keep := by unfold State.setSreg; split <;> rfl
@[simp] theorem State.setSreg_svc (s : State) (x : CtxId) (r : R5) (v : Word) : (s.setSreg x r v).svc = s.svc := by unfold State.setSreg; split <;> rfl
@[simp] theorem State.setSreg_moved (s : State) (x : CtxId) (r : R5) (v : Word) : (s.setSreg x r v).moved = s.moved := by unfold State.setSreg; split <;> rfl
@[simp] theorem State.setSreg_flash (s : State) (x : CtxId) (r : R5) (v : Word) : (s.setSreg x r v).flash = s.flash := by unfold State.setSreg; split <;> rfl
@[simp] theorem State.setSreg_fw (s : State) (x : CtxId) (r : R5) (v : Word) : (s.setSreg x r v).fw = s.fw := by unfold State.setSreg; split <;> rfl
@[simp] theorem State.setSreg_mapbuf (s : State) (x : CtxId) (r : R5) (v : Word) : (s.setSreg x r v).mapbuf = s.mapbuf := by unfold State.setSreg; split <;> rfl
@[simp] theorem State.setSreg_time (s : State) (x : CtxId) (r : R5) (v : Word) : (s.setSreg x r v).time = s.time := by unfold State.setSreg; split <;> rfl
@[simp] theorem State.setSreg_events (s : State) (x : CtxId) (r : R5) (v : Word) : (s.setSreg x r v).events = s.events := by unfold State.setSreg; split <;> rfl
@[simp] theorem State.setSreg_out (s : State) (x : CtxId) (r : R5) (v : Word) : (s.setSreg x r v).out = s.out := by unfold State.setSreg; split <;> rfl
@[simp] theorem State.setSreg_free (s : State) (x : CtxId) (r : R5) (v : Word) : (s.setSreg x r v).free = s.free := by unfold State.setSreg; split <;> rfl
@[simp] theorem State.setPred_pending (s : State) (x : CtxId) (p : Fin 8) (v : Bool) : (s.setPred x p v).pending = s.pending := by unfold State.setPred; split <;> rfl
@[simp] theorem State.setPred_mem (s : State) (x : CtxId) (p : Fin 8) (v : Bool) : (s.setPred x p v).mem = s.mem := by unfold State.setPred; split <;> rfl
@[simp] theorem State.setPred_stores (s : State) (x : CtxId) (p : Fin 8) (v : Bool) : (s.setPred x p v).stores = s.stores := by unfold State.setPred; split <;> rfl
@[simp] theorem State.setPred_rim (s : State) (x : CtxId) (p : Fin 8) (v : Bool) : (s.setPred x p v).rim = s.rim := by unfold State.setPred; split <;> rfl
@[simp] theorem State.setPred_regs (s : State) (x : CtxId) (p : Fin 8) (v : Bool) : (s.setPred x p v).regs = s.regs := by unfold State.setPred; split <;> rfl
@[simp] theorem State.setPred_fab (s : State) (x : CtxId) (p : Fin 8) (v : Bool) : (s.setPred x p v).fab = s.fab := by unfold State.setPred; split <;> rfl
@[simp] theorem State.setPred_plt (s : State) (x : CtxId) (p : Fin 8) (v : Bool) : (s.setPred x p v).plt = s.plt := by unfold State.setPred; split <;> rfl
@[simp] theorem State.setPred_host (s : State) (x : CtxId) (p : Fin 8) (v : Bool) : (s.setPred x p v).host = s.host := by unfold State.setPred; split <;> rfl
@[simp] theorem State.setPred_obs (s : State) (x : CtxId) (p : Fin 8) (v : Bool) : (s.setPred x p v).obs = s.obs := by unfold State.setPred; split <;> rfl
@[simp] theorem State.setPred_int (s : State) (x : CtxId) (p : Fin 8) (v : Bool) : (s.setPred x p v).int = s.int := by unfold State.setPred; split <;> rfl
@[simp] theorem State.setPred_gen (s : State) (x : CtxId) (p : Fin 8) (v : Bool) : (s.setPred x p v).gen = s.gen := by unfold State.setPred; split <;> rfl
@[simp] theorem State.setPred_pins (s : State) (x : CtxId) (p : Fin 8) (v : Bool) : (s.setPred x p v).pins = s.pins := by unfold State.setPred; split <;> rfl
@[simp] theorem State.setPred_pow (s : State) (x : CtxId) (p : Fin 8) (v : Bool) : (s.setPred x p v).pow = s.pow := by unfold State.setPred; split <;> rfl
@[simp] theorem State.setPred_keep (s : State) (x : CtxId) (p : Fin 8) (v : Bool) : (s.setPred x p v).keep = s.keep := by unfold State.setPred; split <;> rfl
@[simp] theorem State.setPred_svc (s : State) (x : CtxId) (p : Fin 8) (v : Bool) : (s.setPred x p v).svc = s.svc := by unfold State.setPred; split <;> rfl
@[simp] theorem State.setPred_moved (s : State) (x : CtxId) (p : Fin 8) (v : Bool) : (s.setPred x p v).moved = s.moved := by unfold State.setPred; split <;> rfl
@[simp] theorem State.setPred_flash (s : State) (x : CtxId) (p : Fin 8) (v : Bool) : (s.setPred x p v).flash = s.flash := by unfold State.setPred; split <;> rfl
@[simp] theorem State.setPred_fw (s : State) (x : CtxId) (p : Fin 8) (v : Bool) : (s.setPred x p v).fw = s.fw := by unfold State.setPred; split <;> rfl
@[simp] theorem State.setPred_mapbuf (s : State) (x : CtxId) (p : Fin 8) (v : Bool) : (s.setPred x p v).mapbuf = s.mapbuf := by unfold State.setPred; split <;> rfl
@[simp] theorem State.setPred_time (s : State) (x : CtxId) (p : Fin 8) (v : Bool) : (s.setPred x p v).time = s.time := by unfold State.setPred; split <;> rfl
@[simp] theorem State.setPred_events (s : State) (x : CtxId) (p : Fin 8) (v : Bool) : (s.setPred x p v).events = s.events := by unfold State.setPred; split <;> rfl
@[simp] theorem State.setPred_out (s : State) (x : CtxId) (p : Fin 8) (v : Bool) : (s.setPred x p v).out = s.out := by unfold State.setPred; split <;> rfl
@[simp] theorem State.setPred_free (s : State) (x : CtxId) (p : Fin 8) (v : Bool) : (s.setPred x p v).free = s.free := by unfold State.setPred; split <;> rfl
@[simp] theorem State.count_pending (s : State) (r : Reg) (f : Nat × Nat) (n : Nat) : (s.count r f n).pending = s.pending := by unfold State.count; split <;> rfl
@[simp] theorem State.count_mem (s : State) (r : Reg) (f : Nat × Nat) (n : Nat) : (s.count r f n).mem = s.mem := by unfold State.count; split <;> rfl
@[simp] theorem State.count_stores (s : State) (r : Reg) (f : Nat × Nat) (n : Nat) : (s.count r f n).stores = s.stores := by unfold State.count; split <;> rfl
@[simp] theorem State.count_rim (s : State) (r : Reg) (f : Nat × Nat) (n : Nat) : (s.count r f n).rim = s.rim := by unfold State.count; split <;> rfl
@[simp] theorem State.count_core (s : State) (r : Reg) (f : Nat × Nat) (n : Nat) : (s.count r f n).core = s.core := by unfold State.count; split <;> rfl
@[simp] theorem State.count_fab (s : State) (r : Reg) (f : Nat × Nat) (n : Nat) : (s.count r f n).fab = s.fab := by unfold State.count; split <;> rfl
@[simp] theorem State.count_plt (s : State) (r : Reg) (f : Nat × Nat) (n : Nat) : (s.count r f n).plt = s.plt := by unfold State.count; split <;> rfl
@[simp] theorem State.count_host (s : State) (r : Reg) (f : Nat × Nat) (n : Nat) : (s.count r f n).host = s.host := by unfold State.count; split <;> rfl
@[simp] theorem State.count_obs (s : State) (r : Reg) (f : Nat × Nat) (n : Nat) : (s.count r f n).obs = s.obs := by unfold State.count; split <;> rfl
@[simp] theorem State.count_int (s : State) (r : Reg) (f : Nat × Nat) (n : Nat) : (s.count r f n).int = s.int := by unfold State.count; split <;> rfl
@[simp] theorem State.count_gen (s : State) (r : Reg) (f : Nat × Nat) (n : Nat) : (s.count r f n).gen = s.gen := by unfold State.count; split <;> rfl
@[simp] theorem State.count_pins (s : State) (r : Reg) (f : Nat × Nat) (n : Nat) : (s.count r f n).pins = s.pins := by unfold State.count; split <;> rfl
@[simp] theorem State.count_pow (s : State) (r : Reg) (f : Nat × Nat) (n : Nat) : (s.count r f n).pow = s.pow := by unfold State.count; split <;> rfl
@[simp] theorem State.count_keep (s : State) (r : Reg) (f : Nat × Nat) (n : Nat) : (s.count r f n).keep = s.keep := by unfold State.count; split <;> rfl
@[simp] theorem State.count_svc (s : State) (r : Reg) (f : Nat × Nat) (n : Nat) : (s.count r f n).svc = s.svc := by unfold State.count; split <;> rfl
@[simp] theorem State.count_moved (s : State) (r : Reg) (f : Nat × Nat) (n : Nat) : (s.count r f n).moved = s.moved := by unfold State.count; split <;> rfl
@[simp] theorem State.count_flash (s : State) (r : Reg) (f : Nat × Nat) (n : Nat) : (s.count r f n).flash = s.flash := by unfold State.count; split <;> rfl
@[simp] theorem State.count_fw (s : State) (r : Reg) (f : Nat × Nat) (n : Nat) : (s.count r f n).fw = s.fw := by unfold State.count; split <;> rfl
@[simp] theorem State.count_mapbuf (s : State) (r : Reg) (f : Nat × Nat) (n : Nat) : (s.count r f n).mapbuf = s.mapbuf := by unfold State.count; split <;> rfl
@[simp] theorem State.count_time (s : State) (r : Reg) (f : Nat × Nat) (n : Nat) : (s.count r f n).time = s.time := by unfold State.count; split <;> rfl
@[simp] theorem State.count_events (s : State) (r : Reg) (f : Nat × Nat) (n : Nat) : (s.count r f n).events = s.events := by unfold State.count; split <;> rfl
@[simp] theorem State.count_out (s : State) (r : Reg) (f : Nat × Nat) (n : Nat) : (s.count r f n).out = s.out := by unfold State.count; split <;> rfl
@[simp] theorem State.count_free (s : State) (r : Reg) (f : Nat × Nat) (n : Nat) : (s.count r f n).free = s.free := by unfold State.count; split <;> rfl

/-! ## What a command's end leaves alone -/

@[simp] theorem State.settle_pending (s t : State) : (s.settle t).pending = s.pending := rfl
@[simp] theorem State.settle_stores (s t : State) : (s.settle t).stores = [] := rfl
@[simp] theorem State.settle_rim (s t : State) : (s.settle t).rim = t.rim := rfl
@[simp] theorem State.settle_regs (s t : State) : (s.settle t).regs = t.regs := rfl
@[simp] theorem State.settle_core (s t : State) : (s.settle t).core = t.core := rfl
@[simp] theorem State.settle_fab (s t : State) : (s.settle t).fab = t.fab := rfl
@[simp] theorem State.settle_plt (s t : State) : (s.settle t).plt = t.plt := rfl
@[simp] theorem State.settle_host (s t : State) : (s.settle t).host = t.host := rfl
@[simp] theorem State.settle_obs (s t : State) : (s.settle t).obs = t.obs := rfl
@[simp] theorem State.settle_int (s t : State) : (s.settle t).int = t.int := rfl
@[simp] theorem State.settle_gen (s t : State) : (s.settle t).gen = t.gen := rfl
@[simp] theorem State.settle_pins (s t : State) : (s.settle t).pins = t.pins := rfl
@[simp] theorem State.settle_pow (s t : State) : (s.settle t).pow = t.pow := rfl
@[simp] theorem State.settle_keep (s t : State) : (s.settle t).keep = t.keep := rfl
@[simp] theorem State.settle_svc (s t : State) : (s.settle t).svc = t.svc := rfl
@[simp] theorem State.settle_moved (s t : State) : (s.settle t).moved = t.moved := rfl
@[simp] theorem State.settle_flash (s t : State) : (s.settle t).flash = t.flash := rfl
@[simp] theorem State.settle_fw (s t : State) : (s.settle t).fw = t.fw := rfl
@[simp] theorem State.settle_mapbuf (s t : State) : (s.settle t).mapbuf = t.mapbuf := rfl
@[simp] theorem State.settle_time (s t : State) : (s.settle t).time = t.time := rfl
@[simp] theorem State.settle_events (s t : State) : (s.settle t).events = t.events := rfl
@[simp] theorem State.settle_out (s t : State) : (s.settle t).out = t.out := rfl
@[simp] theorem State.settle_free (s t : State) : (s.settle t).free = t.free := rfl
@[simp] theorem State.settle_reg (s t : State) (r : Reg) : (s.settle t).reg r = t.reg r := rfl
@[simp] theorem State.settle_ctx (s t : State) (x : CtxId) : (s.settle t).ctx x = t.ctx x := rfl
@[simp] theorem State.settle_sreg (s t : State) (x : CtxId) (r : R5) : (s.settle t).sreg x r = t.sreg x r := rfl
@[simp] theorem State.settle_pred (s t : State) (x : CtxId) (p : Fin 8) : (s.settle t).pred x p = t.pred x p := rfl
@[simp] theorem State.settle_tile (s t : State) (x : CtxId) (d : T4) : (s.settle t).tile x d = t.tile x d := rfl
@[simp] theorem State.settle_fld (s t : State) (r : Reg) (f : Nat × Nat) : (s.settle t).fld r f = t.fld r f := rfl

/-- A command that changes no byte of memory leaves every byte as it was. -/
theorem State.byte_settle_of_none (s t : State) (h : t.stores = []) (a : Nat) : (s.settle t).byte a = s.mem.get a := by
  simp [State.byte, State.settle, storedByte, Memory.applyAll, h]

end Sys2Proof.Machine
end

