-- ==== Sys2Proof/Laws/Issue.lean ====
section
/-!
SUPPORT. Laws of issuing an instruction: when its own effect is what happens, and what moving on, writing a register and writing a
predicate do and leave alone.
-/

namespace Sys2Proof.Machine

/-! ## Fields of a word -/

/-- A field as the bits it is made of. -/
theorem testBit_getBits {n : Nat} (w : BitVec n) (f : Nat × Nat) (i : Nat) :
    (getBits w f).testBit i = (decide (i < f.2) && w.getLsbD (f.1 + i)) := by
  simp only [getBits, Nat.testBit_mod_two_pow, Nat.testBit_div_two_pow, BitVec.getLsbD, Nat.add_comm]

/-- The bits of a word one field of which was replaced. -/
theorem getLsbD_putBits {n : Nat} (w : BitVec n) (f : Nat × Nat) (v i : Nat) :
    (putBits w f v).getLsbD i =
      (decide (i < n) && if f.1 ≤ i ∧ i < f.1 + f.2 then v.testBit (i - f.1) else w.getLsbD i) := by
  by_cases hi : i < n
  · by_cases h1 : f.1 ≤ i
    · have h0 : ¬ i < f.1 := by omega
      have h4 : i - f.1 < n := by omega
      have bv1 : (BitVec.ofNat n (2 ^ f.2 - 1))[i - f.1] = decide (i - f.1 < f.2) := by
        rw [← BitVec.getLsbD_eq_getElem, BitVec.getLsbD_ofNat, Nat.testBit_two_pow_sub_one]
        simp [h4]
      have bv2 : (BitVec.ofNat n (v % 2 ^ f.2))[i - f.1] = (decide (i - f.1 < f.2) && v.testBit (i - f.1)) := by
        rw [← BitVec.getLsbD_eq_getElem, BitVec.getLsbD_ofNat, Nat.testBit_mod_two_pow]
        simp [h4]
      by_cases h2 : i - f.1 < f.2
      · have h3 : i < f.1 + f.2 := by omega
        simp [putBits, hi, h1, h0, h3, bv1, bv2, h2]
      · have h3 : ¬ i < f.1 + f.2 := by omega
        simp [putBits, hi, h1, h0, h3, bv1, bv2, h2]
    · simp [putBits, hi, h1, show i < f.1 by omega]
  · simp [putBits, hi]

/-- A field that was just replaced. -/
theorem getBits_putBits_same {n : Nat} (w : BitVec n) (f : Nat × Nat) (v : Nat) (h : f.1 + f.2 ≤ n) :
    getBits (putBits w f v) f = v % 2 ^ f.2 := by
  apply Nat.eq_of_testBit_eq
  intro i
  rw [testBit_getBits, getLsbD_putBits, Nat.testBit_mod_two_pow]
  by_cases hi : i < f.2
  · simp [hi, show f.1 + i < n by omega]
  · simp [hi]

/-- Replacing a field leaves a field apart from it alone. -/
theorem getBits_putBits_other {n : Nat} (w : BitVec n) (f g : Nat × Nat) (v : Nat) (h : g.1 + g.2 ≤ f.1 ∨ f.1 + f.2 ≤ g.1) :
    getBits (putBits w f v) g = getBits w g := by
  apply Nat.eq_of_testBit_eq
  intro i
  rw [testBit_getBits, testBit_getBits, getLsbD_putBits]
  by_cases hi : i < g.2
  · have h2 : ¬ (f.1 ≤ g.1 + i ∧ g.1 + i < f.1 + f.2) := by omega
    by_cases hn : g.1 + i < n
    · simp [hi, h2, hn]
    · simp [hi, hn, BitVec.getLsbD_of_ge w (g.1 + i) (by omega)]
  · simp [hi]

/-- A field of a word with other bits masked out. -/
theorem getBits_and_mask {n : Nat} (w m : BitVec n) (f : Nat × Nat) (h : ∀ i, i < f.2 → m.getLsbD (f.1 + i) = true) :
    getBits (w &&& m) f = getBits w f := by
  apply Nat.eq_of_testBit_eq
  intro i
  rw [testBit_getBits, testBit_getBits]
  by_cases hi : i < f.2
  · simp [hi, h i hi]
  · simp [hi]

/-! ## The PC and the state number of a context -/

/-- The PC is a field of 48 bits. -/
theorem State.pc_setPc (s : State) (x : CtxId) (v : Nat) : (s.setPc x v).pc x = v % 2 ^ 48 := by
  have hm : (Reg.ctxPc x.core x.n).mask = 0xFFFFFFFFFFFF := rfl
  simp only [State.pc, State.setPc, State.fld, State.setFld, State.reg_setReg_same]
  rw [getBits_and_mask, getBits_putBits_same _ _ _ (by decide)]
  intro i hi
  rw [hm]
  have : i < 48 := hi
  interval_cases i <;> rfl

/-- The state numbers of a core's contexts are fields apart. -/
theorem State.ctxState_setCtxState (s : State) (x y : CtxId) (v : Nat) :
    (s.setCtxState x v).ctxState y = if y = x then (if v = 1 ∧ s.isMoved x = true then 5 else v) % 16 else s.ctxState y := by
  obtain ⟨xc, xn⟩ := x
  obtain ⟨yc, yn⟩ := y
  have hm : (Reg.coreSqstat xc).mask = 0xFFFF := rfl
  by_cases hc : yc = xc
  · subst hc
    simp only [State.ctxState, State.setCtxState, State.fld, State.setFld, State.reg_setReg_same]
    rw [getBits_and_mask _ _ (4 * yn.val, 4) (by
      intro i hi
      rw [hm]
      have : i < 4 := hi
      have := yn.isLt
      revert yn i
      decide)]
    by_cases hn : yn = xn
    · subst hn
      simp only [if_true]
      exact getBits_putBits_same _ _ _ (by have := yn.isLt; simp only; omega)
    · have h2 : ¬ yn.val = xn.val := fun e => hn (Fin.ext e)
      have h3 : ¬ (CtxId.mk yc yn = CtxId.mk yc xn) := by simp [hn]
      rw [if_neg h3, getBits_putBits_other _ _ _ _ (by simp only; omega)]
  · have h3 : ¬ (CtxId.mk yc yn = CtxId.mk xc xn) := by simp [hc]
    have h4 : Reg.coreSqstat yc ≠ Reg.coreSqstat xc := by simpa using hc
    simp only [if_neg h3, State.ctxState, State.setCtxState, State.fld, State.reg_setFld_ne _ h4]

/-! ## Moving on -/

/-- Moving on: the PC passes the instruction's words and the context runs (R134). -/
theorem State.advance_ran (s : State) (i : Ins) : s.RunsAt (s.advance i) i.x (i.iaddr + 8 * i.words) := by
  constructor
  · show ((s.setPc i.x (i.iaddr + 8 * i.words)).setCtxState i.x 1).pc i.x = _
    have : Reg.ctxPc i.x.core i.x.n ≠ Reg.coreSqstat i.x.core := by simp
    simp only [State.setCtxState]
    rw [State.pc, State.fld, State.reg_setFld_ne _ this]
    exact State.pc_setPc s i.x _
  · show ((s.setPc i.x (i.iaddr + 8 * i.words)).setCtxState i.x 1).ctxState i.x = _
    rw [State.ctxState_setCtxState]
    have hm : (s.setPc i.x (i.iaddr + 8 * i.words)).isMoved i.x = s.isMoved i.x := rfl
    by_cases hq : s.isMoved i.x = true <;> simp [hm, hq]
  · simp [State.advance, State.setWait]

/-- Where a context stood is said of its registers and the moved tiles alone. -/
theorem State.RunsAt.of_regs {s u t : State} {x : CtxId} {w : Nat} (h : u.RunsAt t x w) (hr : u.regs = s.regs) (hm : u.moved = s.moved)
    (_ : u.mem = s.mem) : s.RunsAt t x w where
  pc := by
    have := h.pc
    simp only [State.pc, State.fld, State.reg, hr] at *
    exact this
  state := by
    have := h.state
    simp only [State.isMoved, hm] at *
    exact this
  wait := h.wait

/-- Moving on changes nothing else. -/
theorem State.advance_only (s : State) (i : Ins) : s.OnlyCtx (s.advance i) i.x := by
  constructor
  · intro r h1 h2
    show ((s.setPc i.x (i.iaddr + 8 * i.words)).setCtxState i.x 1).reg r = _
    simp only [State.setCtxState]
    rw [State.reg_setFld_ne _ h2]
    exact State.reg_setFld_ne _ h1 _ _
  · intro y hy
    show ((s.setPc i.x (i.iaddr + 8 * i.words)).setCtxState i.x 1).ctxState y = _
    rw [State.ctxState_setCtxState, if_neg hy]
    have h4 : Reg.coreSqstat y.core ≠ Reg.ctxPc i.x.core i.x.n := by simp
    simp only [State.ctxState, State.setPc, State.fld, State.reg_setFld_ne _ h4]
  · intro y hy
    show State.ctx (State.setCtx _ _ _) y = _
    rw [State.ctx_setCtx_ne _ hy]
    rfl
  · intro a
    rfl
  · rfl

/-- What moving on leaves of its own context. -/
theorem State.advance_ctx (s : State) (i : Ins) : (s.advance i).ctx i.x = { s.ctx i.x with wait := none } := by
  show State.ctx (State.setCtx _ _ _) i.x = _
  rw [State.ctx_setCtx_same]
  rfl

/-! ## The frames -/

/-- Two changes of one context in a row. -/
theorem State.OnlyCtx.trans {s t u : State} {x : CtxId} (h : s.OnlyCtx t x) (k : t.OnlyCtx u x) : s.OnlyCtx u x where
  regs r h1 h2 := (k.regs r h1 h2).trans (h.regs r h1 h2)
  states y hy := (k.states y hy).trans (h.states y hy)
  ctxs y hy := (k.ctxs y hy).trans (h.ctxs y hy)
  memory a := (k.memory a).trans (h.memory a)
  rest := by
    have h1 := h.rest
    have k1 := k.rest
    rw [h1] at k1
    exact k1

/-- Setting a context is a change of that context. -/
theorem State.setCtx_only (s : State) (x : CtxId) (c : Ctx) : s.OnlyCtx (s.setCtx x c) x where
  regs _ _ _ := rfl
  states _ _ := rfl
  ctxs _ hy := State.ctx_setCtx_ne s hy c
  memory _ := rfl
  rest := rfl

/-- A state is as it was. -/
theorem State.OnlyCtx.refl (s : State) (x : CtxId) : s.OnlyCtx s x where
  regs _ _ _ := rfl
  states _ _ := rfl
  ctxs _ _ := rfl
  memory _ := rfl
  rest := rfl

/-- A command's end changes nothing of a state that holds the same memory and has stored nothing. -/
theorem State.settle_of_same {s t : State} (hs : t.stores = []) (hm : t.mem = s.mem) (hp : t.pending = s.pending) : s.settle t = t := by
  cases t
  simp only at hs hm hp
  subst hs hm hp
  rfl

/-- A change of one context reaches the next state as it is. -/
theorem State.OnlyCtx.settle {s t : State} {x : CtxId} (h : s.OnlyCtx t x) (hs : s.stores = []) : s.settle t = t := by
  have h1 := h.rest
  refine State.settle_of_same ?_ ?_ ?_
  · rw [h1]; exact hs
  · rw [h1]
  · rw [h1]

/-- Writing a scalar register and moving on. -/
theorem State.setSreg_wrote (s : State) (i : Ins) (rd : R5) (v : Word) :
    s.WroteReg ((s.setSreg i.x rd v).advance i) i.x (i.iaddr + 8 * i.words) rd v := by
  by_cases h0 : rd = 0
  · have e : s.setSreg i.x rd v = s := by simp [State.setSreg, h0]
    rw [e]
    exact { only := s.advance_only i
            ran := s.advance_ran i
            value := fun k => absurd h0 k
            zero := by simp [State.sreg]
            others := fun q _ => by simp [State.sreg, s.advance_ctx i]
            preds := fun p => by simp [State.pred, s.advance_ctx i]
            kept := by simp [s.advance_ctx i] }
  · have e : s.setSreg i.x rd v = s.setCtx i.x { s.ctx i.x with sreg := (s.ctx i.x).sreg.set rd v } := by simp [State.setSreg, h0]
    have hc := (s.setSreg i.x rd v).advance_ctx i
    rw [e, State.ctx_setCtx_same] at hc
    rw [e]
    refine { only := (s.setCtx_only i.x _).trans (State.advance_only _ i), ran := ?_, value := fun _ => ?_, zero := by simp [State.sreg],
             others := fun q hq => ?_, preds := fun p => ?_, kept := ?_ }
    · exact (State.advance_ran (s.setCtx i.x _) i).of_regs rfl rfl rfl
    · simp [State.sreg, h0, hc]
    · simp [State.sreg, hc, Map.get_set_ne _ hq]
    · simp [State.pred, hc]
    · simp [hc]

/-- Writing a predicate and moving on. -/
theorem State.setPred_wrote (s : State) (i : Ins) (pd : Fin 8) (v : Bool) (h : i.iaddr + 8 * i.words = s.pc i.x + 8) :
    s.WrotePred ((s.setPred i.x pd v).advance i) i.x pd v := by
  by_cases h0 : pd = 0
  · have e : s.setPred i.x pd v = s := by simp [State.setPred, h0]
    rw [e]
    exact { only := s.advance_only i
            ran := h ▸ s.advance_ran i
            value := fun k => absurd h0 k
            one := by simp [State.pred]
            others := fun q _ => by simp [State.pred, s.advance_ctx i]
            sregs := fun p => by simp [State.sreg, s.advance_ctx i]
            kept := by simp [s.advance_ctx i] }
  · have e : s.setPred i.x pd v = s.setCtx i.x { s.ctx i.x with pred := (s.ctx i.x).pred.set pd v } := by simp [State.setPred, h0]
    have hc := (s.setPred i.x pd v).advance_ctx i
    rw [e, State.ctx_setCtx_same] at hc
    rw [e]
    refine { only := (s.setCtx_only i.x _).trans (State.advance_only _ i), ran := ?_, value := fun _ => ?_, one := by simp [State.pred],
             others := fun q hq => ?_, sregs := fun p => ?_, kept := ?_ }
    · exact h ▸ (State.advance_ran (s.setCtx i.x _) i).of_regs rfl rfl rfl
    · simp [State.pred, h0, hc]
    · simp [State.pred, hc, Map.get_set_ne _ hq]
    · simp [State.sreg, hc]
    · simp [hc]

/-! ## Issuing -/

/-- What a fetch that finds no fault says (R3, R154): the address is aligned, and every word may be fetched. -/
theorem State.fetch_none {s t : State} {x : CtxId} {a words : Nat} (h : s.fetch x a words = (t, none)) :
    a % 8 = 0 ∧ ∀ k < words, s.mayFetch x (a + 8 * k) = true := by
  unfold State.fetch at h
  split at h
  · cases h
  next h8 =>
    split at h
    · cases h
    next hn =>
      refine ⟨by omega, fun k hk => ?_⟩
      simpa using List.find?_eq_none.mp hn k (List.mem_range.mpr hk)

/-- An instruction that issues has its own effect (R134). -/
theorem State.issue_body {s : State} {a : At} {op words : Nat} {tag : OpTag} {bad : Bool} {body : Ins → State → State} (h : s.Issues a op)
    (hw : words = opWords op) (hb : bad = false) : s.issue a op words tag bad body = body (s.ins (issuer a) op words tag) s := by
  have h1 := h.can
  have h2 := hw ▸ h.fetch
  have h3 := h.legal
  have h4 := h.guard
  have h6 : ¬ (kickOp op = true ∧ s.phase ≠ 3) := fun q => q.2 (h.service q.1)
  simp only [issuer] at *
  simp [State.issue, h1, h3, h4, h6, hb, State.ins, h2]

/-- The outcome of an instruction that issues. -/
theorem execIns_body {s : State} {a : At} {op words : Nat} {tag : OpTag} {bad : Bool} {body : Ins → State → State} (h : s.Issues a op)
    (hw : words = opWords op) (hb : bad = false) : execIns a op words tag bad body s = .next (s.settle (body (s.ins (issuer a) op words tag) s)) := by
  have hs : { s with stores := [] } = s := by
    have := h.idle
    cases s
    simp_all
  simp only [execIns, runs, hs]
  rw [State.issue_body h hw hb]

/-- A scalar instruction that writes one register. -/
theorem execToReg_wrote {s : State} {a : At} {op : Nat} {bad : Bool} {rd : R5} {v : Ins → State → Word} (h : s.Issues a op) (h1 : opWords op = 1)
    (hb : bad = false) : ∃ t, execToReg a op bad rd v s = .next t ∧ s.WroteReg t (issuer a) (s.pc (issuer a) + 8) rd (v (s.ins (issuer a) op 1 0) s) := by
  have hw := s.setSreg_wrote (s.ins (issuer a) op 1 0) rd (v (s.ins (issuer a) op 1 0) s)
  refine ⟨_, execIns_body h h1.symm hb, ?_⟩
  have := hw.only.settle h.idle
  rw [show s.settle _ = _ from this]
  exact hw

/-- A scalar instruction that writes one predicate. -/
theorem execToPred_wrote {s : State} {a : At} {op : Nat} {bad : Bool} {pd : R5} {v : Ins → State → Bool} (h : s.Issues a op) (h1 : opWords op = 1)
    (hb : bad = false) (hp : pd.val < 8) : ∃ t, execToPred a op bad pd v s = .next t ∧ s.WrotePred t (issuer a) (predOf pd) (v (s.ins (issuer a) op 1 0) s) := by
  have hw := s.setPred_wrote (s.ins (issuer a) op 1 0) (predOf pd) (v (s.ins (issuer a) op 1 0) s) rfl
  have hb2 : (bad || predBad pd) = false := by simp [hb, predBad, hp]
  refine ⟨_, execIns_body h h1.symm hb2, ?_⟩
  have := hw.only.settle h.idle
  rw [show s.settle _ = _ from this]
  exact hw

end Sys2Proof.Machine
end

