-- ==== Sys2Proof/Laws/Events.lean ====
section
/-!
SUPPORT. Laws of events and faults: what raising an event and tracing change, and what a precise fault leaves.
-/

namespace Sys2Proof.Machine

/-! ## What two states share when only bookkeeping lies between them -/

/-- Registers that events and traces write. -/
def bookReg : Reg → Bool
  | .evrDrop => true
  | .icuPend _ _ => true
  | .icuCnt _ _ => true
  | .pmuTrStat _ => true
  | _ => false

/-- Only bookkeeping lies between two states: events, interrupts, messages, traces and the step service's counts. -/
structure State.Booked (s t : State) : Prop where
  regs : ∀ r, bookReg r = false → t.reg r = s.reg r
  rest : t = { s with regs := t.regs, host := t.host, obs := t.obs, svc := t.svc, events := t.events, out := t.out }

theorem State.Booked.refl (s : State) : s.Booked s := ⟨fun _ _ => rfl, rfl⟩

theorem State.Booked.trans {s t u : State} (h : s.Booked t) (k : t.Booked u) : s.Booked u where
  regs r hr := (k.regs r hr).trans (h.regs r hr)
  rest := by
    have h1 := h.rest
    have k1 := k.rest
    rw [h1] at k1
    exact k1

/-- Bookkeeping changes no context. -/
theorem State.Booked.ctx {s t : State} (h : s.Booked t) (x : CtxId) : t.ctx x = s.ctx x := by
  rw [h.rest]
  rfl

/-- Bookkeeping changes no byte of memory. -/
theorem State.Booked.byte {s t : State} (h : s.Booked t) (a : Nat) : t.byte a = s.byte a := by
  rw [h.rest]
  rfl

/-- Setting a bookkeeping register. -/
theorem State.setReg_booked (s : State) {r : Reg} (hr : bookReg r = true) (v : Word) : s.Booked (s.setReg r v) where
  regs q hq := State.reg_setReg_ne s (by
    intro e
    rw [e, hr] at hq
    cases hq) v
  rest := rfl

/-- Counting in a bookkeeping register. -/
theorem State.count_booked (s : State) {r : Reg} (hr : bookReg r = true) (f : Nat × Nat) (n : Nat) : s.Booked (s.count r f n) := by
  unfold State.count
  split
  · exact .refl s
  · exact State.setReg_booked s hr _

theorem State.tally_booked (s : State) (f : StepCnt → StepCnt) : s.Booked (s.tally f) := ⟨fun _ _ => rfl, rfl⟩

theorem State.msix_booked (s : State) (n : Nat) : s.Booked (s.msix n) := by
  unfold State.msix
  simp only
  split
  · exact ⟨fun _ _ => rfl, rfl⟩
  · split <;> exact ⟨fun _ _ => rfl, rfl⟩

theorem State.queueEvent_booked (s : State) (e : Event) : s.Booked (s.queueEvent e) := by
  unfold State.queueEvent
  split
  · exact ⟨fun _ _ => rfl, rfl⟩
  · have hd : s.Booked s.dropEvent := State.setReg_booked s rfl _
    simp only
    split
    · exact hd
    · split
      · exact hd.trans ⟨fun _ _ => rfl, rfl⟩
      · exact hd

theorem State.edge_booked (s : State) (d : Fin 2) (src : Fin 512) : s.Booked (s.edge d src) := by
  unfold State.edge
  have h1 : s.Booked (s.setFld (.icuPend d ⟨src.val / 64, by omega⟩) (src.val % 64, 1) 1) := State.setReg_booked s rfl _
  have h2 := h1.trans (State.count_booked _ (r := .icuCnt d ⟨src.val / 8, by omega⟩) rfl (8 * (src.val % 8), 8) 1)
  simp only
  split
  · split
    · exact h2.trans (State.msix_booked _ _)
    · exact h2
  · exact h2

/-- Raising an event is bookkeeping. -/
theorem State.raiseEv_booked (s : State) (d : Fin 2) (cls code : Nat) (l : List (Nat × Nat)) : s.Booked (s.raiseEv d cls code l) := by
  unfold State.raiseEv
  have h1 := (s.tally_booked fun c => { c with events := c.events.set cls (c.events.get cls 0 + 1) }).trans
    (State.queueEvent_booked _ { cls := cls, code := code, die := d, data := l })
  simp only
  split
  · exact h1.trans (State.edge_booked _ _ _)
  · exact h1

/-- Either branch is bookkeeping. -/
theorem State.Booked.ite {s a b : State} {p : Prop} [Decidable p] (ha : s.Booked a) (hb : s.Booked b) : s.Booked (if p then a else b) := by
  split
  · exact ha
  · exact hb

/-- Tracing is bookkeeping. -/
theorem State.traceRec_booked (s : State) (r : TraceRec) (k : Option (Fin 16)) : s.Booked (s.traceRec r k) :=
  .ite (.refl s) (.ite ((State.count_booked s (r := .pmuTrStat r.die) rfl F.pmuTrStat_LOST 1).trans ⟨fun _ _ => rfl, rfl⟩)
    ⟨fun _ _ => rfl, rfl⟩)

theorem State.trace_booked (s : State) (kind : Nat) (i : Ins) (n : Nat) : s.Booked (s.trace kind i n) := State.traceRec_booked s _ _

/-- The source that an edge sets pending (R404). -/
theorem State.edge_pends (s : State) (d : Fin 2) (src : Fin 512) :
    bit ((s.edge d src).reg (.icuPend d ⟨src.val / 64, by omega⟩)) (src.val % 64) = true := by
  have hm : (Reg.icuPend d ⟨src.val / 64, by omega⟩).mask = BitVec.allOnes 64 := rfl
  have key : ∀ t : State, t.regs = ((s.setFld (.icuPend d ⟨src.val / 64, by omega⟩) (src.val % 64, 1) 1).count
      (.icuCnt d ⟨src.val / 8, by omega⟩) (8 * (src.val % 8), 8) 1).regs →
      bit (t.reg (.icuPend d ⟨src.val / 64, by omega⟩)) (src.val % 64) = true := by
    intro t ht
    have hne : Reg.icuPend d ⟨src.val / 64, by omega⟩ ≠ Reg.icuCnt d ⟨src.val / 8, by omega⟩ := by simp
    have : t.reg (.icuPend d ⟨src.val / 64, by omega⟩) =
        (s.setFld (.icuPend d ⟨src.val / 64, by omega⟩) (src.val % 64, 1) 1).reg (.icuPend d ⟨src.val / 64, by omega⟩) := by
      rw [State.reg, ht]
      exact State.reg_count_ne _ hne _ _
    have hlt : src.val % 64 < 64 := Nat.mod_lt _ (by omega)
    rw [this, State.setFld, State.reg_setReg_same, hm, bit, BitVec.getLsbD_and, getLsbD_putBits]
    rw [BitVec.getLsbD_allOnes]
    simp [hlt]
  unfold State.edge
  simp only
  split
  · split
    · apply key
      unfold State.msix
      simp only
      split
      · rfl
      · split <;> rfl
    · exact key _ rfl
  · exact key _ rfl

/-- The queue of events has room: the record joins it (R435). -/
theorem State.raiseEv_events (s : State) (d : Fin 2) (cls code : Nat) (l : List (Nat × Nat)) (h : s.events.length < 4096) :
    (s.raiseEv d cls code l).events = s.events ++ [{ cls := cls, code := code, die := d, data := l }] := by
  have he : ∀ (t : State) (d : Fin 2) (src : Fin 512), (t.edge d src).events = t.events := by
    intro t d src
    have hc : ∀ r f n, (t.setFld (.icuPend d ⟨src.val / 64, by omega⟩) (src.val % 64, 1) 1 |>.count r f n).events = t.events := by
      intro r f n
      simp
    unfold State.edge
    simp only
    split
    · split
      · unfold State.msix
        simp only
        split
        · exact hc _ _ _
        · split <;> exact hc _ _ _
      · exact hc _ _ _
    · exact hc _ _ _
  have hq : ∀ (t : State) (e : Event), t.events.length < 4096 → (t.queueEvent e).events = t.events ++ [e] := by
    intro t e ht
    simp [State.queueEvent, ht]
  unfold State.raiseEv
  simp only
  split
  · rw [he, hq _ _ (by simpa using h)]
    rfl
  · rw [hq _ _ (by simpa using h)]
    rfl

/-! ## Precise faults -/

/-- A field of a number's word. -/
theorem getBits_ofNat (v : Nat) (f : Nat × Nat) (h : f.1 + f.2 ≤ 64) : getBits (BitVec.ofNat 64 v) f = v / 2 ^ f.1 % 2 ^ f.2 := by
  apply Nat.eq_of_testBit_eq
  intro i
  rw [testBit_getBits, Nat.testBit_mod_two_pow, Nat.testBit_div_two_pow, BitVec.getLsbD_ofNat]
  by_cases hi : i < f.2
  · have h2 : f.1 + i < 64 := by omega
    rw [Nat.add_comm i]
    simp [hi, h2]
  · simp [hi]

/-- What CTXn_FLT0 holds once a record is written (R160). -/
def flt0Value (f : Flt) (op : Nat) (tag : OpTag) (layer : BitVec 16) (mbatch : BitVec 8) (async lost : Bool) : Nat :=
  f.code % 16 + f.detail % 16 * 2 ^ 4 + op % 256 * 2 ^ 8 + tag.toNat * 2 ^ 16 + layer.toNat * 2 ^ 32 + mbatch.toNat * 2 ^ 48 +
  b2n async * 2 ^ 61 + b2n lost * 2 ^ 62 + 2 ^ 63

theorem State.faultRecord_flt0 (s : State) (x : CtxId) (f : Flt) (op : Nat) (tag : OpTag) (layer : BitVec 16) (mbatch : BitVec 8) (ia : Nat)
    (as : Bool) : (s.faultRecord x f op tag layer mbatch ia as).reg (.ctxFlt0 x.core x.n) =
      BitVec.ofNat 64 (flt0Value f op tag layer mbatch as (s.flag (.ctxFlt0 x.core x.n) F.ctxFlt0_VALID ||
        s.flag (.ctxFlt0 x.core x.n) F.ctxFlt0_LOST)) &&& (Reg.ctxFlt0 x.core x.n).mask := by
  unfold State.faultRecord
  rw [State.reg_setReg_ne _ (by simp), State.reg_setReg_ne _ (by simp), State.reg_setReg_ne _ (by simp), State.reg_setReg_same]
  rfl

theorem State.faultRecord_flt1 (s : State) (x : CtxId) (f : Flt) (op : Nat) (tag : OpTag) (layer : BitVec 16) (mbatch : BitVec 8) (ia : Nat)
    (as : Bool) : (s.faultRecord x f op tag layer mbatch ia as).reg (.ctxFlt1 x.core x.n) =
      BitVec.ofNat 64 ia &&& (Reg.ctxFlt1 x.core x.n).mask := by
  unfold State.faultRecord
  rw [State.reg_setReg_ne _ (by simp), State.reg_setReg_ne _ (by simp), State.reg_setReg_same]

theorem State.faultRecord_flt2 (s : State) (x : CtxId) (f : Flt) (op : Nat) (tag : OpTag) (layer : BitVec 16) (mbatch : BitVec 8) (ia : Nat)
    (as : Bool) : (s.faultRecord x f op tag layer mbatch ia as).reg (.ctxFlt2 x.core x.n) = BitVec.ofNat 64 f.value := by
  unfold State.faultRecord
  rw [State.reg_setReg_ne _ (by simp), State.reg_setReg_same]
  have hm : (Reg.ctxFlt2 x.core x.n).mask = BitVec.allOnes 64 := rfl
  rw [hm, BitVec.and_allOnes]

theorem State.faultRecord_flt3 (s : State) (x : CtxId) (f : Flt) (op : Nat) (tag : OpTag) (layer : BitVec 16) (mbatch : BitVec 8) (ia : Nat)
    (as : Bool) : (s.faultRecord x f op tag layer mbatch ia as).reg (.ctxFlt3 x.core x.n) =
      BitVec.ofNat 64 ((s.stepOf x).toNat % 2 ^ 32 + f.treg % 16 * 2 ^ 32) &&& (Reg.ctxFlt3 x.core x.n).mask := by
  unfold State.faultRecord
  rw [State.reg_setReg_same]
  simp only [State.stepOf]
  rw [State.reg_setReg_ne _ (by simp), State.reg_setReg_ne _ (by simp), State.reg_setReg_ne _ (by simp)]

theorem State.faultRecord_reg (s : State) (x : CtxId) (f : Flt) (op : Nat) (tag : OpTag) (layer : BitVec 16) (mbatch : BitVec 8) (ia : Nat)
    (as : Bool) {r : Reg} (h0 : r ≠ .ctxFlt0 x.core x.n) (h1 : r ≠ .ctxFlt1 x.core x.n) (h2 : r ≠ .ctxFlt2 x.core x.n)
    (h3 : r ≠ .ctxFlt3 x.core x.n) : (s.faultRecord x f op tag layer mbatch ia as).reg r = s.reg r := by
  unfold State.faultRecord
  rw [State.reg_setReg_ne _ h3, State.reg_setReg_ne _ h2, State.reg_setReg_ne _ h1, State.reg_setReg_ne _ h0]

/-- Writing a fault record changes registers alone. -/
theorem State.faultRecord_rest (s : State) (x : CtxId) (f : Flt) (op : Nat) (tag : OpTag) (layer : BitVec 16) (mbatch : BitVec 8) (ia : Nat)
    (as : Bool) : s.faultRecord x f op tag layer mbatch ia as = { s with regs := (s.faultRecord x f op tag layer mbatch ia as).regs } := rfl

/-- Setting a context changes no register. -/
@[simp] theorem State.setCtx_reg (s : State) (x : CtxId) (c : Ctx) (r : Reg) : (s.setCtx x c).reg r = s.reg r := rfl

theorem State.haltFault_booked (s : State) (x : CtxId) (f : Flt) (op : Nat) (tag : OpTag) (layer : BitVec 16) (mbatch : BitVec 8) (ia : Nat) (as : Bool) :
    (s.halted x f op tag layer mbatch ia as).Booked (s.haltFault x f op tag layer mbatch ia as) := by
  unfold State.haltFault
  generalize s.halted x f op tag layer mbatch ia as = u
  exact (State.trace_booked _ _ _ _).trans (State.raiseEv_booked _ _ _ _ _)

theorem State.halted_reg (s : State) (x : CtxId) (f : Flt) (op : Nat) (tag : OpTag) (layer : BitVec 16) (mbatch : BitVec 8) (ia : Nat) (as : Bool)
    {r : Reg} (h1 : r ≠ .cluUerr (clusterOf x.core)) (h2 : r ≠ .coreSqstat x.core) :
    (s.halted x f op tag layer mbatch ia as).reg r = (s.faultRecord x f op tag layer mbatch ia as).reg r := by
  unfold State.halted
  generalize s.faultRecord x f op tag layer mbatch ia as = u
  rw [State.wrap, State.reg_setFld_ne _ h1, State.setCtx_reg, State.setCtxState, State.reg_setFld_ne _ h2]

theorem State.haltFault_events (s : State) (x : CtxId) (f : Flt) (op : Nat) (tag : OpTag) (layer : BitVec 16) (mbatch : BitVec 8) (ia : Nat)
    (as : Bool) (h : s.events.length < 4096) : ∃ d, (s.haltFault x f op tag layer mbatch ia as).events =
      s.events ++ [{ cls := 4, code := 0x40, die := dieOf x.core, data := d }] := by
  have ht : ∀ (t : State) (r : TraceRec) (k : Option (Fin 16)), (t.traceRec r k).events = t.events := by
    intro t r k
    unfold State.traceRec
    simp only [apply_ite State.events]
    simp
  unfold State.haltFault
  dsimp only
  rw [State.raiseEv_events]
  · simp only [State.trace, ht]
    exact ⟨_, rfl⟩
  · simp only [State.trace, ht]
    exact h

theorem State.haltFault_source (s : State) (x : CtxId) (f : Flt) (op : Nat) (tag : OpTag) (layer : BitVec 16) (mbatch : BitVec 8) (ia : Nat)
    (as : Bool) : bit ((s.haltFault x f op tag layer mbatch ia as).reg (.icuPend (dieOf x.core) 2)) 1 = true := by
  have hedge : ∀ (u : State) (d : Fin 2), bit ((u.edge d (Fin.ofNat _ 129)).reg (.icuPend d 2)) 1 = true :=
    fun u d => State.edge_pends u d (Fin.ofNat 512 129)
  have hev : ∀ (u : State) (d : Fin 2) (l : List (Nat × Nat)), bit ((u.raiseEv d 4 0x40 l).reg (.icuPend d 2)) 1 = true := by
    intro u d l
    have : eventSource 4 0x40 = .shared 129 := by decide
    unfold State.raiseEv
    simp only [this]
    exact hedge _ _
  unfold State.haltFault
  exact hev _ _ _

/-- Fields of CTXn_FLT0 after a record was written. -/
theorem flt0_field (c : Fin 256) (n : Fin 4) (v : Nat) (f : Nat × Nat) (h : f.1 + f.2 ≤ 64)
    (hm : ∀ i, i < f.2 → (Reg.ctxFlt0 c n).mask.getLsbD (f.1 + i) = true) :
    getBits (BitVec.ofNat 64 v &&& (Reg.ctxFlt0 c n).mask) f = v / 2 ^ f.1 % 2 ^ f.2 := by
  rw [getBits_and_mask _ _ _ hm, getBits_ofNat _ _ h]


/-- What a halt at a fault leaves of the state number and the context. -/
theorem State.halted_state (s : State) (x : CtxId) (f : Flt) (op : Nat) (tag : OpTag) (layer : BitVec 16) (mbatch : BitVec 8) (ia : Nat)
    (as : Bool) : (s.halted x f op tag layer mbatch ia as).ctxState x = 4 ∧
      (s.halted x f op tag layer mbatch ia as).ctx x = { s.ctx x with wait := none, why := 1 } ∧
      ∀ y, y ≠ x → (s.halted x f op tag layer mbatch ia as).ctx y = s.ctx y := by
  have hr := s.faultRecord_rest x f op tag layer mbatch ia as
  unfold State.halted
  generalize s.faultRecord x f op tag layer mbatch ia as = u at *
  have hu : ∀ y, u.ctx y = s.ctx y := by
    intro y
    rw [hr]
    rfl
  have hw : ∀ (v : State) (y : CtxId), (v.wrap (.cluUerr (clusterOf x.core)) F.cluUerr_FAULTS 1).ctx y = v.ctx y := by
    intro v y
    rw [State.ctx, State.wrap_core, State.ctx]
  refine ⟨?_, ?_, ?_⟩
  · have h4 : Reg.coreSqstat x.core ≠ Reg.cluUerr (clusterOf x.core) := by simp
    have h := u.ctxState_setCtxState x x 4
    rw [State.ctxState, State.fld] at h ⊢
    rw [State.wrap, State.reg_setFld_ne _ h4, State.setCtx_reg]
    simpa using h
  · rw [hw, State.ctx_setCtx_same, hu]
  · intro y hy
    rw [hw, State.ctx_setCtx_ne _ hy, State.ctx, State.setCtxState_core, ← State.ctx, hu]

/-- What a precise fault leaves (R155, R156, R158). -/
theorem State.fault_faulted {s : State} {a : At} {op words : Nat} {tag : OpTag} {f : Flt} (hs : s.stores = []) (hf : f.code < 15)
    (hd : f.detail < 16) (ho : op < 256) :
    s.FaultedAt (s.settle (s.fault (s.ins (issuer a) op words tag) f)) a op tag f.code f.detail f.value := by
  have hp : s.pc (issuer a) < 2 ^ 48 := Nat.mod_lt _ (by decide)
  have hsp : (s.setPc (issuer a) (s.pc (issuer a))).pc (issuer a) = s.pc (issuer a) := by
    rw [State.pc_setPc]
    exact Nat.mod_eq_of_lt hp
  have hr0 : ∀ r, r ≠ .ctxPc a.core a.n → (s.setPc (issuer a) (s.pc (issuer a))).reg r = s.reg r := fun r hr => State.reg_setFld_ne _ hr _ _
  have hc0 : ∀ y, (s.setPc (issuer a) (s.pc (issuer a))).ctx y = s.ctx y := fun y => by
    rw [State.ctx, State.setPc_core, State.ctx]
  have hrest0 : s.setPc (issuer a) (s.pc (issuer a)) = { s with regs := (s.setPc (issuer a) (s.pc (issuer a))).regs } := rfl
  have h15 : f.code ≠ 15 := Nat.ne_of_lt hf
  unfold State.fault
  rw [if_neg h15]
  show s.FaultedAt (s.settle ((s.setPc (issuer a) (s.pc (issuer a))).haltFault (issuer a) f op tag (s.ctx (issuer a)).layer
    (s.ctx (issuer a)).mbatch (s.pc (issuer a)) false)) a op tag f.code f.detail f.value
  generalize s.setPc (issuer a) (s.pc (issuer a)) = u at *
  have hb := u.haltFault_booked (issuer a) f op tag (s.ctx (issuer a)).layer (s.ctx (issuer a)).mbatch (s.pc (issuer a)) false
  have hst := u.halted_state (issuer a) f op tag (s.ctx (issuer a)).layer (s.ctx (issuer a)).mbatch (s.pc (issuer a)) false
  have hreg := fun {r : Reg} (h1 : r ≠ .cluUerr (clusterOf a.core)) (h2 : r ≠ .coreSqstat a.core) =>
    u.halted_reg (issuer a) f op tag (s.ctx (issuer a)).layer (s.ctx (issuer a)).mbatch (s.pc (issuer a)) false h1 h2
  have hf0 := u.faultRecord_flt0 (issuer a) f op tag (s.ctx (issuer a)).layer (s.ctx (issuer a)).mbatch (s.pc (issuer a)) false
  have hf1 := u.faultRecord_flt1 (issuer a) f op tag (s.ctx (issuer a)).layer (s.ctx (issuer a)).mbatch (s.pc (issuer a)) false
  have hf2 := u.faultRecord_flt2 (issuer a) f op tag (s.ctx (issuer a)).layer (s.ctx (issuer a)).mbatch (s.pc (issuer a)) false
  have hf3 := u.faultRecord_flt3 (issuer a) f op tag (s.ctx (issuer a)).layer (s.ctx (issuer a)).mbatch (s.pc (issuer a)) false
  have hfp := u.faultRecord_reg (issuer a) f op tag (s.ctx (issuer a)).layer (s.ctx (issuer a)).mbatch (s.pc (issuer a)) false
    (r := .ctxPc a.core a.n) (by simp) (by simp) (by simp) (by simp)
  have hev := u.haltFault_events (issuer a) f op tag (s.ctx (issuer a)).layer (s.ctx (issuer a)).mbatch (s.pc (issuer a)) false
  have hsrc := u.haltFault_source (issuer a) f op tag (s.ctx (issuer a)).layer (s.ctx (issuer a)).mbatch (s.pc (issuer a)) false
  have hrestH : u.halted (issuer a) f op tag (s.ctx (issuer a)).layer (s.ctx (issuer a)).mbatch (s.pc (issuer a)) false =
      { u with regs := (u.halted (issuer a) f op tag (s.ctx (issuer a)).layer (s.ctx (issuer a)).mbatch (s.pc (issuer a)) false).regs,
               core := { u.core with ctxs := (u.halted (issuer a) f op tag (s.ctx (issuer a)).layer (s.ctx (issuer a)).mbatch
                 (s.pc (issuer a)) false).core.ctxs } } := by
    have := u.faultRecord_rest (issuer a) f op tag (s.ctx (issuer a)).layer (s.ctx (issuer a)).mbatch (s.pc (issuer a)) false
    unfold State.halted
    generalize u.faultRecord (issuer a) f op tag (s.ctx (issuer a)).layer (s.ctx (issuer a)).mbatch (s.pc (issuer a)) false = v at *
    rw [this]
    rfl
  generalize u.haltFault (issuer a) f op tag (s.ctx (issuer a)).layer (s.ctx (issuer a)).mbatch (s.pc (issuer a)) false = t at *
  generalize u.halted (issuer a) f op tag (s.ctx (issuer a)).layer (s.ctx (issuer a)).mbatch (s.pc (issuer a)) false = h at *
  generalize u.faultRecord (issuer a) f op tag (s.ctx (issuer a)).layer (s.ctx (issuer a)).mbatch (s.pc (issuer a)) false = q at *
  have hall : t = { s with regs := t.regs, core := { s.core with ctxs := t.core.ctxs }, host := t.host, obs := t.obs, svc := t.svc,
                           events := t.events, out := t.out } := by
    have h1 := hb.rest
    rw [hrestH, hrest0] at h1
    rw [h1]
  have hset : s.settle t = t := by
    refine State.settle_of_same ?_ ?_ ?_
    · rw [hall]; exact hs
    · rw [hall]
    · rw [hall]
  rw [hset]
  have hctx : ∀ y, t.ctx y = h.ctx y := hb.ctx
  have hcx : t.ctx (issuer a) = { s.ctx (issuer a) with wait := none, why := 1 } := by rw [hctx, hst.2.1, hc0]
  have hlost : (u.flag (.ctxFlt0 a.core a.n) F.ctxFlt0_VALID || u.flag (.ctxFlt0 a.core a.n) F.ctxFlt0_LOST) =
      (s.flag (.ctxFlt0 a.core a.n) F.ctxFlt0_VALID || s.flag (.ctxFlt0 a.core a.n) F.ctxFlt0_LOST) := by
    simp only [State.flag, State.fld, hr0 (.ctxFlt0 a.core a.n) (by simp)]
  have e0 : t.reg (.ctxFlt0 a.core a.n) = _ := (hb.regs (.ctxFlt0 a.core a.n) rfl).trans ((hreg (by simp) (by simp)).trans hf0)
  have e1 : t.reg (.ctxFlt1 a.core a.n) = _ := (hb.regs (.ctxFlt1 a.core a.n) rfl).trans ((hreg (by simp) (by simp)).trans hf1)
  have e2 : t.reg (.ctxFlt2 a.core a.n) = _ := (hb.regs (.ctxFlt2 a.core a.n) rfl).trans ((hreg (by simp) (by simp)).trans hf2)
  have e3 : t.reg (.ctxFlt3 a.core a.n) = _ := (hb.regs (.ctxFlt3 a.core a.n) rfl).trans ((hreg (by simp) (by simp)).trans hf3)
  have ep : t.reg (.ctxPc a.core a.n) = u.reg (.ctxPc a.core a.n) :=
    (hb.regs (.ctxPc a.core a.n) rfl).trans ((hreg (by simp) (by simp)).trans hfp)
  have eq : t.reg (.coreSqstat a.core) = h.reg (.coreSqstat a.core) := hb.regs (.coreSqstat a.core) rfl
  have hm0 : ∀ i, i < 64 → ¬ (56 ≤ i ∧ i < 61) → (Reg.ctxFlt0 a.core a.n).mask.getLsbD i = true := by
    intro i h1 h2
    have : (Reg.ctxFlt0 a.core a.n).mask = 0xE0FFFFFFFFFFFFFF := rfl
    rw [this]
    interval_cases i <;> first | rfl | omega
  have fl (f0 : Nat × Nat) (h1 : f0.1 + f0.2 ≤ 64) (h2 : f0.1 + f0.2 ≤ 56 ∨ 61 ≤ f0.1) :
      t.fld (.ctxFlt0 a.core a.n) f0 = flt0Value f op tag (s.ctx (issuer a)).layer (s.ctx (issuer a)).mbatch false
        (s.flag (.ctxFlt0 a.core a.n) F.ctxFlt0_VALID || s.flag (.ctxFlt0 a.core a.n) F.ctxFlt0_LOST) / 2 ^ f0.1 % 2 ^ f0.2 := by
    rw [State.fld, e0, ← hlost]
    exact flt0_field _ _ _ _ h1 fun i hi => hm0 _ (by omega) (by omega)
  have ht := tag.isLt
  have hla := (s.ctx (issuer a)).layer.isLt
  have hmb := (s.ctx (issuer a)).mbatch.isLt
  have hbl : ∀ b : Bool, b2n b < 2 := fun b => by cases b <;> decide
  have hl2 := hbl (s.flag (.ctxFlt0 a.core a.n) F.ctxFlt0_VALID || s.flag (.ctxFlt0 a.core a.n) F.ctxFlt0_LOST)
  have hb0 : b2n false = 0 := rfl
  simp only [flt0Value, hb0] at fl
  constructor
  case halted =>
    have := hst.1
    simp only [State.ctxState, State.fld, issuer] at *
    rw [eq, this]
  case pc =>
    rw [← hsp]
    simp only [State.pc, State.fld, issuer, ep]
  case code => rw [fl _ (by decide) (by decide)]; simp only; omega
  case detail => rw [fl _ (by decide) (by decide)]; simp only; omega
  case op => rw [fl _ (by decide) (by decide)]; simp only; omega
  case optag => rw [fl _ (by decide) (by decide)]; simp only; omega
  case layer => rw [fl _ (by decide) (by decide)]; simp only; omega
  case mbatch => rw [fl _ (by decide) (by decide)]; simp only; omega
  case precise =>
    rw [State.flag, fl _ (by decide) (by decide), beq_eq_false_iff_ne]; simp only; omega
  case valid =>
    rw [State.flag, fl _ (by decide) (by decide), beq_iff_eq]
    generalize b2n (_ || _) = L at *
    simp only
    omega
  case lost =>
    intro hv
    rw [hv] at fl
    have : b2n (true || s.flag (.ctxFlt0 a.core a.n) F.ctxFlt0_LOST) = 1 := by simp [b2n]
    rw [State.flag, fl _ (by decide) (by decide), beq_iff_eq, this]; simp only; omega
  case iaddr =>
    rw [State.fld, e1, getBits_and_mask, getBits_ofNat _ _ (by decide)]
    · simp only; omega
    · intro i hi
      have hm : (Reg.ctxFlt1 a.core a.n).mask = 0xFFFFFFFFFFFF := rfl
      have : i < 48 := hi
      simp only [issuer, hm]
      interval_cases i <;> rfl
  case value => exact e2
  case step =>
    rw [State.fld, e3, getBits_and_mask, getBits_ofNat _ _ (by decide)]
    · have : u.stepOf (issuer a) = s.reg (.ctxStep a.core a.n) := hr0 _ (by simp)
      rw [this]
      simp only
      omega
    · intro i hi
      have hm : (Reg.ctxFlt3 a.core a.n).mask = 0xFFFFFFFFF := rfl
      have : i < 32 := hi
      simp only [issuer, hm]
      interval_cases i <;> rfl
  case sregs => intro r; simp [State.sreg, hcx]
  case preds => intro p; simp [State.pred, hcx]
  case tiles => intro d; simp [State.tile, hcx]
  case others => intro y hy; rw [hctx, hst.2.2 y hy, hc0]
  case slots => rw [hall]
  case memory =>
    intro b
    rw [hall]
    rfl
  case source => exact hsrc
  case event =>
    intro hl
    have he : u.events = s.events := by rw [hrest0]
    obtain ⟨d, hd⟩ := hev (by rw [he]; exact hl)
    exact ⟨d, by rw [hd, he]; rfl⟩

/-- An instruction that its words or its issue turn away with a fault. -/
theorem execIns_faulted {s : State} {a : At} {op words : Nat} {tag : OpTag} {bad : Bool} {body : Ins → State → State} {f : Flt}
    (h : s.Issues a op) (hw : words = opWords op) (hb : bad = false) (hbody : body (s.ins (issuer a) op words tag) s = s.fault (s.ins (issuer a) op words tag) f)
    (hf : f.code < 15) (hd : f.detail < 16) (ho : op < 256) :
    ∃ t, execIns a op words tag bad body s = .next t ∧ s.FaultedAt t a op tag f.code f.detail f.value :=
  ⟨_, execIns_body h hw hb, by
    rw [hbody]
    exact State.fault_faulted h.idle hf hd ho⟩

end Sys2Proof.Machine
end

