-- ==== Sys2Proof/Laws/Runs.lean ====
section
/-!
SUPPORT. Every command runs to a next state: what that says about the queue and memory of the state it answers.
-/

namespace Sys2Proof.Machine

/-- Every command answers a next state, which its effect leaves once its stores have reached memory. -/
theorem exec_settles (i : Instr) (s : State) : ∃ t : State, exec i s = .next (s.settle t) := by
  cases i
  case controlWindowNarrowAccess => simp only [exec, execControlWindowNarrowAccess]; split <;> exact ⟨_, rfl⟩
  all_goals exact ⟨_, rfl⟩

end Sys2Proof.Machine
end

