-- ==== Sys2Proof/Tests/Slice0.lean ====
section
/-!
SUPPORT. Tests of the model: ill-formed commands that the check refuses; small examples from the spec's text; and for the statements, states
and operands that meet their hypotheses.
-/

namespace Sys2Proof.Tests

open Sys2Proof Sys2Proof.Machine

set_option maxRecDepth 20000

/-! ## A small state -/

/-- Context 0 of core 0. -/
def x0 : CtxId := ⟨0, 0⟩

/-- An unguarded instruction of context 0 of core 0. -/
def at0 : At := { core := 0, n := 0, gp := 0, gn := false, rsv := false }

/-- The state after power-up, with power, with registers as listed. -/
def withRegs (l : List (Reg × Word)) : State := { State.reset with regs := l, pow := { State.reset.pow with off := false } }

/-- Registers of a module in full service: 12 stacks on each die; core 0 usable and its context 0 running at privilege 2 at PC 0x1000; 1 GiB
from 0 for code and 1 GiB from 0x40000000 for data; cleats 0 to 7. -/
def baseRegs : List (Reg × Word) :=
  [(.clkBrstat, 0x3), (.coreCstat 0, 0x8F), (.coreSqstat 0, 1), (.ctxPc 0 0, 0x1000), (.memCfg 0, 12), (.memCfg 1, 12),
   (.ctxCfg 0 0, 6), (.pwin 0 0, 0x0010000000000005), (.pwin 0 1, 0x0010000040000003), (.clr 0 0, 0x800), (.spkmBlk, 0x100111), (.cluDrlstat 0, 0)]

/-- A module in full service, with more registers and the state of context 0 as given. -/
def mk (l : List (Reg × Word)) (c : Ctx) : State :=
  let s := withRegs (l ++ baseRegs)
  { s with core := { s.core with ctxs := [(x0, c)] } }

/-- A module in full service. -/
def base : State := mk [] Ctx.reset

/-- The same with scalar registers. -/
def withSregs (l : List (R5 × Word)) : State := mk [] { Ctx.reset with sreg := l }

/-- A row-major window at the corner of a tensor of its own size, with a pitch of 64 bytes: format, SMODE, rows, columns, ADDR, AUX, HDR. -/
def tileOf (fmt smode rows cols addr aux hdr : Nat) : Desc :=
  { d0 := BitVec.ofNat 64 addr, d1 := BitVec.ofNat 64 aux, d2 := BitVec.ofNat 64 hdr, d3 := BitVec.ofNat 64 (rows + 2 ^ 32 * cols), d4 := 0,
    d5 := BitVec.ofNat 64 (rows + 2 ^ 16 * cols + 2 ^ 32 * 64 + 2 ^ 56 * 127), d6 := BitVec.ofNat 64 (1 + 2 ^ 24 * fmt + 2 ^ 28 * smode + 2 ^ 32 * 64),
    d7 := 0 }

/-- The memory cells of bytes at an address. -/
def cellsAt (a : Nat) (bs : List Byte) : List Host.Cell := ((List.range bs.length).zip bs).filterMap fun q => if q.2 = 0 then none else some (a + q.1, q.2)

/-- A state with bytes of memory. -/
def withCells (s : State) (l : List Host.Cell) : State := { s with mem := ⟨l, []⟩ }

/-- What `Issues` asks, decided at once for every opcode. -/
theorem issues_of (s : State) (a : At) (h : s.stores = [] ∧ s.canIssue (issuer a) = true ∧ (∀ n : Fin 3, s.fetch (issuer a) (s.pc (issuer a)) n.val = (s, none)) ∧
    a.rsv = false ∧ (s.pred (issuer a) a.gp ^^ a.gn) = true ∧ s.phase = 3) (op : Nat) : s.Issues a op :=
  ⟨h.1, h.2.1, by unfold opWords; split; exacts [h.2.2.1 2, h.2.2.1 1], h.2.2.2.1, h.2.2.2.2.1, fun _ => h.2.2.2.2.2⟩

/-- A pair whose second part is known. -/
theorem pair_eq {α β : Type} {p : α × β} {b : β} (h : p.2 = b) : p = (p.1, b) := by cases p; cases h; rfl

/-- A state at another time. -/
def timed (s : State) (t : Nat) : State := { s with time := t }

/-- The address of cleat 0 of core 0. -/
def cleat0 : Nat := 0xFF0000000000 + (Reg.clt 0 0).offset
/-! ## Well-formed commands -/

/-- One ill-formed term for each check of `Instr.wf`. -/
theorem test_wf_refuses_each_ill_formed_command : [
    Instr.registerWrite ⟨.driver, 4, .w8⟩ 0, .rcCounterRead ⟨.driver, 2, .w4⟩, .codewordReceive 0 [] 0 0 0, .ctrlCreditAck 0 0 [],
    .bar0Access 0x3FFFFFF 4 false [], .bar0Access 0 4 true [0], .bar2Access 0 0 false [], .issueWindowWrite 0 0xFFF [0, 0],
    .stepStart [⟨2 ^ 24 + 16, 0, 0, 0, false, false⟩] [] false, .stepStart [] [(2 ^ 24, 0)] false, .mctpControl 1 (List.replicate 65 0),
    .sbImagePiece [0], .challenge 0 [], .getMeasurements 1 true false [], .traceRecordWrite 258].all (fun i => !i.wf) = true := by decide

theorem test_wf_admits_aligned_accesses : [
    Instr.registerWrite ⟨.driver, 4, .w4⟩ 0, .rcCounterRead ⟨.driver, 8, .w8⟩, .bar0Access 0x3FFFFFC 4 false [],
    .issueWindowWrite 0 0xFF8 (List.replicate 8 0), .traceRecordWrite 257].all Instr.wf = true := by decide

/-! ## The step and the invariant -/

theorem witness_StepRunsTheFrontCommand : { base with pending := [.nop at0, .nop at0] }.pending = .nop at0 :: [.nop at0] := rfl

theorem witness_EveryStepAnswersAState : { base with pending := [.nop at0] }.pending = .nop at0 :: [] ∧ base.pending = [] := ⟨rfl, rfl⟩

theorem witness_StepKeepsTheInvariant : State.reset.Inv ∧ step State.reset = .next State.reset := ⟨⟨rfl, rfl⟩, rfl⟩

theorem witness_IdleTickMovesTime : State.reset.pow.off = true ∧ base.pending = [] ∧ base.pow.off = false ∧
    -10 < base.fab.timeAdjust ∧ base.fab.timeAdjust < 10 := by decide

/-! ## Scalar instructions and branches -/

/-- Every opcode issues in the small state: the hypothesis of each scalar statement. -/
theorem base_issues (op : Nat) : base.Issues at0 op := issues_of _ _ (by decide) op

theorem witness_ScalarSumsAndProducts : base.Issues at0 0x02 ∧ base.Issues at0 0x28 := ⟨base_issues _, base_issues _⟩

theorem witness_ScalarLogicShiftsAndExtremes : base.Issues at0 0x24 ∧ (63 : Imm).toNat < 64 ∧ base.Issues at0 0x29 :=
  ⟨base_issues _, by decide, base_issues _⟩

theorem witness_PredicatesTakeRelations : (7 : R5).val < 8 ∧ (0 : R5).val < 8 ∧ base.Issues at0 0x11 ∧ base.Issues at0 0x01 :=
  ⟨by decide, by decide, base_issues _, base_issues _⟩

theorem witness_SpecialRegistersReadAndWrite : base.Issues at0 0x2E ∧ (9 : Imm).toNat < 10 ∧ 10 ≤ (10 : Imm).toNat ∧
    base.Issues at0 0x2F ∧ (4 : Imm).toNat = 4 ∧ (5 : Imm).toNat = 5 ∧ (6 : Imm).toNat ≠ 4 ∧ (6 : Imm).toNat ≠ 5 :=
  ⟨base_issues _, by decide, by decide, base_issues _, by decide, by decide, by decide, by decide⟩

/-- A branch to address 0, the first of the EXEC window, and one to 0x40000000, the first after it; jr to its last word and to an address
that is no multiple of 8. -/
theorem witness_BranchesSetThePc : base.Issues at0 0x40 ∧ base.execWindow 0 (BitVec.ofNat 64 0x1000 + 8 * (-512 : Imm).signExtend 64).toNat = true ∧
    base.execWindow 0 (BitVec.ofNat 64 0x1000 + 8 * (0x7FFFE00 : Imm).signExtend 64).toNat = false ∧
    base.execWindow 0 0x3FFFFFF8 = true ∧ 0x3FFFFFF8 % 8 = 0 ∧ 0x1001 % 8 ≠ 0 ∧
    (withSregs [(1, 2)]).sreg x0 1 - 1 ≠ 0 ∧ (withSregs [(1, 1)]).sreg x0 1 - 1 = 0 := by
  exact ⟨base_issues _, by decide, by decide, by decide, by decide, by decide, by decide, by decide⟩

theorem test_srd_context_number : (match exec (.srd at0 1 0) base with | .next t => t.sreg x0 1 | _ => 7) = 0 := by decide

theorem test_add_wraps : (match exec (.addSub at0 .add 1 2 3) (withSregs [(2, -1), (3, 1)]) with
    | .next t => (t.sreg x0 1, t.pc x0) | _ => (7, 0)) = (0, 0x1008) := by decide

theorem test_mulhs_of_minus_one : (match exec (.mulhuMulhs at0 true 1 2 2) (withSregs [(2, -1)]) with
    | .next t => t.sreg x0 1 | _ => 7) = 0 := by decide

theorem test_loop_stops_at_zero : (match exec (.loop at0 1 (-2)) (withSregs [(1, 1)]) with
    | .next t => (t.sreg x0 1, t.pc x0) | _ => (7, 0)) = (0, 0x1008) := by decide

/-! ## Memory -/

/-- Reads and writes of every width reach the last bytes of the data window. -/
theorem witness_LocalLoadsReadMemory : (withSregs [(1, 0x7FFFFFFF)]).Reaches x0 0x7FFFFFFF 1 false 0x7FFFFFFF ∧
    base.Reaches x0 0x7FFFFFF8 8 false 0x7FFFFFF8 ∧ base.Reaches x0 0x7FFFFFC0 64 false 0x7FFFFFC0 :=
  ⟨⟨rfl, by decide, by decide, by decide, by decide⟩, ⟨rfl, by decide, by decide, by decide, by decide⟩,
   ⟨rfl, by decide, by decide, by decide, by decide⟩⟩

theorem witness_LocalStoresWriteMemory : (withSregs [(1, 0x40000000)]).Reaches x0 0x40000000 1 true 0x40000000 ∧
    base.Reaches x0 0x7FFFFFF8 8 true 0x7FFFFFF8 ∧ base.Reaches x0 0x7FFFFFC0 64 true 0x7FFFFFC0 :=
  ⟨⟨rfl, by decide, by decide, by decide, by decide⟩, ⟨rfl, by decide, by decide, by decide, by decide⟩,
   ⟨rfl, by decide, by decide, by decide, by decide⟩⟩

theorem witness_MisalignedAccessFaults : base.Issues at0 0x31 ∧ (1 : Word).toNat % 2 ≠ 0 ∧ (2 : Word).toNat % 4 ≠ 0 ∧ (4 : Word).toNat % 8 ≠ 0 ∧
    (32 : Word).toNat % 64 ≠ 0 := ⟨base_issues _, by decide, by decide, by decide, by decide⟩

/-- One address of each kind that faults, at the limits of its range: kind 3; kind 0 with module bits; kind 1 with number 8,256 and outside the
block; kind 2 with a handle that is not open. -/
theorem witness_GlobalAddressesThatFault : (0xC000000000000000 : Word).toNat / 2 ^ 62 = 3 ∧
    (0x0001000000000000 : Word).toNat / 2 ^ 48 % 2 ^ 14 ≠ 0 ∧ (0x6040000000000000 : Word).toNat / 2 ^ 48 % 2 ^ 14 = 8256 ∧
    base.inBlock 1 = false ∧ (∀ q ∈ base.plt.pelotons, q.handle ≠ 0) ∧ base.Issues at0 0x33 :=
  ⟨by decide, by decide, by decide, by decide, by decide, base_issues _⟩

/-- The same module, in a block of two modules along x. -/
def base2 (l : List (R5 × Word)) : State := mk [(.spkmBlk, 0x100113)] { Ctx.reset with sreg := l }

/-- Module 1 of a block of two. -/
theorem witness_RemoteScalarAccessesTravel : (base2 [(1, 0x4001000040000000)]).Issues at0 0x33 ∧
    (base2 []).checkAccess x0 0x4001000040000000 8 false = .ok (.remote 1 0x40000000) ∧
    (base2 []).checkAccess x0 0x4001000040000000 8 true = .ok (.remote 1 0x40000000) ∧ (base2 []).tagFree = true ∧
    (base2 []).sameAddress x0 0x40000000 = false ∧ 1 ≠ (base2 []).lmn :=
  ⟨issues_of _ _ (by decide) _, rfl, rfl, by decide, by decide, by decide⟩

theorem test_store_then_byte : (match exec (.st at0 .h 2 1 0) (withSregs [(1, 0x40000000), (2, 0x1234)]) with
    | .next t => (t.byte 0x40000000, t.byte 0x40000001, t.byte 0x40000002) | _ => (0, 0, 0)) = (0x34, 0x12, 0) := by decide

/-! ## Contexts -/

theorem witness_ZeroRegisterAndTruePredicate : base.Issues at0 0x28 ∧ base.Issues at0 0x11 := ⟨base_issues _, base_issues _⟩


/-- A fault record stands already. -/
def faulted : State := mk [(.ctxFlt0 0 0, 0x8000000000000000)] Ctx.reset

theorem witness_LaterFaultOverwritesTheRecord : faulted.Issues at0 0x45 ∧ faulted.flag (.ctxFlt0 0 0) F.ctxFlt0_VALID = true :=
  ⟨issues_of _ _ (by decide) _, by decide⟩

theorem witness_ReservedBitsAndGuards : base.stores = [] ∧ base.canIssue x0 = true ∧ base.fetch x0 (base.pc x0) 1 = (base, none) ∧
    ({ at0 with rsv := true } : At).rsv = true ∧ (base.pred x0 0 ^^ true) = false ∧
    (mk [(.ctxPc 0 0, 0x40000000)] Ctx.reset).canIssue x0 = true ∧
    (mk [(.ctxPc 0 0, 0x40000000)] Ctx.reset).pc x0 % 8 = 0 ∧ (mk [(.ctxPc 0 0, 0x40000000)] Ctx.reset).mayFetch x0 0x40000000 = false ∧
    (mk [(.ctxPc 0 0, 0x1004)] Ctx.reset).canIssue x0 = true ∧ (mk [(.ctxPc 0 0, 0x1004)] Ctx.reset).pc x0 % 8 ≠ 0 := by decide

/-- A store's fault of the context has been found and has not been taken. -/
def asyncFault (store : Bool) : AsyncFault := ⟨x0, store, 6, 0, 0x3A, 0x1000, 0, 0, 0, 0⟩

/-- The small state with such a fault. -/
def withFault (store : Bool) : State := { base with core := { base.core with faults := [asyncFault store] } }

/-- Context 0 is privileged and context 1 loaded. -/
def driverBase : State := mk [(.ctxCfg 0 0, 5), (.ctxCfg 0 1, 6)] { Ctx.reset with sreg := [(1, 1)] }

theorem witness_HaltTrapFencesAndContextControl : base.Issues at0 0x45 ∧ base.quietM x0 = true ∧ base.quietT x0 = true ∧
    (withFault true).Issues at0 0x46 ∧ (withFault true).quietM x0 = false ∧ (withFault true).quietT x0 = false ∧
    (∀ g ∈ base.core.bg, g.x ≠ x0) ∧ (base.ctx x0).startCleats = [] ∧ (8 : Imm).toNat = 8 ∧ base.privOf x0 = .job ∧
    driverBase.Issues at0 0x48 ∧ driverBase.privOf x0 = .driver ∧ driverBase.phase = 3 ∧ driverBase.sreg x0 1 = 1 ∧
    driverBase.ctxState ⟨0, 1⟩ = 0 ∧ driverBase.flag (.ctxCfg 0 1) F.ctxCfg_LOADED = true :=
  ⟨base_issues _, by decide, by decide, issues_of _ _ (by decide) _, by decide, by decide, by decide, by decide, by decide, by decide,
   issues_of _ _ (by decide) _, by decide, by decide, by decide, by decide, by decide⟩

/-- A program image at 0x2000 (R149, R150): its header, an operation table of one entry, and one word of code. -/
def image : List Host.Cell := cellsAt 0x2000 (List.flatten
  [toBytes 4 0x31534959, toBytes 2 1, toBytes 2 0, toBytes 4 0x80, toBytes 4 8, toBytes 4 0, toBytes 4 0x40, toBytes 4 1, toBytes 4 0,
   toBytes 8 7, List.replicate 24 0, toBytes 4 1, toBytes 4 0, toBytes 4 5, toBytes 4 1, toBytes 4 1, toBytes 4 1,
   List.replicate 8 0, List.replicate 32 0, toBytes 8 1])

/-- Context 0 is idle and its IMAGE names the image; it is loaded if `loaded`. -/
def idleBase (state : Word) (loaded : Word) : State :=
  withCells (mk [(.coreSqstat 0, state), (.ctxCfg 0 0, 0x2002 + loaded)] Ctx.reset) image

theorem witness_ContextCommandsAct_load :
    let s := idleBase 0 0
    s.fld (.ctxCfg 0 0) F.ctxCfg_IMAGE * 64 = 0x2000 ∧ s.num 0x2014 4 = 0x40 ∧ s.num 0x2018 4 = 1 ∧ s.num 0x2008 4 = 0x80 ∧
    s.ctxState x0 = 0 ∧ s.flag (.coreCstat 0) F.coreCstat_USABLE = true ∧ (∀ q ∈ probes 0x2000 64, s.populated (s.privOf x0) q = true) ∧
    (∀ q ∈ probes 0x2040 32, s.populated (s.privOf x0) q = true) ∧ s.flawed 0x2000 64 = [] ∧ s.flawed 0x2040 32 = [] ∧ s.badHeader 0x2000 = none ∧
    s.badTable 0x2040 1 = none ∧ s.noFetch x0 0x2080 8 = none ∧ s.noRead x0 0x2040 32 = none ∧ s.disagrees x0 7 (s.tableEntry 0x2040) = false := by
  decide

theorem witness_ContextCommandsAct : Priv.hub ≠ .job ∧ (idleBase 0 4).ctxState x0 = 0 ∧ (idleBase 0 4).flag (.ctxCfg 0 0) F.ctxCfg_LOADED = true ∧
    (idleBase 0 4).phase = 3 ∧ base.ctxState x0 = 1 ∧ base.isMoved x0 = false ∧ base.atBoundary x0 = true ∧ (idleBase 4 4).ctxState x0 = 4 ∧
    ((idleBase 4 4).ctx x0).bracket = none ∧ (base.ctx x0).bracket = none ∧ base.settled x0 = true := by decide

theorem witness_JobCommandsAreIgnored : base.stores = [] ∧ base.pstate (clusterOf 0) = 0 ∧ base.ctxState x0 ≠ 0 ∧ base.ctxState x0 ≠ 4 ∧
    (idleBase 0 4).ctxState x0 = 0 ∧ (idleBase 4 4).ctxState x0 = 4 ∧ (idleBase 4 4).pstate (clusterOf 0) = 0 := by decide

theorem test_load_reads_the_image : (match exec (.ctxLoad .driver x0) (idleBase 0 0) with
    | .next t => (t.pc x0, (t.ctx x0).job, (t.ctx x0).table.length) | _ => (0, 0, 0)) = (0x2080, 7, 1) := by decide

/-! ## Descriptors, cleats and background work -/

/-- Context 0 with descriptors and scalar registers. -/
def withTiles (l : List (T4 × Desc)) (r : List (R5 × Word)) : State := mk [] { Ctx.reset with tile := l, sreg := r }

/-- Two FP32 windows of 2 x 4 elements in the data window. -/
def fp32a : Desc := tileOf 6 0 2 4 0x40000000 0 0
def fp32b : Desc := tileOf 6 0 2 4 0x40001000 0 0

/-- tadv by +1 and to the last row number, and one row too far; a column step of an S4 window that is odd; steps of auxiliary layouts that are
not whole. -/
theorem witness_DescriptorInstructions : (withTiles [(1, fp32a)] [(1, 1)]).Issues at0 0x64 ∧ fp32a.rlog = 0 ∧ fp32a.aux = .none ∧
    (0 : Int) ≤ fp32a.rowoff + (1 : Word).toInt ∧ fp32a.rowoff + (0xFFFFFFFF : Word).toInt < 2 ^ 32 ∧ fp32a.rowoff + (-1 : Word).toInt < 0 ∧
    2 ^ 32 ≤ fp32a.rowoff + (0x100000000 : Word).toInt ∧ (tileOf 0 1 2 4 0 0 0).fmt = 0 ∧ (tileOf 0 2 2 4 0 0 0).aux = .cols ∧
    (tileOf 7 0 2 4 0 0 0).aux = .bm ∧ (tileOf 8 0 2 4 0 0 0).aux = .a128 ∧ (tileOf 0 3 2 4 0 0 0).aux = .rows ∧ (31 : Word).toInt % 32 ≠ 0 :=
  ⟨issues_of _ _ (by decide) _, by decide, by decide, by decide, by decide, by decide, by decide, by decide, by decide, by decide, by decide,
   by decide, by decide⟩

/-- Context 0 waits at cleat 7 for 1. -/
def cleatWaiter (v : Word) : State := mk [(.coreSqstat 0, 2), (.clt 0 7, v)] { Ctx.reset with wait := some (.cleat 7 0 1 0 0) }

theorem witness_CleatInstructions : base.Issues at0 0xE0 ∧ base.cleatOk x0 7 1 = true ∧ base.cleatOk x0 8 1 = false ∧
    base.pstate (clusterOf 0) = 0 ∧ base.core.heldAdds = [] ∧ ((0 : Imm).signExtend 64).toInt ≤ ((0 : Word) - 0).toInt ∧
    ¬ ((1 : Imm).signExtend 64).toInt ≤ ((0 : Word) - 0).toInt ∧ (7 : R5).val < 8 ∧ (cleatWaiter 1).ctxState x0 = 2 ∧
    ((cleatWaiter 1).ctx x0).wait = some (.cleat 7 0 1 0 0) ∧ (cleatWaiter 1).ctxRuns x0 = true ∧
    (1 : Word).toInt ≤ ((cleatWaiter 1).reg (.clt 0 7) - 0).toInt ∧ ¬ (1 : Word).toInt ≤ ((cleatWaiter 0).reg (.clt 0 7) - 0).toInt :=
  ⟨base_issues _, by decide, by decide, by decide, by decide, by decide, by decide, by decide, by decide, by decide, by decide, by decide, by decide⟩

theorem test_wait_holds_across_the_wrap : (match exec (.cleatWaitSatisfied x0) (cleatWaiter 1) with | .next t => t.ctxState x0 | _ => 9) = 1 := by decide

/-- An unanswered store of context 0 to module 1. -/
def req1 : Req := ⟨5, 47, .store, x0, 1, 1, 0x40000000, 0x1000, 0x3A, 0, 0, 0, 1, 0⟩

/-- A signal of context 0 that is held. -/
def held : HeldSignal := ⟨x0, none, 0, BitVec.ofNat 64 cleat0, 1, [], []⟩

theorem witness_SignalsReachCleats_here : base.target (BitVec.ofNat 64 cleat0) = some (.here cleat0) ∧ cleatAt cleat0 = some (0, 0) ∧
    cleat0 = lowAddr (BitVec.ofNat 64 cleat0) ∧ base.spanFault x0 (.here cleat0) 8 true = none ∧ base.bridgeCut 0 (.here cleat0) = false ∧
    (base.behind x0 (.here cleat0)).1 = [] ∧ (base.behind x0 (.here cleat0)).2 = [] ∧ base.core.signals = [] ∧ cleat0 % 8 = 0 := by decide

theorem witness_SignalsReachCleats_remote :
    let s := base2 []
    let g : Word := BitVec.ofNat 64 (2 ^ 62 + 2 ^ 48 + cleat0)
    let u : State := { s with fab := { s.fab with reqs := [req1] } }
    s.target g = some (.remote 1 cleat0) ∧ 1 ≠ s.lmn ∧ s.spanFault x0 (.remote 1 cleat0) 8 true = none ∧ (s.behind x0 (.remote 1 cleat0)).1 = [] ∧
    (s.behind x0 (.remote 1 cleat0)).2 = [] ∧ u.target g = some (.remote 1 cleat0) ∧ (u.behind x0 (.remote 1 cleat0)).1 ≠ [] := by decide

theorem witness_SignalsReachCleats_faults : (cleatAt (lowAddr 0x40000000)).isNone = true ∧ base.released held = true := by decide

/-- A state with background work. -/
def withBg (s : State) (g : Bg) : State := { s with core := { s.core with bg := [g] } }

/-- Background work of context 0 on tiles t1 and t2. -/
def bgOf (k : BgKind) : Bg := ⟨0, x0, k, 1, 2, 0, 0x1000, 0, 0, 0, none, 0, noFctx, [], false, [], []⟩

/-- A gather into the Cassette of core 0 from a table of two rows. -/
def gatherTo : Desc := tileOf 6 0 1 8 0xF00000000000 0 0
def gatherFrom : Desc := tileOf 6 0 2 8 0x40000000 0 0

theorem witness_BackgroundTransfersStart :
    let s := withTiles [(1, fp32b), (2, fp32a)] [(1, 1)]
    let r := withTiles [(1, gatherTo), (2, gatherFrom)] [(1, 0x40002000)]
    s.canIssue x0 = true ∧ firstFault (s.agreeFaults fp32b fp32a 1 2 ++ s.cleatFaults x0 7 1) = none ∧ s.pumpFree 0 = true ∧
    s.target fp32a.d0 = some (.here 0x40000000) ∧
    (s.takeFctx 0 (s.isFar fp32b fp32a)).isSome = true ∧ firstFault (s.moveFaults x0 fp32b fp32a 1 2) = none ∧
    firstFault (s.agreeFaults fp32b fp32a 1 2 ++ s.cleatFaults x0 6 2) = none ∧ (s.sreg x0 1).toNat < 2 ^ 32 ∧ 0 < (s.sreg x0 1).toNat ∧
    firstFault (s.descFaults fp32a 2 true false false ++ s.cleatFaults x0 7 1) = none ∧
    firstFault (r.descFaults gatherTo 1 true false false ++ r.descFaults gatherFrom 2 true false false ++ gatherBad gatherTo gatherFrom ++
      r.cleatFaults x0 7 1) = none ∧ (r.sreg x0 1).toNat % 4 = 0 ∧ s.cleatOk x0 7 1 = true := by decide

/-- A stream of one transfer. -/
def stream1 (started : Nat) : Stream := { td := fp32b, ts := fp32a, n := 1, sb := 0, dir := false, depth := 0, d0 := 0, started := started, completed := 0, stopped := false }

theorem witness_BackgroundTransfersEnd_copy :
    let s := withBg base (bgOf (.tcopy fp32b fp32a))
    s.nthBg x0 0 BgKind.isCopy = some (bgOf (.tcopy fp32b fp32a)) ∧
    (match s.finishMove (bgOf (.tcopy fp32b fp32a)) 0 fp32b fp32a with | .finished u => u.pstate 0 == 0 | _ => false) = true := by decide

theorem witness_BackgroundTransfersEnd_stream :
    let s := withBg base (bgOf (.stream (stream1 0)))
    let r := withBg base (bgOf (.stream (stream1 1)))
    s.nthBg x0 0 BgKind.isStream = some (bgOf (.stream (stream1 0))) ∧ s.hasCredit (bgOf (.stream (stream1 0))) (stream1 0) = true ∧
    (stream1 0).windows 0 = some (fp32b, fp32a) ∧ (s.startMove (bgOf (.stream (stream1 0))) 0 fp32b fp32a).2 = none ∧
    s.hasCredit (bgOf (.stream (stream1 1))) (stream1 1) = false ∧ (stream1 1).completed < (stream1 1).started ∧
    (match r.finishMove (bgOf (.stream (stream1 1))) 0 fp32b fp32a with | .finished _ => true | _ => false) = true := by decide

theorem witness_BackgroundTransfersEnd_cache :
    let s := withBg base (bgOf (.cache fp32a [0x40000000]))
    s.nthBg x0 0 BgKind.isCache = some (bgOf (.cache fp32a [0x40000000])) ∧ firstFault (s.cacheFaults x0 fp32a 2) = none ∧
    linesOf (fp32a.planeRanges.map fun q => (lowAddr q.1 + q.2.1, q.2.2)) = [0x40000000] ∧
    (s.readRanges .pump [(0x40000000, 128), (0x40000000, 128)]).2 = none := by decide

theorem witness_BackgroundTransfersEnd_gather :
    let g := bgOf (.gather gatherTo gatherFrom 0x40002000 true)
    let s := withBg base g
    let u := ((s.sprocketReads 0 [(0x40002000, 4)]).readRange .sprocket 0x40002000 4).1
    s.nthBg x0 0 BgKind.isGather = some g ∧ firstFault (s.gatherFaults g gatherTo gatherFrom 0x40002000) = none ∧
    ((s.sprocketReads 0 [(0x40002000, 4)]).readRange .sprocket 0x40002000 4).2 = none ∧ (List.range 1).any (u.gatherOut gatherFrom 0x40002000 true) = false ∧
    ((u.sprocketReads 0 (gatherReads gatherTo gatherFrom (u.gatherRow gatherFrom 0x40002000))).readRanges .sprocket
      (gatherReads gatherTo gatherFrom (u.gatherRow gatherFrom 0x40002000))).2 = none := by decide

theorem witness_FaultsFoundAfterIssue : (withFault true).core.faults = asyncFault true :: [] ∧ (asyncFault true).x = x0 ∧ (asyncFault true).op < 256 ∧
    (withFault false).atBoundary x0 = true ∧ (withFault false).ctxState x0 = 1 := by decide

/-! ## Accumulating and converting instructions -/

/-- FP32 tiles of one element in the Cassette of core 0: 1.0, 2.0 and a place for results. -/
def oneA : Desc := tileOf 6 0 1 1 0xF00000000000 0 0
def oneB : Desc := tileOf 6 0 1 1 0xF00000000040 0 0
def oneC : Desc := tileOf 6 0 1 1 0xF00000000080 0 0

/-- The operation of tag 1: EXPLICIT, RNE, reduction length 1, one element. -/
def entry (anchor : Int) : OpEntry := ⟨1, 2, 1, anchor, 1, 1, 1, 1⟩

/-- An open bracket of a local operation. -/
def bracket : Bracket :=
  { serial := 0, op := ⟨1, 0, 0, 0, some x0⟩, nloc := 1, raise := 0, anchor := none, image := ⟨0x1000, [], [], [], 0, 0, []⟩, ended := none, sealed := false,
    fallback := false, aborted := false, begun := 0, nans := 0, wrote := [], tiles := 0, spots := 0, failed := false }

/-- Context 0 inside the bracket, with the two numbers in its Cassette. -/
def tensorBase (l : List (Reg × Word)) (anchor : Int) (a : Nat) : State :=
  withCells (mk l { Ctx.reset with tile := [(1, oneA), (2, oneB), (3, oneC)], sreg := [(1, 1)], table := [entry anchor], bracket := some bracket })
    (cellsAt 0xF00000000000 (toBytes 4 a) ++ cellsAt 0xF00000000040 (toBytes 4 0x40000000))

/-- EXPLICIT, RNE, all engines, reduction length from s1. -/
def prod1 : ProdF := { amode := 2, rnd := 1, emask := 15, z := false, sk := 1, ga := false, send := false, free := false }


theorem witness_MatrixProductsAccumulate :
    let s := tensorBase [] 0 0x3F800000
    let i := s.ins x0 0x87 1 1
    let u := (s.readRanges .quad (productReads oneA oneB prod1)).1
    let l := u.newLatch x0
    let q : AccOp := ⟨i, bracket, l, 0, true, 0, 1, .rne, oneC, 15⟩
    prodBad prod1 false false false = false ∧ firstFault (s.productFaults i .fp32 0 1 2 3 prod1 []) = none ∧
    (s.ctx x0).bracket = some bracket ∧ (s.readRanges .quad (productReads oneA oneB prod1)).2 = none ∧
    (match (u.productAnchor i l .fp32 1 2 2 1).2 with | .ok n => n.anchor == 0 | .error _ => false) = true ∧
    (match attemptAnchor bracket 0 with | .ok (some g) => g == 0 | _ => false) = true ∧
    (prodLive oneA oneB oneC prod1).length = 1 ∧
    (∀ c ∈ (prodLive oneA oneB oneC prod1).map (u.prodCell oneA oneB oneC), (q.sum c).ovf = false ∧ (q.sum c).k = 2 ∧ (q.sum c).st = .fin) ∧
    u.prodNans oneA oneB prod1 = [] := by decide

/-- A quiet NaN in A, met by a context whose trap is armed. -/
theorem witness_MatrixProductsAccumulate_trap :
    let s := tensorBase [(.fnan 0 0, 1)] 0 0x7FC00000
    s.armed x0 = true ∧ s.prodNans oneA oneB prod1 ≠ [] := by decide

theorem witness_MatrixProductsAccumulate_issues : (tensorBase [] 0 0x3F800000).Issues at0 0x87 := issues_of _ _ (by decide) _

/-- 1.0 times 2.0 on a grid of 2^-126 is 2^127 units, one too many (R38). -/
theorem witness_OverflowingProductsReplay :
    let s := tensorBase [] (-126) 0x3F800000
    let q : AccOp := ⟨s.ins x0 0x87 1 1, bracket, s.newLatch x0, 0, true, -126, 1, .rne, oneC, 15⟩
    bracket.op.ph = 0 ∧ bracket.raise < 3 ∧ bracket.aborted = false ∧ s.participants bracket.op = [x0] ∧ (s.ctxState x0 = 5 → s.isMoved x0 = true) ∧
    (∃ c ∈ (prodLive oneA oneB oneC prod1).map (s.prodCell oneA oneB oneC), (q.sum c).ovf = true) := by decide

/-- A stored A128 tile of one element, k 5 at anchor 0, in its window, auxiliary byte and header. -/
def accT : Desc := tileOf 9 0 1 1 0xF00000000100 0xF00000000140 0xF00000000180

/-- Context 0 inside the bracket with that tile as t1. -/
def loadBase : State :=
  withCells (mk [] { Ctx.reset with tile := [(1, accT), (2, oneA), (3, oneC)], sreg := [(1, 1)], table := [entry 0], bracket := some bracket })
    (cellsAt 0xF00000000000 (toBytes 4 0x3F800000) ++ cellsAt 0xF00000000100 (toBytes 1 5) ++ cellsAt 0xF00000000181 (toBytes 1 0x40))

/-- EXPLICIT, RNE, the sum of rows, reduction length from s1. -/
def red1 : RedF := { amode := 2, rnd := 1, sq := false, ax := 0, sk := 1 }

theorem witness_LoadsAndReductionsAccumulate :
    let s := loadBase
    let l := s.newLatch x0
    let q : AccOp := ⟨s.ins x0 0x88 1 1, bracket, l, 0, true, 0, 1, .rne, oneC, 15⟩
    let p : AccOp := ⟨s.ins x0 0xA3 1 1, bracket, l, 0, true, 0, 1, .rne, oneC, 15⟩
    firstFault (s.ldFaults (s.ins x0 0x88 1 1) 0 1 3 prod1) = none ∧
    (s.readRanges .quad ((ldParts accT prod1).map fun w => accT.ranges w true).flatten).2 = none ∧
    (match s.ldAnchor (s.ins x0 0x88 1 1) bracket prod1 with | .ok (some g) => g == 0 | _ => false) = true ∧ prod1.amode.val = 2 ∧
    (s.ldCells accT oneC prod1).length = 1 ∧ (∀ c ∈ s.ldCells accT oneC prod1, (q.sum c).ovf = false ∧ (q.sum c).k = 5 ∧ (q.sum c).st = .fin) ∧
    s.ldNans accT prod1 = [] ∧ s.nansIn oneA 1 (oneA.clip oneA.whole) = [] ∧
    firstFault (s.redFaults (s.ins x0 0xA3 1 1) 0 2 3 red1) = none ∧ red1.ax.val ≠ 3 ∧ red1.amode.val ≠ 3 ∧
    (s.readRanges .quad (oneA.ranges (oneA.clip oneA.whole) true)).2 = none ∧
    (match (s.redAnchor (s.ins x0 0xA3 1 1) l 2 red1 1).2 with | .ok (a, _) => a == 0 | .error _ => false) = true ∧
    (∀ c ∈ s.redCells oneA oneC red1, (p.sum c).ovf = false ∧ (p.sum c).st = .fin) ∧ (s.redCells oneA oneC red1).length = 1 := by decide

/-- The slot that the product leaves, its bracket closed, and tiles to store it to: A128 in 64 bits, FP32, and two E5M2 copies. -/
def slotBase (wide : Nat) : State :=
  let t := (after (exec (.mma at0 .fp32 0 1 2 3 prod1 1) (tensorBase [] 0 0x3F800000))).getD base
  let c := t.ctx x0
  let gwA := tileOf 2 2 1 1 0xF00000000200 0xF00000000240 0xF00000000280
  let gwB := tileOf 2 3 1 1 0xF00000000300 0xF00000000340 0xF00000000380
  let l : List (T4 × Desc) := [(1, tileOf wide 0 1 1 0xF00000000100 0xF00000000140 0xF00000000180), (2, oneC), (4, gwA), (5, gwB)]
  t.setCtx x0 { c with tile := l, bracket := none }

theorem witness_SlotsAreStoredAndConverted :
    let s := slotBase 9
    let A := s.tile x0 1
    let l := s.newLatch x0
    let j := s.ins x0 0x8A 1 1
    let k := s.ins x0 0xB0 1 1
    let h : DelayedMax := ⟨(0, 0), false, false⟩
    firstFault (s.stFaults (s.ins x0 0x89 1 1) 1 0) = none ∧ s.unfit 0 0 A = [] ∧ firstFault (s.cvtFaults j 2 0) = none ∧
    (match (s.cvtMax j l oneC 2 0).2 with | .ok _ => true | .error _ => false) = true ∧
    (s.slotNans 0 0 oneC, (s.cvtConv 0 0 oneC l h 0).nans) = ([], []) ∧ s.nanMet j [] [] oneC = none ∧ s.inFlight [0] 0xB0 x0 < 2 ∧ firstFault (s.gwFaults k 4 5 0) = none ∧
    (match (s.slotMax k l (s.tile x0 4) 4 (s.slotAnchor 0 0) (s.slotTag 0 0)).2 with | .ok _ => true | .error _ => false) = true := by decide

/-- An A128 form of 48 bits holds 2; one of an element of 2^50 does not. -/
theorem witness_SlotsAreStoredAndConverted_unfit :
    let s := slotBase 10
    let t := s.setSlot 0 0 { s.slot 0 0 with elems := [(0, ⟨2 ^ 50, .fin⟩)] }
    s.unfit 0 0 (s.tile x0 1) = [] ∧ t.unfit 0 0 (t.tile x0 1) ≠ [] ∧ firstFault (t.stFaults (t.ins x0 0x89 1 1) 1 0) = none := by decide

theorem test_mma_adds_exactly : (slotBase 9).slot 0 0 = { elems := [(0, ⟨2, .fin⟩)], writer := some (0, 0, 0), step := 0 } := by decide

theorem witness_VectorInstructionsWriteTheirOutput :
    let s := tensorBase [] 0 0x3F800000
    let o := vecOpOf 0
    let r := s.readRanges .core (s.vecReads x0 3 1 2 o 0)
    firstFault (s.vecFaults (s.ins x0 0xA0 1 0) 3 1 2 o 0) = none ∧ r.2 = none ∧
    (match (r.1.vecMax (s.ins x0 0xA0 1 0) (r.1.newLatch x0) 3 1 2 o 0).2 with | .ok _ => true | .error _ => false) = true ∧
    r.1.vecNans x0 3 1 2 o 0 = [] ∧ s.nanMet (s.ins x0 0xA0 1 0) [] [] oneC = none ∧ firstFault (s.vecFaults (s.ins x0 0xA1 1 0) 3 1 0 (vecFnOf 9) 0) = none ∧
    firstFault (s.vecFaults (s.ins x0 0xA2 1 0) 3 1 2 (vecDfnOf 1) 0) = none ∧ (12 : Fin 32).val < 13 ∧ 13 ≤ (13 : Fin 32).val := by decide

/-- Weights and a moment in BM16 and a gradient in FP32, 1 x 32, in DRAM; a parameter block of zeros. -/
def updBase : State :=
  mk [] { Ctx.reset with
    tile := [(1, tileOf 7 0 1 32 0x40000000 0x40000100 0), (2, tileOf 7 0 1 32 0x40000200 0x40000300 0),
             (4, { tileOf 6 0 1 32 0x40000400 0 0 with d5 := BitVec.ofNat 64 (1 + 2 ^ 16 * 32 + 2 ^ 32 * 128 + 2 ^ 56 * 127) })]
    sreg := [(1, 0x40001000)] }

theorem witness_UpdatesWriteMomentsAndWeights :
    let s := updBase
    let i := s.ins x0 0xB8 1 0
    let ws := s.updWindows x0 1 2 3 4 false
    let r := s.readServed .crank 0 ((0x40001000, 64) :: ws)
    firstFault (s.updFaults i 1 2 3 4 1 false) = none ∧ (ws.all fun q => !s.snapHolds q.1 q.2) = true ∧ r.2 = none ∧ s.nanMet i [] [] fp32a = none ∧
    s.inFlight (s.crankCores (s.crankUnit 0)) 0xB8 x0 < 16 ∧
    (r.1.updChecked x0 1 2 3 4 false).2 = none := by decide

/-- A snapshot copies the weights and its copy is unanswered. -/
theorem witness_UpdatesWriteMomentsAndWeights_wait :
    let s : State := { updBase with
      plt := { updBase.plt with snap := some ⟨false, 0, [(0x40000000, 0x1000)], none, 0x1000, none⟩ }
      fab := { updBase.fab with reqs := [⟨5, 47, .snapshot 0, x0, 1, 1, 0x40000000, 0x1000, 0, 0, 0, 0, 1, 0⟩] } }
    ∃ q ∈ s.updWindows x0 1 2 3 4 false, s.snapHolds q.1 q.2 = true := by decide

/-! ## Brackets, tiles and fused instructions -/

/-- A peloton of modules 0 and 1, one share each; layout of S stripes along rows; a gather cache of 1 MiB at the corner of the DRAM. -/
def pltDesc : PltDesc :=
  { axes := 1, sdim := false, slotok := true, jts1 := false, nshare := 2, epoch := 0, prio := 0, nexp := 4, gbase := 0x8000000, gsize := 1,
    shares := [0, 1], dhash := 7 }

/-- The peloton of handle 5, open. -/
def pelotonOf : Peloton := ⟨5, pltDesc, none, none, false⟩

/-- A state in which it is open. -/
def withPeloton (s : State) : State := { s with plt := { s.plt with pelotons := [pelotonOf] } }

/-- Context 0 with an operation table that names tag 1, outside any bracket: a local tag, or one under handle 5 with NLOC 1. -/
def beginBase (v : Word) : State := withPeloton (mk [] { Ctx.reset with table := [entry 0], sreg := [(1, v)] })

theorem witness_BracketsOpenSealAndCommit_begin :
    (beginBase 0).Issues at0 0x9C ∧ (beginBase 0).quietT x0 = true ∧ ((beginBase 0).ctx x0).bracket = none ∧ (beginBase 0).opEntry x0 1 ≠ none ∧
    (beginBase 0).cleatOk x0 7 1 = true ∧ (∃ n, ((beginBase 0).startRaise x0 1).2 = .ok n) ∧
    (beginBase 0x10005).Issues at0 0x9C ∧ (beginBase 0x10005).openHandle 5 = true ∧
    (let s := beginBase 0x10005
     let op : OpId := ⟨1, (s.ctx x0).mbatch, (s.stepOf x0).truncate 32, 5, none⟩
     (s.attempt op).cause = none ∧ s.participants op = []) :=
  ⟨issues_of _ _ (by decide) _, by decide, by decide, by decide, by decide, ⟨0, by decide⟩, issues_of _ _ (by decide) _, by decide, by decide⟩

/-- The local bracket at its op.end, waiting, sealed or not. -/
def atEnd (closed : Bool) : State :=
  let b : Bracket := { bracket with ended := some (7, true), sealed := closed }
  mk [(.coreSqstat 0, 2)] { Ctx.reset with table := [entry 0], wait := some .opEnd, bracket := some b }

theorem witness_BracketsOpenSealAndCommit_end : (tensorBase [] 0 0).Issues at0 0x9D ∧ ((tensorBase [] 0 0).ctx x0).bracket = some bracket ∧
    bracket.op.tag = 1 ∧ (tensorBase [] 0 0).cleatOk x0 7 1 = true ∧
    (∃ b, ((atEnd false).ctx x0).bracket = some b ∧ (atEnd false).maySeal x0 b = true ∧ b.op.ph = 0) ∧
    (let s := atEnd true
     let b : Bracket := { bracket with ended := some (7, true), sealed := true }
     (s.ctx x0).bracket = some b ∧ (s.ctx x0).wait = some .opEnd ∧ s.ctxState x0 = 2 ∧ b.aborted = false ∧ s.opSealed b.op = true ∧
     s.openParts x0 b.serial = [] ∧ s.bracketBusy x0 b.serial = false ∧ s.pstate (clusterOf 0) = 0) :=
  ⟨issues_of _ _ (by decide) _, by decide, by decide, by decide, ⟨{ bracket with ended := some (7, true) }, by decide, by decide, by decide⟩, by decide⟩

/-- A tile of context 0 runs. -/
def tileRuns : State := (after (exec (.mma at0 .fp32 0 1 2 3 prod1 1) (tensorBase [] 0 0x3F800000))).getD base

/-- The same with one more tile of the instruction to come. -/
def tilesRun : State :=
  let c := tileRuns.ctx x0
  tileRuns.setCtx x0 { c with run := c.run.map fun (t : TileRun) => { t with left := 1 } }

/-- The owner field of slot 0 changed to context 1 while the slot was in use. -/
def ownerWaits : State :=
  let s := (after (exec (.tileEnd x0 none) tileRuns)).getD base
  let t := s.setReg (.coreSqacc 0) 1
  { t with core := { t.core with owners := [(⟨0, 0⟩, 0)] } }

theorem witness_TilesAndOwnersChangeOver : ((tileRuns.ctx x0).run.isSome = true ∧ tileRuns.clockStands x0 = false ∧
    tileRuns.flag (.corePairctl 0) F.corePairctl_ACTIVE = false ∧ (∀ t ∈ (tileRuns.ctx x0).run, tileRuns.spotSelected t = false) ∧ tileRuns.int.rerun ≠ 2 ∧
    (∀ t ∈ (tileRuns.ctx x0).run, t.left = 0) ∧ tilesRun.clockStands x0 = false ∧
    (∀ t ∈ (tilesRun.ctx x0).run, tilesRun.spotSelected t = false ∧ t.left ≠ 0)) ∧
    (base.ctx x0).run = none ∧ ownerWaits.core.owners.has ⟨0, 0⟩ = true ∧ ownerWaits.slotBusy 0 0 = false ∧
    ownerWaits.core.owners.get ⟨0, 0⟩ 0 ≠ Fin.ofNat _ (ownerWaits.fld (.coreSqacc 0) (0, 2)) ∧ base.core.owners.has ⟨0, 0⟩ = false := by decide

/-- An open bracket of an operation under handle 5. -/
def sharedBracket : Bracket := { bracket with op := ⟨1, 0, 0, 5, none⟩ }

/-- Word 1: handle 5, cleat 7, t4, SEQ 1 and a capacity. -/
def word (cap : BitVec 16) : Word1 := ⟨5, 7, 4, 1, cap⟩

/-- Where T2 lies: an FP32 tile of one element. -/
def oneD : Desc := tileOf 6 0 1 1 0xF000000000C0 0 0

/-- The bracket of an open peloton, with the two numbers of `tensorBase`. -/
def fusedBase : State :=
  withPeloton (withCells (mk [] { Ctx.reset with tile := [(1, oneA), (2, oneB), (3, oneC), (4, oneD)], sreg := [(1, 1)], table := [entry 0], bracket := some sharedBracket })
    (cellsAt 0xF00000000000 (toBytes 4 0x3F800000) ++ cellsAt 0xF00000000040 (toBytes 4 0x40000000)))

/-- `prod1` with SEND. -/
def prodSend : ProdF := { prod1 with send := true }

/-- An mma.rs without SEND has joined the collective; a second member has not. -/
def joinedRs : State := (after (exec (.mmaRs at0 .fp32 0 1 2 3 prod1 1 (word 0)) fusedBase)).getD base

theorem witness_ReduceScatterProducts :
    let s := joinedRs
    let w := word 0
    let i := s.ins x0 0xC7 2 1
    let d := pltDesc
    let u := (s.readRanges .quad (productReads oneA oneB prodSend)).1
    let l := u.newLatch x0
    let q : AccOp := ⟨i, sharedBracket, l, 0, false, 0, 1, .rne, oneC, 15⟩
    prodBad prodSend true false true = false ∧ (s.ctx x0).bracket.isSome = true ∧ firstFault (s.fusedFaults x0 w true) = none ∧
    s.descFor (s.fusedGen i) 5 = some d ∧ s.epochWaits 5 d.epoch = false ∧ (s.freeFctx 0).isSome = true ∧ (word 0).cap = 0 ∧
    (∃ c ∈ s.coll 5 1 0, c.joined = true ∧ c.closed = false ∧ c.sig = fusedSig i d w prodSend 1 oneD.fmt oneC ∧ c.go = false) ∧
    firstFault (s.productFaults i .fp32 0 1 2 3 prodSend (s.sendFaults i d w 3)) = none ∧
    (s.readRanges .quad (productReads oneA oneB prodSend)).2 = none ∧
    (match (u.productAnchor i l .fp32 1 2 2 1).2 with | .ok n => n.anchor == 0 | .error _ => false) = true ∧
    (match attemptAnchor sharedBracket 0 with | .ok (some g) => g == 0 | _ => false) = true ∧
    (∀ c ∈ (prodLive oneA oneB oneC prodSend).map (u.prodCell oneA oneB oneC), (q.sum c).ovf = false) ∧ u.prodNans oneA oneB prodSend = [] := by
  decide

/-- No product: the slot goes as it is, and is emptied. -/
def sendOnly : ProdF := { prodSend with emask := 0, free := true }

theorem witness_ReduceScatterProducts_sendOnly :
    let s := joinedRs
    let i := s.ins x0 0xC7 2 1
    prodBad sendOnly true false true = false ∧
    (∃ c ∈ s.coll 5 1 0, c.sig = fusedSig i pltDesc (word 0) sendOnly 1 oneD.fmt oneC) ∧
    firstFault (s.accFaults i 0 false ++ s.descFaults oneC 3 false false false ++ amodeBad .fp32 2 ++ s.sendFaults i pltDesc (word 0) 3 ++
      s.entryFaults i 2 1 oneC 1) = none ∧
    (match (s.productAnchor i (s.newLatch x0) .fp32 1 2 2 1).2 with | .ok n => n.anchor == 0 | .error _ => false) = true := by decide

theorem witness_ReduceScatterProducts_issues : joinedRs.Issues at0 (0xC0 + pairCode .fp32) := issues_of _ _ (by decide) _

/-- An ag.mma has joined its collective, which holds GO, has pushed its shards, and has the pieces listed; its context goes on. -/
def gathering (pieces : List (Nat × Nat × Nat)) : State :=
  let s := (after (exec (.agMma at0 .fp32 0 1 2 3 prod1 1 (word 0)) fusedBase)).getD base
  let t := s.setReg (.coreSqstat 0) 1
  { t with plt := { t.plt with colls := t.plt.colls.map fun (c : Coll) => { c with go := true, sent := [1], shards := pieces } } }

theorem witness_GatheredProducts :
    let s := gathering [(0, 0, 32)]
    let i := s.ins x0 0xCF 2 1
    let d := pltDesc
    prodBad prod1 false true false = false ∧ (s.ctx x0).bracket = some sharedBracket ∧ firstFault (s.fusedFaults x0 (word 0) true) = none ∧
    s.descFor (s.fusedGen i) 5 = some d ∧ firstFault (s.agFaults i d (word 0) oneB 2) = none ∧ s.epochWaits 5 0 = false ∧
    (∃ e ∈ s.gatherEntry 5 1, ∃ c ∈ s.coll 5 1 0, c.joined = true ∧ c.closed = false ∧
      c.sig = fusedSig i d (word 0) prod1 1 oneD.fmt oneC ∧ c.parts.any (Part.of i 0) = true ∧ c.go = true ∧ c.sent ≠ [] ∧
      (c.wholeShares (shardSizes d oneB)).length = (shardSizes d oneB).length ∧
      (let s1 := (s.modColl c fun c => c).fillGathered d e oneB
       let u := (s1.readRanges .quad (productReads oneA oneB prod1)).1
       let l := u.newLatch x0
       let q : AccOp := ⟨i, sharedBracket, l, 0, true, 0, 1, .rne, oneC, 15⟩
       firstFault (s1.productFaults i .fp32 0 1 2 3 prod1 []) = none ∧ (s1.readRanges .quad (productReads oneA oneB prod1)).2 = none ∧
       (match (u.productAnchor i l .fp32 1 2 2 1).2 with | .ok n => n.anchor == 0 | .error _ => false) = true ∧
       (∀ c ∈ (prodLive oneA oneB oneC prod1).map (u.prodCell oneA oneB oneC), (q.sum c).ovf = false) ∧ u.prodNans oneA oneB prod1 = [])) := by
  decide

theorem witness_GatheredProducts_missing : ∃ c ∈ (gathering []).coll 5 1 0,
    (c.wholeShares (shardSizes pltDesc oneB)).length < (shardSizes pltDesc oneB).length := by decide

theorem witness_GatheredProducts_issues (l : List (Nat × Nat × Nat)) (h : l = [] ∨ l = [(0, 0, 32)]) :
    (gathering l).Issues at0 (0xC8 + pairCode .fp32) := by
  rcases h with rfl | rfl <;> exact issues_of _ _ (by decide) _

/-- EXPLICIT, RNE, reduction length from s1, and nothing else: what xd.disp and xd.comb admit. -/
def exch : ProdF := { prod1 with emask := 0 }

/-- One row of one FP32 element goes to expert 0, whose weight is the second column of t4; the row returns in t2. -/
def expertBase : State :=
  let t2 := tileOf 6 0 1 2 0xF000000000C0 0 0
  withPeloton (mk [(.fnan 0 0, 0)] { Ctx.reset with tile := [(1, oneA), (2, oneB), (3, oneC), (4, t2)], sreg := [(1, 1)], table := [entry 0], bracket := some sharedBracket })

/-- An exchange has joined its collective and awaits GO. -/
def exchanging (i : Instr) : State :=
  let t := (after (exec i expertBase)).getD base
  let s := t.setCtx x0 { t.ctx x0 with run := none }
  { s with plt := { s.plt with colls := s.plt.colls.map fun (c : Coll) => { c with parts := [], waiting := [] } } }

/-- A state without an enabled watchpoint is quiet. -/
theorem no_watchers (s : State) (i : Ins) (n : Nat) (h : ∀ k : Fin 16, s.flag (.pmuWpCtli k) F.pmuWpCtli_EN = false) : s.watchers i n = [] := by
  simp [State.watchers, State.liveWatch, h]

theorem witness_ExpertRowsLeaveAndReturn_disp :
    let s := exchanging (.xdDisp at0 1 2 exch 1 (word 4))
    let i := s.ins x0 0xD0 2 1
    let d := pltDesc
    let T := s.tile x0 4
    let reads := T.ranges (T.clip T.whole) true ++ oneA.ranges (oneA.clip oneA.whole) false
    exchangeBad exch = false ∧ s.descFor (s.fusedGen i) 5 = some d ∧ (s.freeFctx 0).isSome = true ∧ s.armed x0 = false ∧ s.epochWaits 5 0 = false ∧
    firstFault (s.fusedFaults x0 (word 4) false) = none ∧ firstFault (s.dispFaults i d (word 4) 1 2) = none ∧ (s.ctx x0).run = none ∧
    (∀ k : Fin 16, s.flag (.pmuWpCtli k) F.pmuWpCtli_EN = false) ∧ (s.readRanges .pump reads).2 = none ∧
    (∀ q ∈ (s.readRanges .pump reads).1.choices T, q.expert < d.nexp) ∧
    (∃ c ∈ s.coll 5 1 0, c.joined = true ∧ c.closed = false ∧ c.go = false ∧
      c.sig = signature 0xD0 0 0 T.fmt 5 1 1 4 oneB.tid 0 oneB.lrows oneB.lcols 7) := by decide

theorem witness_ExpertRowsLeaveAndReturn_comb :
    let s := exchanging (.xdComb at0 1 2 3 exch 1 (word 4))
    let j := s.ins x0 0xD1 2 1
    let d := pltDesc
    let T := s.tile x0 4
    let reads := T.ranges (T.clip T.whole) true ++ oneA.ranges (oneA.clip oneA.whole) false
    s.descFor (s.fusedGen j) 5 = some d ∧ (s.freeFctx 0).isSome = true ∧ firstFault (s.fusedFaults x0 (word 4) true) = none ∧ firstFault (s.combFaults j d (word 4) 1 2 3 exch 1) = none ∧ (s.ctx x0).run = none ∧
    (s.readRanges .quad reads).2 = none ∧
    (∃ c ∈ s.coll 5 1 0, c.joined = true ∧ c.closed = false ∧ c.go = false ∧ c.sig = fusedSig j d (word 4) exch 1 T.fmt oneC ∧
      (∃ q ∈ (s.readRanges .quad reads).1.kept T 4, ∀ h ∈ c.shards, h.2.1 ≠ q.row * T.topk + q.k) ∧ (∀ p ∈ c.parts, p.ins.op ≠ 0xD1)) := by decide

/-! ## Registers, interrupts, logs and power -/

/-- Accesses of 8 and 4 bytes. -/
def acc8 (p : Priv) (off : BitVec 30) : CtlAcc := ⟨p, off, .w8⟩
def acc4 (p : Priv) (off : BitVec 30) : CtlAcc := ⟨p, off, .w4⟩

theorem witness_RegisterAccessesFollowTheirCodes :
    base.stores = [] ∧ base.hubRuns = true ∧ accBad (acc4 .hub 4) = false ∧
    (let r : Reg := .fovfcnt 255
     let o : BitVec 30 := BitVec.ofNat 30 r.offset
     accBad (acc8 .driver o) = false ∧ ctlPlace o.toNat = .reg r ∧ r.readable .driver = true ∧ r ≠ .evrWin 7 ∧ r.bitsOf .rc ≠ 0) ∧
    (let r : Reg := .hubLock
     ctlPlace r.offset = .reg r ∧ r.writable .driver = true ∧ r.writable .job = false) ∧
    (Reg.xctl 0 0).plain = true ∧ (Reg.xctl 0 0).writable .driver = true ∧ (Reg.evrWin 0).readable .job = false ∧
    ctlPlace 0x3FFFFFF8 = .unassigned ∧ base.Issues at0 0x38 :=
  ⟨by decide, by decide, by decide, by decide, by decide, by decide, by decide, by decide, by decide, base_issues _⟩

/-- Context 0 idle. -/
def idle0 : State := mk [(.coreSqstat 0, 0)] Ctx.reset

theorem witness_LocksCleatRangesAndTargets : idle0.stores = [] ∧ idle0.hubRuns = true ∧ Priv.driver ≠ .job ∧ idle0.ctxState x0 = 0 ∧
    (let v : Word := 0x800 + 248
     getBits v F.clr_COUNT = 8 ∧ getBits v F.clr_BASE + getBits v F.clr_COUNT = 256) ∧ base.ctxState x0 ≠ 0 ∧
    256 < getBits (0x800 + 249 : Word) F.clr_BASE + getBits (0x800 + 249 : Word) F.clr_COUNT ∧ bit (3 : Word) 4 = false ∧ bit (16 : Word) 4 = true := by
  decide

/-- Source 200 of Yalar-0 is routed to the host's vector 5; a message is held at vector 6; a timer has passed its deadline. -/
def intBase : State :=
  let v := putBits (putBits (putBits 0 F.icuRoute_EN 1) F.icuRoute_KIND 1) F.icuRoute_VECTOR 5
  let s := mk [(.icuRoute 0 200, v), (.icuRoute 0 201, putBits 0 F.icuRoute_OWN 1), (.icuHtmr 0 0 0, putBits 0 F.icuHtmr_DEADLINE 1)] Ctx.reset
  { s with time := 1, host := { s.host with msixEnable := true, pba := [(6, true)], msix := [(5, ⟨0x1000, 7, false⟩)] } }

theorem witness_InterruptsPendCountAndSend : intBase.stores = [] ∧ intBase.hubRuns = true ∧ bit (intBase.reg (.icuPend 0 3)) 8 = false ∧
    intBase.flag (.icuRoute 0 200) F.icuRoute_EN = true ∧ intBase.flag (.icuRoute 0 200) F.icuRoute_KIND = true ∧
    intBase.flag (.icuRoute 0 200) F.icuRoute_OWN = false ∧ bit (2 : Word) 1 = true ∧ intBase.flag (.icuRoute 0 201) F.icuRoute_OWN = true ∧
    intBase.host.msixEnable = true ∧ intBase.host.msixMask = false ∧ intBase.host.d3hot = false ∧
    (intBase.host.msix.get 5 MsixEntry.reset).masked = false ∧ intBase.host.pba.get 6 false = true ∧
    intBase.fld (.icuHtmr 0 0 0) F.icuHtmr_DEADLINE = 1 ∧ intBase.fld (.icuHtmr 0 0 1) F.icuHtmr_DEADLINE = 0 := by decide

/-- The Hub with a queued event, one written record under the cursor, and AUTO as given. -/
def odoBase (auto : Word) : State :=
  let s := mk [(.evrCur, auto)] Ctx.reset
  let r : OdoRec := ⟨1, 1, 0, false, 1, 0x40, 0, 0, [], true, 0⟩
  { s with
    events := [{ cls := 1, code := 0x40, die := 0, data := [(8, 0)] }]
    flash := { s.flash with odo := [r], nextSeq := 2 }
    fw := { s.fw with latched := some 1 } }

theorem witness_OdometerLogsShowsAndClears :
    let s := odoBase (2 ^ 32)
    let clr : State := { s with fw := { s.fw with clearing := some (1, 3, 1) } }
    s.stores = [] ∧ s.hubRuns = true ∧ s.nextRecord < s.events.length ∧ (s.flash.sector s.flash.openSector).retired = false ∧
    (∀ e ∈ s.events, s.flash.live + (s.recordsOf e).length ≤ odoMax ∧
      (s.flash.sector s.flash.openSector).used + (s.recordsOf e).length ≤ sectorSlots) ∧ s.events.length < 4096 ∧ base.events = [] ∧
    s.flag .evrCur F.evrCur_AUTO = true ∧ s.flag .evrCur F.evrCur_NONE = false ∧ s.fw.latched = some 1 ∧
    (odoBase 0).flag .evrCur F.evrCur_AUTO = false ∧ s.fw.clearing = none ∧ clr.fw.clearing = some (1, 3, 1) ∧ clr.hubRuns = true ∧
    (let u : State := { s with time := 6000000000 }
     u.fw.lifeAt + 6000000000 ≤ u.time ∧ u.hubRuns = true) := by decide

/-- A trace record of core 0 waits, with the Pannier of Yalar-0 as given. -/
def traceBase (l : List (Reg × Word)) : State :=
  let s := mk l Ctx.reset
  let r : TraceRec := ⟨0, 0, 0, 2, 0, 0, 1, 0, 0, 0, 0, 0⟩
  { s with obs := { s.obs with trace := [r] } }

/-- The Pannier of Yalar-0 at 16 GiB, with a ring of 1 GiB, tracing every kind. -/
def panRegs : List (Reg × Word) :=
  [(.pmuPan 0, putBits (putBits (putBits 0 F.pmuPan_EN 1) F.pmuPan_BASE 16) F.pmuPan_SIZE 4),
   (.pmuTrCtl 0, putBits (putBits 0 F.pmuTrCtl_EN 1) F.pmuTrCtl_TRGIB 1), (.pmuTrKind 0, 0xFFFF)]

theorem witness_CountersLatchAndRecordsReachTheirRing :
    let s := traceBase panRegs
    s.stores = [] ∧ s.hubRuns = true ∧ s.pannier 0 = true ∧ s.flag (.pmuTrCtl 0) F.pmuTrCtl_EN = true ∧ bit (s.reg (.pmuTrKind 0)) 12 = true ∧
    (s.obs.trace.filter fun q => q.source == 256).length < 64 ∧ (∀ r ∈ s.obs.trace, r.source ≠ 1) ∧
    s.obs.trace.findIdx? (fun r => r.source == 0) = some 0 ∧ s.flag (.pmuTrCtl 0) F.pmuTrCtl_STOP = false ∧
    s.fld (.pmuTrCtl 0) F.pmuTrCtl_TRGIB ≠ 0 ∧ s.obs.lost.get 0 0 = 0 ∧ s.rim = [] ∧ (traceBase []).pannier 0 = false ∧
    s.fw.takeover = none ∧ s.obs.telAt + 100000 * s.fld .pmuTelctl F.pmuTelctl_PERIOD ≤ 100000 * s.fld .pmuTelctl F.pmuTelctl_PERIOD ∧
    (mk [(.pmuTelctl, 5)] Ctx.reset).time < (mk [(.pmuTelctl, 5)] Ctx.reset).obs.telAt + 100000 * (mk [(.pmuTelctl, 5)] Ctx.reset).fld .pmuTelctl F.pmuTelctl_PERIOD := by
  decide

/-- Context 0 of core 0 idle, cluster 0 in a power state, registers beside them, and the power controller's state changed. -/
def powBase (ps : Word) (l : List (Reg × Word)) (f : PowerState → PowerState) : State :=
  let s := mk (l ++ [(.coreSqstat 0, 0), (.cluDrlstat 0, putBits 0 F.cluDrlstat_PSTATE ps.toNat)]) Ctx.reset
  { s with pow := f s.pow }

theorem witness_ClustersSleepAndWake_states :
    (let s := powBase 0 [] fun q => { q with idleSince := [(0, 0)] }
     let u : State := { s with time := 100 * s.fld (.cluDrlctl 0) F.cluDrlctl_FWIDLE }
     u.pstate 0 = 0 ∧ u.fld (.cluDrlctl 0) F.cluDrlctl_TARGET = 0 ∧ u.pow.idleSince.find? (fun q => q.1 == 0) = some (0, 0) ∧
     u.canSleep 0 = true ∧ 0 + 100 * u.fld (.cluDrlctl 0) F.cluDrlctl_FWIDLE ≤ u.time) ∧
    (let s := powBase 1 [(.cluDrlwake 0, 0)] fun q => { q with wakeAt := [(0, (0, false))] }
     s.pstate 0 = 1 ∧ s.isForced 0 = false ∧ s.pow.wakeAt.has 0 = true ∧ s.readyToWake 0 = false ∧ s.fld (.cluDrlwake 0) F.cluDrlwake_DEADLINE = 0) ∧
    (powBase 1 [] id).pow.wakeAt.has 0 = false ∧
    (let s := powBase 1 [(.cluDrlwake 0, 7)] id
     let u : State := { s with time := 7 }
     s.fld (.cluDrlwake 0) F.cluDrlwake_DEADLINE = 7 ∧ u.fld (.cluDrlwake 0) F.cluDrlwake_DEADLINE ≤ u.time) ∧
    (let s := powBase 3 [] id
     s.pstate 0 = 3 ∧ s.pow.restart.contains 0 = false ∧ s.pow.pllTries.get 0 0 < 2) ∧
    (let s := powBase 0 [(.cluDrlctl 0, putBits 0 F.cluDrlctl_TARGET 2)] id
     s.wantsP2 0 = true) ∧
    (let s := powBase 2 [] fun q => { q with wakeAt := [(0, (0, false))] }
     s.pstate 0 = 2 ∧ s.pow.wakeAt.has 0 = true ∧ s.flag .clkRststat F.clkRststat_INP3 = false) := by decide

theorem witness_ClustersSleepAndWake_restarts :
    (let s := powBase 0 [] fun q => { q with tested := [0] }
     s.pstate 0 ≠ 4 ∧ s.isFenced (unitId 7 0 0) = false ∧ s.pow.tested.contains 0 = true ∧ s.pow.restart.contains 0 = false ∧
     ∀ c : Fin 256, ∀ n : Fin 4, clusterOf c = 0 → (s.ctx ⟨c, n⟩).bracket = none) ∧
    (powBase 3 [] fun q => { q with restart := [0] }).pow.restart.contains 0 = true ∧
    (let s := powBase 3 [] id
     s.pow.restart.contains 0 = false ∧ s.raising = true ∧ s.pow.tested.contains 0 = false ∧ s.int.fenced = [] ∧
     s.fld (.memCfg (dieOfCluster 0)) F.memCfg_NSTK ≠ 0) ∧
    (let s := powBase 3 [] fun q => { q with tested := [0], pllTries := [(0, 2)] }
     2 ≤ s.pow.pllTries.get 0 0 ∧ s.isFenced (unitId 7 0 0) = false ∧ s.pow.tested.contains 0 = true) := by decide

theorem witness_ModulePowerIsWatched_clocks :
    (let s := powBase 0 [] id
     s.stores = [] ∧ s.pow.off = false ∧ s.flag .clkCadstat F.clkCadstat_BACKUP = false ∧ s.events.length < 4096 ∧
     s.flag .clkRststat F.clkRststat_INP3 = false ∧ s.resident = false ∧ s.hubRuns = true ∧ s.pstate 0 ≠ 2 ∧ s.pstate 0 ≠ 4) ∧
    (let s := powBase 0 [(.clkCadstat, putBits 0 F.clkCadstat_BACKUP 1)] id
     let u : State := { s with time := 1000000 }
     u.flag .clkCadstat F.clkCadstat_BACKUP = true ∧ u.pow.cadLost + 1000000 ≤ u.time ∧ s.time < s.pow.cadLost + 1000000) ∧
    base.resident = true ∧ State.reset.pow.off = true ∧
    (let s := powBase 2 [(.clkRststat, putBits 0 F.clkRststat_INP3 1)] fun q => { q with p3Access := [(0, 0)] }
     let u : State := { s with time := 1000000 }
     s.flag .clkRststat F.clkRststat_INP3 = true ∧ s.pow.p3Access.find? (fun q => q.1 == 0) = some (0, 0) ∧ 0 + 1000000 ≤ u.time ∧
     s.time < 0 + 1000000 ∧ s.pstate 0 = 2) := by decide

theorem witness_ModulePowerIsWatched_limits :
    (let s := powBase 0 [(.stkStat 0 0, putBits 0 F.stkStat_USABLE 1)] fun q => { q with trained := [0], lowSince := some 0 }
     let u : State := { s with time := 10000 }
     s.flag .clkPwrstat F.clkPwrstat_PEAKACT = false ∧ s.pow.trained.contains 0 = true ∧ s.flag (.stkStat 0 0) F.stkStat_SREF = false ∧
     s.flag (.stkStat 0 0) F.stkStat_TVALID = false ∧ (u.sinceFor u.pow.lowSince 10000 || u.sinceFor u.pow.highSince 1000) = true ∧
     (s.sinceFor s.pow.lowSince 10000 || s.sinceFor s.pow.highSince 1000) = false) ∧
    base.fld .clkThctl F.clkThctl_TLIM ≤ (109 : BitVec 8).toNat ∧ (109 : BitVec 8).toNat < 110 ∧ 110 ≤ (110 : BitVec 8).toNat := by decide

/-- CLK_BRSTAT with a phase and the flags of R373 that are set. -/
def brstat (phase : Nat) (l : List (Nat × Nat)) : Word := l.foldl (fun v f => putBits v f 1) (putBits 0 F.clkBrstat_PHASE phase)

/-- A unit map of this module with one unit, the first engine of core 0. -/
def mapHeader (kind : Nat) : List Byte := List.flatten [toBytes 4 0x504D4E55, toBytes 2 1, toBytes 2 kind, toBytes 4 1, toBytes 4 0]
def unitMap (kind : Nat) : List Byte :=
  List.flatten [mapHeader kind, (List.range 32).map Config.serial, List.replicate 16 0, toBytes 8 (unitId 1 0 0).toNat]

theorem witness_BringUpAndResets_powerUp : State.reset.stores = [] ∧ State.reset.pow.off = true ∧ State.reset.pins.thermTrip = true ∧
    base.pow.off = false ∧ (withRegs [(.clkBrstat, brstat 1 [])]).phase = 1 ∧ base.phase ≠ 1 ∧ base.hubRuns = true ∧
    base.flag .clkBrstat F.clkBrstat_KEYOK = false ∧ base.raising = true ∧ base.pow.trained.contains 0 = false ∧
    (withRegs [(.clkBrstat, brstat 1 [])]).raising = false ∧ base.flag .clkBrstat F.clkBrstat_DRAM0 = false ∧
    (powBase 0 [] fun q => { q with trained := [0] }).pow.trained.contains 0 = true ∧
    (let s := withRegs [(.clkBrstat, brstat 2 [F.clkBrstat_EQDONE, F.clkBrstat_KEYOK, F.clkBrstat_DRAM0, F.clkBrstat_DRAM1, F.clkBrstat_CLUDONE])]
     s.phase = 2 ∧ ([F.clkBrstat_EQDONE, F.clkBrstat_KEYOK, F.clkBrstat_DRAM0, F.clkBrstat_DRAM1, F.clkBrstat_CLUDONE].all (s.flag .clkBrstat)) = true ∧
     s.flag .clkBrstat F.clkBrstat_DRAM0 = true) := by decide

theorem witness_BringUpAndResets_map :
    (powBase 0 [(.intUmaddr, putBits 0 F.intUmaddr_ADDR (0xFF0000100000 / 64))] id).fld .intUmaddr F.intUmaddr_ADDR * 64 = 0xFF0000100000 ∧
    mapHeaderOk ((powBase 0 [] id).mapBytes 0 64) 0 = false ∧ (powBase 0 [] id).hubRuns = true ∧ mapHeaderOk (unitMap 0) 0 = false ∧
    mapHeaderOk ((unitMap 0).take 64) 0 = true ∧ mapHeaderOk ((unitMap 1).take 64) 1 = true ∧ (unitMap 1).length = 72 := by decide

/-- The map names this module and units that exist. -/
theorem serial_ok (kind : Nat) : serialOk (unitMap kind) = true := by
  have e : ((unitMap kind).drop 16).take 32 = (List.range 32).map Config.serial := rfl
  simp [serialOk, e]

/-- The supplement is accepted; the base map is if its signature verifies under the unit-map key, which the spec leaves free. -/
theorem witness_BringUpAndResets_accepted : base.mapFault 1 (unitMap 1) = none ∧
    (∀ sig, rsaVerify 2 (sig.take 384) (unitMap 0) = true → base.mapFault 0 (unitMap 0 ++ sig) = none) := by
  have u : (mapEntries (unitMap 1)).any (fun u => !unitOk u) = false := rfl
  refine ⟨by simp [State.mapFault, serial_ok, u], fun sig h => ?_⟩
  have a : ((unitMap 0 ++ sig).drop (64 + 8 * mField (unitMap 0 ++ sig) 8 4)).take 384 = sig.take 384 := rfl
  have b : (unitMap 0 ++ sig).take (64 + 8 * mField (unitMap 0 ++ sig) 8 4) = unitMap 0 := rfl
  have c : serialOk (unitMap 0 ++ sig) = true := by
    have e : ((unitMap 0 ++ sig).drop 16).take 32 = (List.range 32).map Config.serial := rfl
    simp [serialOk, e]
  have n : mField (unitMap 0 ++ sig) 64 8 = mField (unitMap 0) 64 8 := rfl
  have k : mField (unitMap 0 ++ sig) 8 4 = 1 := rfl
  have d : (mapEntries (unitMap 0 ++ sig)).any (fun u => !unitOk u) = false := by
    rw [mapEntries, k]; simp only [List.range_succ, List.range_zero, List.nil_append, List.map_cons, List.map_nil]; rw [show 64 + 8 * 0 = 64 from rfl, n]
    rfl
  have f : base.flag .intUmstat F.intUmstat_BASE = false := by decide
  simp [State.mapFault, a, b, c, d, f, h]

theorem witness_BringUpAndResets_resets : base.pins.thermTrip = true ∧ base.pow.inReset = false ∧
    ((List.finRange 256).any fun c => dieOf c == 0 && base.fld (.coreSqstat c) F.coreSqstat_STATE != 0) = true ∧
    ((List.finRange 256).any fun c => dieOf c == 1 && base.fld (.coreSqstat c) F.coreSqstat_STATE != 0) = false ∧ base.plt.pelotons = [] ∧
    base.tandem = false ∧ (powBase 0 [] fun q => { q with inReset := true }).pow.inReset = true ∧
    (let s := powBase 0 [] fun q => { q with debug := true }
     s.pow.debug = true ∧ s.flag (.coreCstat 0) F.coreCstat_USABLE = true ∧ s.pstate (clusterOf 0) ≠ 2 ∧ s.pstate (clusterOf 0) ≠ 4 ∧
     s.slotBusy 0 0 = false ∧ s.fld .hubDbgsel F.hubDbgsel_CORE = 0) ∧
    (let s := powBase 2 [] fun q => { q with debug := true }
     s.pstate (clusterOf 0) = 2) ∧ base.pow.debug = false := by decide

/-- Stack 0 of Yalar-0 usable, its scrubber on, and a row of it waiting for a repair. -/
def storeBase : State :=
  let s := powBase 0 [(.stkStat 0 0, putBits 0 F.stkStat_USABLE 1), (.memScrctl 0, putBits 0 F.memScrctl_EN 1)] id
  let r : RowJob := { d := 0, m := 0, pc := 0, bank := 0, row := 1, why := 2 }
  { s with keep := { s.keep with rows := [r] } }

theorem witness_StoresAreRefreshedScrubbedAndRepaired :
    let s := storeBase
    let v : Word := putBits (putBits 0 F.stkRprcmd_GO 1) F.stkRprcmd_BANK 47
    let r : RowJob := { d := 0, m := 0, pc := 0, bank := 0, row := 1, why := 2 }
    s.stores = [] ∧ s.flag (.stkStat 0 0) F.stkStat_USABLE = true ∧ s.flag (.stkStat 0 0) F.stkStat_SREF = false ∧
    s.flag (.memScrctl 0) F.memScrctl_EN = true ∧ s.flag (.memScrstat 0) F.memScrstat_PAUSED = false ∧
    s.fld (.memScrpos 0) F.memScrpos_POS + 32 < s.dramSize 0 ∧
    rimDecode (s.rim.get ((0 * 2 ^ 40 + 0) / 32) 0 ^^^ 1) = .corrected 0 ∧ rimDecode 0x101 = .uncorrectable ∧ s.pstate 0 = 0 ∧
    base.pstate 1 ≠ 0 ∧ s.rim = [] ∧ getBits v F.stkRprcmd_GO = 1 ∧ getBits v F.stkRprcmd_BANK < 48 ∧
    (s.keep.rows.any fun q => q.same { r with bank := 47, row := 0 }) = false ∧ s.keep.mapped = [] ∧
    s.keep.rows.find? (fun r => r.d == 0 && r.m == 0) = some r ∧ s.sparesLeft r ≠ 0 ∧ base.keep.rows = [] := by decide

/-- The last word of a die's DRAM, and a bank without spares. -/
theorem witness_StoresAreRefreshedScrubbedAndRepaired_ends :
    (let n := storeBase.dramSize 0
     let s := storeBase.setReg (.memScrpos 0) (putBits 0 F.memScrpos_POS (n - 32))
     s.fld (.memScrpos 0) F.memScrpos_POS < s.dramSize 0 ∧ s.dramSize 0 ≤ s.fld (.memScrpos 0) F.memScrpos_POS + 32) ∧
    (let r : RowJob := { d := 0, m := 0, pc := 0, bank := 0, row := 1, why := 2 }
     ∃ n : Fin 64, (let s : State := { storeBase with keep := { storeBase.keep with spares := [((0, 0, 0, 0), n.val)] } }; s.sparesLeft r) = 0) := by decide

/-! ## The fabric -/

/-- The fields of CLK_ and SPK registers that a module with every link up and Spoke 0's partner at module 1 shows. -/
def linkRegs (st : Nat) : List (Reg × Word) := (List.finRange 8).map fun p => (.spkLstat p, putBits 0 F.spkLstat_STATE st)

/-- A module whose links are in a state, with a Spoke's buffers. -/
def linkBase (st : Nat) (v : Spoke) (l : List (Reg × Word)) : State :=
  let s := mk (l ++ linkRegs st ++ [(.spkmCoord, putBits 0 F.spkmCoord_VALID 1), (.spkmMap, 0x176543210), (.spkmRt, 4), (.spkmBlk, 0x100113)]) Ctx.reset
  { s with fab := { s.fab with spokes := [(0, v)] } }

/-- A header flit of a write response. -/
def hdrFlit : BitVec 256 := 160

/-- The CRC of a codeword, as its statement computes it. -/
def wordCrc (l : List (BitVec 256)) : Nat := crc16 (((l ++ List.replicate 20 0).take 20).map fun (w : BitVec 256) => toBytes 32 w.toNat).flatten

theorem crc16_lt (bs : List Byte) : crc16 bs < 2 ^ 16 := by
  have inner : ∀ (l : List Nat) (a : Nat), a < 2 ^ 16 →
      l.foldl (fun c _ => if 2 ^ 15 ≤ c then ((c * 2) ^^^ 0x1021) % 2 ^ 16 else c * 2) a < 2 ^ 16 := by
    intro l
    induction l with
    | nil => intro a h; exact h
    | cons _ l ih => intro a h; exact ih _ (by dsimp only; split <;> omega)
  have outer : ∀ (l : List Byte) (a : Nat), a < 2 ^ 16 → l.foldl (fun a b => (List.range 8).foldl
      (fun c _ => if 2 ^ 15 ≤ c then ((c * 2) ^^^ 0x1021) % 2 ^ 16 else c * 2) (a ^^^ (b.toNat * 256))) a < 2 ^ 16 := by
    intro l
    induction l with
    | nil => intro a h; exact h
    | cons b l ih => intro a h; exact ih _ (inner _ _ (Nat.xor_lt_two_pow h (by have := b.isLt; omega)))
  exact outer bs _ (by decide)

/-- Every codeword has a CRC field that agrees with it, and one that does not. -/
theorem witness_LinksCarryFlitsAndChangeState_crc (l : List (BitVec 256)) :
    wordCrc l = (BitVec.ofNat 16 (wordCrc l)).toNat ∧ wordCrc l ≠ (BitVec.ofNat 16 (wordCrc l + 1)).toNat := by
  have h : wordCrc l < 2 ^ 16 := crc16_lt _
  simp only [BitVec.toNat_ofNat]; omega

theorem witness_LinksCarryFlitsAndChangeState_codewords : (linkBase 2 Spoke.reset []).stores = [] ∧ (linkBase 2 Spoke.reset []).link 0 = 2 ∧
    (linkBase 1 Spoke.reset []).link 0 = 1 ∧ 
    Spoke.reset.partialHead = none ∧ Spoke.reset.nak = false ∧ (0 : BitVec 20).toNat = Spoke.reset.rxSeq ∧
    (Spoke.reset.rxSeq + 2 ^ 20 - (1048557 : BitVec 20).toNat) % 2 ^ 20 = 19 ∧ (Spoke.reset.rxSeq + 2 ^ 20 - (1048556 : BitVec 20).toNat) % 2 ^ 20 = 20 ∧
    getBits hdrFlit (5, 5) ≠ 0 ∧ (Packet.parse hdrFlit).len = 0 ∧ (Packet.parse hdrFlit).malformed = false := by decide

theorem witness_LinksCarryFlitsAndChangeState_control :
    (let s := linkBase 2 { Spoke.reset with txSeq := 32768, nak := true } []
     let v := s.spoke 0
     v.nak = true ∧ (timed s 200).time = v.nakAt + 200 ∧ 0 < (v.txSeq + 2 ^ 20 - (0 : BitVec 20).toNat) % 2 ^ 20 ∧ (v.txSeq + 2 ^ 20 - (0 : BitVec 20).toNat) % 2 ^ 20 ≤ 32768 ∧ v.resends < 15 ∧
     32768 < (v.txSeq + 2 ^ 20 - (1048575 : BitVec 20).toNat) % 2 ^ 20 ∧
     v.resentMs s.time + (v.txSeq + 2 ^ 20 - (32767 : BitVec 20).toNat) % 2 ^ 20 ≤ s.fld (.spkLctl 0) F.spkLctl_RTHR) ∧
    (let s := linkBase 2 { Spoke.reset with txSeq := 1, resends := 31 } []
     (s.spoke 0).resends = 31) ∧
    (let s := linkBase 2 Spoke.reset [(.spkmCtl, 0)]
     s.flag .spkmCtl F.spkmCtl_TROOT = false ∧ s.fld .spkmCtl F.spkmCtl_TPARENT = (0 : SpokeId).val ∧ s.fld .spkmCtl F.spkmCtl_TPARENT ≠ (1 : SpokeId).val ∧
     s.link (Fin.ofNat _ (s.fld .spkmCtl F.spkmCtl_TPARENT)) = 2 ∧ (s.spoke 0).tsAt = none ∧
     (linkBase 2 { Spoke.reset with tsAt := some 0 } [(.spkmCtl, 0)]).time < 0 + 10 ^ 4) ∧
    (let s := linkBase 3 { Spoke.reset with waiting := true } [(.spkmCtl, 0), (.spkLctl 0, putBits 0 F.spkLctl_X8OK 1)]
     s.link 0 = 3 ∧ (s.spoke 0).waiting = true ∧ (s.spoke 0).since + 100 * s.fld .spkmCtl F.spkmCtl_RTWAIT ≤ s.time ∧ s.flag (.spkLctl 0) F.spkLctl_X8OK = true) ∧
    (let s := linkBase 0 Spoke.reset [(.clkBrstat, brstat 3 [F.clkBrstat_EQDONE])]
     s.link 0 = 0 ∧ s.flag .clkBrstat F.clkBrstat_EQDONE = true) := by decide

/-- A packet of a type for a module. -/
def packetTo (typ vc dst addr tag tspec : Nat) (bytes : List Byte) : Packet :=
  { vc := vc, dlc := false, phase := false, typ := typ, len := bytes.length, gtag := 0, mc := false, sh := false, direct := false, lock := false,
    dir := false, relayed := false, rsv := false, dst := dst, src := 1, addr := addr, fctx := 0, optag := 0, tag := tag, hops := 0, tspec := tspec,
    payload := bytes, entry := none }

/-- That packet at the head of Spoke 0's input buffer, with the links in a state and flit credits taken. -/
def withInput (st : Nat) (k : Packet) (taken : Map Nat Nat) : State :=
  linkBase st { Spoke.reset with input := [⟨k, k.row, none, false⟩], credits := taken } []

/-- The same, blocked since tick 0. -/
def blockedInput (k : Packet) (taken : Map Nat Nat) : State :=
  linkBase 2 { Spoke.reset with input := [⟨k, k.row, some 0, false⟩], credits := taken } []

/-- A read request for module 1. -/
def readTo1 : Packet := packetTo 3 5 1 0x40000000 5 64 []

theorem witness_PacketsAreForwardedAndRequestsAnswered_routes :
    let s := withInput 2 readTo1 []
    s.headPacket (some 0) 0 = some readTo1 ∧ s.headPacket (some 0) 1 = none ∧ readTo1.direct = false ∧
    s.flag .spkmCoord F.spkmCoord_VALID = true ∧ s.flag .spkmMap F.spkmMap_VALID = true ∧ s.uninstalled readTo1.gtag = false ∧ readTo1.hops < 32 ∧
    readTo1.mc = false ∧ s.meetsSlot (some 0) readTo1 = false ∧ s.flag .spkmCtl F.spkmCtl_BYPASS = false ∧
    (match s.bestHop ((s.nextHops readTo1 (some 0)).filter (s.hopOpen (some 0))) with | some (.out _ _) => true | _ => false) = true := by decide

/-- Blocked on its channel with VC7 free, and on an injected direct packet's way. -/
theorem witness_PacketsAreForwardedAndRequestsAnswered_escapes :
    (let s := withInput 2 readTo1 [(11, 256), (17, 29184)]
     s.bestHop ((s.nextHops readTo1 (some 0)).filter (s.hopOpen (some 0))) = none ∧ 2 ≤ readTo1.vc ∧ readTo1.vc ≤ 6 ∧ escapable readTo1.typ = true ∧
     s.uninstalled readTo1.gtag = false ∧ s.noOutput 0 readTo1 = true ∧
     (match (s.nextHops { readTo1 with vc := 7, dlc := false } (some 0)).filter (s.hopOpen (some 0)) with | [.out q k] => s.mayStart q k | _ => false) = true) ∧
    (let k := { readTo1 with direct := true }
     (withInput 2 k []).headPacket (some 0) 0 = some k ∧ (withInput 2 k []).flag .spkmCtl F.spkmCtl_BYPASS = false) := by decide

/-- Blocked for 200 ns, and for less. -/
theorem witness_PacketsAreForwardedAndRequestsAnswered_blocked :
    let s := timed (blockedInput readTo1 [(11, 256), (17, 29184)]) 20
    s.headPacket (some 0) 0 = some readTo1 ∧ s.noOutput 0 readTo1 = true ∧ (s.spoke 0).input[0]? = some ⟨readTo1, readTo1.row, some 0, false⟩ ∧
    (blockedInput readTo1 []).time < 0 + 20 ∧
    (match (s.nextHops { readTo1 with vc := 7, dlc := false } (some 0)).filter (s.hopOpen (some 0)) with | [.out q k] => s.mayStart q k | _ => false) = true := by
  decide

/-- A core of die 0 at an address of die 1's DRAM, behind a stopped bridge. -/
theorem witness_PacketsAreForwardedAndRequestsAnswered_bridge :
    let s := mk [(.hubBrgcnt, 0x8000000000000000), (.pwin 0 1, 0x0010010000000003)] { Ctx.reset with sreg := [(1, BitVec.ofNat 64 (2 ^ 40))] }
    s.flag .hubBrgcnt F.hubBrgcnt_DOWN = true ∧ (s.sreg x0 1).toNat % 8 = 0 ∧ s.target (s.sreg x0 1) = some (.here (2 ^ 40)) ∧
    s.spanFault x0 (.here (2 ^ 40)) 8 false = none ∧ crosses (dieOf 0) (2 ^ 40) = true ∧ s.canIssue x0 = true ∧
    s.fetch x0 (s.pc x0) 1 = (s, none) ∧ s.phase = 3 := by decide

/-- A packet for this module, a request of context 0 outstanding under tag 5, and the context waiting for it. -/
def replyBase (k : Packet) (kind : ReqKind) : State :=
  let s := mk [(.coreSqstat 0, 3), (.spkmBlk, 0x100113)] { Ctx.reset with wait := some (.reply 5) }
  { s with fab := { s.fab with ejected := [(some 0, k)], reqs := [⟨5, 47, kind, x0, 3, 1, 0x40000000, 0x1000, 0x33, 0, 0, 0, 1, 0⟩] } }

theorem witness_PacketsAreForwardedAndRequestsAnswered_replies :
    (let s := replyBase (packetTo 4 0 0 0x40000000 5 0 (toBytes 8 1)) (.load 2 8 false)
     s.fab.ejected.findIdx? (fun q => q.2.typ == 4) = some 0 ∧ s.fab.ejected.findIdx? (fun q => q.2.typ == 5) = none ∧ (s.reqOf 5).isSome = true ∧
     (s.reqOf 6).isNone = true ∧ (∀ r ∈ s.reqOf 5, r.kind = .load 2 8 false ∧ s.waitsFor r = true ∧ s.ctxState r.x = 3 ∧ (s.ctx r.x).owed = 0 ∧
       s.time < r.at_ + 100 * s.fld .spkmCtl F.spkmCtl_TMO)) ∧
    (let s := replyBase (packetTo 4 0 0 0x40000000 6 0 (toBytes 8 1)) (.amo 2)
     ∀ q ∈ s.fab.ejected, s.reqOf q.2.tag = none) ∧
    (let s := replyBase (packetTo 14 0 0 0 5 0 []) .mgmt
     s.fab.ejected.findIdx? (fun q => q.2.typ == 14) = some 0 ∧ (∀ r ∈ s.reqOf 5, r.kind = .mgmt) ∧ s.fab.hubWaits = []) ∧
    (let s := replyBase (packetTo 7 0 0 0x40000000 5 2 []) (.load 2 8 false)
     s.fab.ejected.findIdx? (fun q => q.2.typ == 7) = some 0 ∧ (s.reqOf 5).isSome = true) ∧
    (let s := replyBase (packetTo 15 6 0 0 5 0 []) .store
     s.fab.ejected.findIdx? (fun q => q.2.typ == 15) = some 0) ∧
    (let t := replyBase (packetTo 16 0 0 0 5 0 []) (.probe 0)
     let s : State := { t with fab := { t.fab with spokes := [(0, { Spoke.reset with probing := true })] } }
     s.fab.ejected.findIdx? (fun q => q.2.typ == 16) = some 0 ∧ (s.spoke 0).probing = true ∧ (s.spoke 0).retry = [] ∧ (s.reqOf 5).isSome = true) ∧
    (let s : State := { base with fab := { base.fab with spill := [⟨readTo1, false, none⟩] } }
     s.fab.spill ≠ []) ∧
    (let s := replyBase (packetTo 8 1 0 cleat0 0 3 []) .store
     (∀ q ∈ s.fab.ejected, cleatAt q.2.addr = some (0, 0)) ∧ s.fab.ejected.findIdx? (fun q => q.2.typ == 8) = some 0 ∧ (∀ r ∈ s.fab.reqs, r.acks ≤ 1)) ∧
    (let s := linkBase 0 { Spoke.reset with probing := true } []
     let u := timed s (100 * s.fld .spkmCtl F.spkmCtl_PRBTMO)
     (u.spoke 0).probing = true ∧ (u.spoke 0).probeAt + 100 * u.fld .spkmCtl F.spkmCtl_PRBTMO ≤ u.time ∧ (u.spoke 0).retry = [] ∧
     (u.spoke 1).probing = false) ∧
    base.flag .hubBrgcnt F.hubBrgcnt_DOWN = false ∧ (mk [(.hubBrgcnt, putBits 0 F.hubBrgcnt_DOWN 1)] Ctx.reset).flag .hubBrgcnt F.hubBrgcnt_DOWN = true ∧
    rimDecode 1 = .corrected 0 := by decide

theorem witness_RequestsOfOtherModulesAreServed :
    (let k := packetTo 1 3 0 0x40000000 5 0 (toBytes 8 1)
     let s := replyBase k .store
     s.stores = [] ∧ s.fab.ejected.findIdx? (fun q => q.2.typ == 1) = some 0 ∧ s.spanExists k.priv k.addr 8 = true ∧ ctlOff k.addr = none ∧
     s.flawed k.addr 8 = [] ∧ s.tandem = false ∧ k.addr % 8 = 0 ∧ s.fab.ejected.findIdx? (fun q => q.2.typ == 2) = none) ∧
    (let k := packetTo 3 5 0 0xC0000000000 5 4096 []
     base.spanExists k.priv k.addr 4096 = false ∧ k.spec 168 13 = 4096) ∧
    (let k := packetTo 13 6 0 0 5 0x22 []
     let s := mk [(.hubFwctl, putBits 0 F.hubFwctl_FABRICOK 1)] Ctx.reset
     k.spec 168 8 = 0x22 ∧ s.flag .hubFwctl F.hubFwctl_FABRICOK = true ∧ s.fwServes = true ∧ s.phase ≠ 4 ∧
     (mk [(.hubFwctl, 0)] Ctx.reset).flag .hubFwctl F.hubFwctl_FABRICOK = false) := by decide

/-! ## Collectives and pelotons -/

/-- The address field of a collective packet of handle 5, SEQ 1, epoch 0. -/
def collAddr (kind : Nat) : Nat := 5 + 2 ^ 14 + kind * 2 ^ 38

/-- A packet of that collective from module 1. -/
def collPacket (typ dst kind tspec : Nat) (bytes : List Byte) : Packet := { packetTo typ 1 dst (collAddr kind) 0 tspec bytes with optag := 1 }

/-- The collective as this module sees it. -/
def collOf (joined go closed : Bool) : Coll := { Coll.heard 5 1 0 with joined := joined, go := go, closed := closed, op := ⟨1, 0, 0, 5, none⟩ }

/-- The module with handle 5 open, a packet for it, and collectives. -/
def collBase (k : Packet) (cs : List Coll) : State :=
  let s := withPeloton base
  { s with fab := { s.fab with ejected := [(some 0, k)] }, plt := { s.plt with colls := cs } }

/-- Notices of each kind from module 1. -/
def noticeOf (kind tspec : Nat) : Packet := collPacket 9 0 kind tspec []

theorem witness_CollectivePacketsAndNoticesAct_notices :
    (let s := collBase (noticeOf 1 7) []
     s.fab.ejected.findIdx? (fun q => q.2.typ == 0x09 && q.2.kind == 1) = some 0 ∧ s.fab.ejected.findIdx? (fun q => q.2.typ == 0x09 && q.2.kind == 2) = none ∧
     s.pelotonFor 0 (noticeOf 1 7).ph = some pelotonOf ∧ s.pltDesc 0 pelotonOf = pltDesc ∧ (noticeOf 1 7).epoch = pltDesc.epoch ∧ s.coll 5 1 0 = none ∧
     base.pelotonFor 0 5 = none) ∧
    (let s := collBase (noticeOf 2 7) [collOf true false false]
     (∃ c ∈ s.coll 5 1 0, c.joined = true ∧ c.closed = false ∧ c.go = false) ∧
     s.fab.ejected.findIdx? (fun q => q.2.typ == 0x09 && q.2.kind == 2) = some 0) ∧
    (let k := noticeOf 3 (1 * 2 ^ 10 + 2 * 2 ^ 18)
     let s := collBase k []
     (s.pelotonFor k.gtag k.ph).isSome = true ∧ (s.attempt k.op).cause = none ∧ k.spec 168 2 = (s.attempt k.op).raise ∧ (s.attempt k.op).seals = []) ∧
    (let k := noticeOf 4 2
     let s := collBase k []
     s.opSealed k.op = false ∧ (s.attempt k.op).cause = none ∧ (s.attempt k.op).raise ≤ k.spec 168 2 ∧ k.spec 168 2 ≠ 3 ∧ k.ph ≠ 0) := by decide

/-- A sealed attempt of that operation here, for the notices it supersedes. -/
theorem witness_CollectivePacketsAndNoticesAct_superseded :
    let k := noticeOf 4 0
    let s : State := { collBase k [] with plt := { (collBase k []).plt with attempts := [⟨k.op, 1, [], none, none, none, 0⟩] } }
    k.spec 168 2 < (s.attempt k.op).raise := by decide

/-- The gather cache holds an entry of the collective, of which a share of 32 bytes is missing. -/
def gathBase (k : Packet) : State :=
  let s := collBase k [collOf true true false]
  let e : GEntry := { ph := 5, seq := 1, tid := 0, planes := 0, at_ := 0, sizes := [32, 32], step := 0, inUse := true }
  { s with plt := { s.plt with cache := [e] } }

theorem witness_CollectivePacketsAndNoticesAct_data :
    (let k := collPacket 0x0B 0 0 1 (toBytes 32 7)
     let s := gathBase k
     s.fab.ejected.findIdx? (fun q => q.2.typ == 0x0B) = some 0 ∧ (∃ c ∈ s.coll 5 1 0, c.closed = false ∧ c.joined = true ∧ c.shards = [] ∧
       ∀ e ∈ s.gatherEntry 5 1, 32 * k.spec 176 30 + k.payload.length ≤ e.sizes.getD (k.spec 168 6) 0 ∧ (c.wholeShares e.sizes).contains 1 = false ∧
         s.flawed (e.addr pltDesc 1 0) 32 = []) ∧ (s.gatherEntry 5 1).isSome = true ∧ s.tandem = false) ∧
    (let s := gathBase (noticeOf 6 3)
     ∃ c ∈ s.coll 5 1 0, c.dispatch = none) ∧
    (let s := collBase (noticeOf 6 3) [collOf true true true]
     ∃ c ∈ s.coll 5 1 0, c.closed = true) ∧
    (let k := collPacket 0x0C 0 0 3 (toBytes 4 1)
     k.spec 206 1 = 0 ∧ (base.region 5 1 (k.spec 200 6)).need = none) := by decide

/-- An xd.disp of the collective has issued here. -/
theorem witness_CollectivePacketsAndNoticesAct_rows : ∃ c ∈ (exchanging (.xdDisp at0 1 2 exch 1 (word 4))).coll 5 1 0,
    ∃ p : Part, ({ c with parts := [p] } : Coll).dispatch = some p := by
  refine ⟨_, rfl, ⟨(exchanging (.xdDisp at0 1 2 exch 1 (word 4))).ins x0 0xD0 2 1, 0, 0, base.newLatch x0, .rne, 0, oneA, oneB, oneC, oneD, 4, 7, 4, 0, 0, false, false⟩, rfl⟩

/-- A sum record of one chunk from module 1 for module 1, on its way through module 0. -/
def sumOf : Packet := collPacket 0x0A 1 0 0 (SumRec.bytes ⟨0, 0, false, false, [List.replicate 32 ⟨1, .fin⟩]⟩)

theorem witness_CollectivePacketsAndNoticesAct_sums :
    let s := collBase sumOf []
    s.fab.ejected.findIdx? (fun q => q.2.typ == 0x0A) = some 0 ∧ sumOf.mc = false ∧ sumOf.dst ≠ s.lmn ∧ sumOf.spec 232 1 ≠ 1 ∧ s.adderAway = false ∧
    pltDesc.slotok = true ∧ pltDesc.shares.contains s.lmn = true ∧ s.plt.slots = [] ∧
    (∃ m ∈ SumRec.parse sumOf.payload, m.v = false ∧ m.inf = false ∧ s.slotDone pltDesc ((RSlot.claim sumOf m).add sumOf m s.time) = false) := by decide

theorem witness_CollectivePacketsAndNoticesAct_timeouts :
    (let s := timed (collBase (noticeOf 1 0) [{ collOf true false false with up := true }]) (100 * base.fld .hubPltctl F.hubPltctl_JTMO)
     (s.descFor s.gtag 5).isSome = true ∧ (s.descFor s.gtag 6).isNone = true ∧
     ∃ c ∈ s.coll 5 1 0, c.joined = true ∧ c.go = false ∧ c.closed = false ∧ c.begun + 100 * s.fld .hubPltctl F.hubPltctl_JTMO ≤ s.time) ∧
    (let s := timed (collBase (noticeOf 1 0) [collOf true true false]) (100 * base.fld .hubPltctl F.hubPltctl_CTMO)
     ∃ c ∈ s.coll 5 1 0, c.go = true ∧ c.closed = false ∧ c.goAt + 100 * s.fld .hubPltctl F.hubPltctl_CTMO ≤ s.time ∧ s.opSealed c.op = false) ∧
    (let s := collBase sumOf []
     let u := (after (exec (.pktSum 0 none) s)).getD base
     u.plt.slots.length = 1 ∧ ∀ r ∈ u.plt.slots, r.last + 100 * u.fld .hubPltctl F.hubPltctl_SLOTTMO ≤ (timed u (100 * u.fld .hubPltctl F.hubPltctl_SLOTTMO)).time) ∧
    (let s := collBase (noticeOf 1 0) [{ collOf true true false with up := true }]
     s.notices ≠ [] ∧ ∀ q ∈ s.notices, q.2.1 + 5000 ≤ (timed s 5000).time ∧ s.time < q.2.1 + 5000) := by decide

/-! ## Jobs, generations and self-tests -/

/-- A peloton descriptor of handle 5 with one share at module 0, and a generation list of one entry, in the data window. -/
def jobBase (l : List (Reg × Word)) (state : Word) : State :=
  withCells (mk (l ++ [(.coreSqstat 0, state)]) Ctx.reset)
    (cellsAt 0x40000000 (toBytes 8 0x10005) ++ cellsAt 0x40000041 (toBytes 1 0x80) ++
      cellsAt 0x40002000 (toBytes 8 (Reg.fsctl 0 0).offset ++ toBytes 8 1))

theorem witness_PelotonsOpenAndGenerationsTakeEffect_pelotons :
    (let s := jobBase [] 0
     s.phase = 3 ∧ s.openHandle 5 = false ∧ s.plt.pelotons.length < 1024 ∧ (withRegs []).phase ≠ 3 ∧
     (match (s.readPlt 0x40000000).2 with | .ok q => (s.readPlt 0x40000000).1.badPlt (s.reg .spkmBlk) q.1 5 == false | .error _ => false) = true ∧
     (match (s.readPlt 0x40000000).2 with | .ok q => (s.readPlt 0x40000000).1.badPlt (s.reg .spkmBlk) q.1 6 | .error _ => false) = true ∧
     (match (s.readPlt 0xC0000000000).2 with | .ok _ => 0 | .error n => n) = 3) ∧
    (withPeloton base).openHandle 5 = true ∧ (withPeloton base).handleUsed 5 = false ∧ fusedBase.handleUsed 5 = true := by decide

theorem witness_PelotonsOpenAndGenerationsTakeEffect_generations :
    (let s := jobBase [(.hubGenlist, putBits 0 F.hubGenlist_ADDR (0x40002000 / 64)), (.hubGenlen, putBits 0 F.hubGenlen_COUNT 1)] 0
     s.resident = false ∧ s.flag .hubGenstat F.hubGenstat_PEND = false ∧ s.draining = false ∧ s.fld .hubGenlen F.hubGenlen_COUNT = 1 ∧
     s.fld .hubGenlist F.hubGenlist_ADDR * 64 < 2 ^ 41 ∧ (s.place .driver (s.fld .hubGenlist F.hubGenlist_ADDR * 64)).isSome = true ∧
     (s.place .driver (s.fld .hubGenlist F.hubGenlist_ADDR * 64 + 15)).isSome = true ∧ (2 : BitVec 32).toNat ≠ s.live ∧
     (2 : BitVec 32).toNat ≠ (s.live + 1) % 2 ^ 32 ∧ (1 : BitVec 32).toNat = (s.live + 1) % 2 ^ 32 ∧ s.gen.next = [] ∧
     s.flawed 0x40002000 16 = [] ∧ s.stageList 0x40002000 1 = some [((Reg.fsctl 0 0).offset, 1)] ∧ (Reg.fsctl 0 0).atomic = true ∧
     s.stageList 0x40003000 1 = none ∧ s.gen.staged = none ∧ s.gen.opening = [] ∧ s.gen.closing = []) ∧
    (let s := jobBase [] 1
     s.resident = true ∧ (0 + 2 ^ 32 - s.stepNow) % 2 ^ 32 = 0) ∧
    (let s := jobBase [(.hubGenlen, putBits 0 F.hubGenlen_COUNT 65537)] 0
     65536 < s.fld .hubGenlen F.hubGenlen_COUNT) ∧
    (let s := jobBase [(.hubGenstat, putBits 0 F.hubGenstat_DRAIN 1)] 0
     let u := timed s (100 * (s.fld .hubGenlimit F.hubGenlimit_LIMIT + 1))
     s.draining = true ∧ s.oldItems = 0 ∧ u.fld .hubGenlimit F.hubGenlimit_LIMIT < u.usSince u.gen.drainSince ∧
     u.gen.told = false) := by decide

/-- A list of one entry that closes handle 5. -/
theorem witness_PelotonsOpenAndGenerationsTakeEffect_staged :
    let v := putBits (putBits 0 F.hubPltcmd_CMD 2) F.hubPltcmd_HANDLE 5
    let s := withCells (withPeloton base) (cellsAt 0x40002000 (toBytes 8 Reg.hubPltcmd.offset ++ toBytes 8 v.toNat))
    s.flawed 0x40002000 16 = [] ∧ s.stageList 0x40002000 1 = some [(Reg.hubPltcmd.offset, v)] ∧ Reg.ofOffset Reg.hubPltcmd.offset = some .hubPltcmd ∧
    getBits v F.hubPltcmd_CMD = 2 ∧ getBits v F.hubPltcmd_HANDLE = 5 ∧ s.openHandle 5 = true ∧ s.gen.opening = [] ∧ s.gen.closing = [] ∧
    s.resident = true := by decide

/-- A plan of context 0 whose steps begin with step 1 and whose micro-batches come from a ring of four slots. -/
def planOf : Plan :=
  { addr := 0, nanpol := 0, mbatch := 1, job := 7, first := 1, nsteps := 10, baseseed := 0, inwait := 1, inbase := 0, inslots := 4, inper := 1,
    inslotsz := 64, rptbase := 0, rptcount := 1, hbase := 0, ctxs := [⟨x0, 2, 0x2000⟩], regs := [], plts := [], recompute := [], health := [],
    seeds := [], frozen := [], clips := [] }

/-- The step service in a state with that plan, its next step 1. -/
def planBase (st : Nat) (active : Bool) (state : Word) : State :=
  let s := mk [(.hubSvcstat, putBits 0 F.hubSvcstat_STATE st), (.coreSqstat 0, state)] Ctx.reset
  { s with svc := { s.svc with plan := some planOf, next := 1, active := active } }

theorem witness_JobsMoveRewindAndChangeMode :
    (let f (n : Option Nat) : State := { base with plt := { base.plt with snap := some ⟨false, 1, [], n, 0, none⟩ } }
     base.plt.snap = none ∧ (f none).snapPending = false ∧ (f none).plt.snap ≠ none ∧ (f (some 2)).plt.snap ≠ none ∧ updBase.stores = [] ∧
     ({ f none with fab := { base.fab with reqs := [⟨5, 47, .snapshot 0, x0, 1, 1, 0, 0, 0, 0, 0, 0, 1, 0⟩] } } : State).snapPending = true) ∧
    (let s := withCells (planBase 2 false 0) (cellsAt 0 (toBytes 4 0x50534E53) ++ cellsAt 8 (toBytes 4 1) ++ cellsAt 40 (toBytes 1 1))
     s.slotOf 1 = some false ∧ s.jobRuns = true ∧ s.slotOf 2 = none ∧ base.jobRuns = false ∧ s.fld .hubSvcstat F.hubSvcstat_STATE = 2 ∧
     s.svc.active = false ∧ s.openOps = [] ∧ s.plt.colls = []) ∧
    (let s := powBase 0 [(.coreCstat 128, 0x8F)] id
     s.tandem = false ∧ s.resident = false ∧ s.dieUsable 1 = true ∧ s.dramSize 0 ≤ s.dramSize 1) ∧ base.resident = true ∧
    ((ctxsOf 0).any fun x => (base.ctx x).run.isSome) = false ∧ ((ctxsOf 0).any fun x => (tileRuns.ctx x).run.isSome) = true ∧
    base.svc.late2.contains 0 = false ∧ (base.ctx x0).run = none ∧ base.isMoved x0 = false ∧ base.ctxState x0 = 1 := by decide

theorem witness_JobsMoveRewindAndChangeMode_handover :
    let m : Moved := ⟨x0, none, [], 0, 0⟩
    let s : State := { mk [(.coreCstat 1, 0x8F)] Ctx.reset with moved := [m] }
    (s.moved.filter fun m => m.dest.isNone)[0]? = some m ∧ (s.siblingFor m).isSome = true ∧
    (({ base with moved := [m] } : State).siblingFor m).isNone = true := by decide

theorem witness_JobsMoveRewindAndChangeMode_late :
    let s := mk ((List.finRange 16).map fun j => (.coreCstat (coreOf 0 j), 0x8F)) Ctx.reset
    let u : State := { s with svc := { s.svc with late2 := [0] } }
    u.svc.late2.contains 0 = true ∧ (ctxsOf 0).all (fun x => (u.ctx x).run.isNone) = true ∧
    8 ≤ ((List.finRange 16).filter fun j => u.flag (.coreCstat (coreOf (clusterOf 0) j)) F.coreCstat_USABLE &&
      (ctxsOf (coreOf (clusterOf 0) j)).all fun x => u.ctxState x == 0 || u.ctxState x == 4).length ∧ u.ctxState x0 = 1 ∧ u.isMoved x0 = false := by decide

/-- A test of core 0's engines in a state, with a capture. -/
def testBase (st : Nat) (sq : Word) : State :=
  let s := mk [(.coreSqstat 0, sq)] Ctx.reset
  { s with int := { s.int with tests := [{ unit := (unitId 1 0 0).toNat, state := st, cause := 1, cap := some 0, since := 0, late := false }] } }

theorem witness_SuspectsAreTestedAndFenced :
    (let u := unitId 1 0 0
     base.testOf u = none ∧ base.testFor u = none ∧ unitOk u = true ∧ base.isFenced u = false ∧ unitOk 0 = false ∧ endsStep 1 = false ∧
     base.int.spots = [] ∧ unitCore u = some 0 ∧ (∀ n : Fin 4, (base.ctx ⟨0, n⟩).owed = 0) ∧
     (∀ q ∈ (testBase 1 0).testOf u, q.state = 1 ∧ q.late = false ∧ q.cap.isSome = true) ∧ ((testBase 1 0).testOf u).isSome = true ∧
     (testBase 1 0).suspectIdle u = true ∧ (∀ q ∈ (testBase 5 0).testOf u, q.state = 5 ∧ q.since + 5000000 < (timed (testBase 5 0) 5000001).time)) ∧
    (∀ q ∈ (testBase 3 0).testOf (unitId 1 0 0), q.state = 3) ∧ (∀ q ∈ (testBase 4 0).testOf (unitId 1 0 0), q.state = 4) ∧
    (∀ q ∈ (testBase 7 0).testOf (unitId 1 0 0), q.state = 7) ∧
    (let s := mk [(.intIfctl, putBits 0 F.intIfctl_EN 1)] Ctx.reset
     s.ifDue 0 1 = true ∧ s.ifDue 0 2 = true ∧ s.clusterInTest 0 = false ∧ s.flag (.coreCstat 0) F.coreCstat_USABLE = true ∧ s.pstate 0 = 0 ∧
     s.int.inField.contains 0 = false ∧ s.events.length < 4096 ∧ ((ctxsOf 0).any fun x => (s.ctx x).run.isSome) = false) ∧
    base.ifDue 0 1 = false := by decide

/-- A tile waits for its spot check. -/
theorem witness_SuspectsAreTestedAndFenced_spot : ∀ t ∈ (tileRuns.ctx x0).run,
    ({ base with int := { base.int with spots := [⟨x0, 0, 0, t, 0, 1⟩] } } : State).int.spots[0]? = some ⟨x0, 0, 0, t, 0, 1⟩ := by
  intro t _; rfl

/-! ## The host interface and the step service -/

/-- An entry of an issue window. -/
def entryOf (opc : Nat) (w0 w1 w2 w3 : Word) : IEntry := ⟨BitVec.ofNat 64 opc ||| w0, w1, w2, w3, 0, 0, 0⟩

/-- A module whose host serves, may be mastered and has window 3 enabled; the window runs a round of one entry. -/
def hostBase (s : State) (priv : Priv) (l : List IEntry) : State :=
  let s := s.setReg (.pciIwcfg 3) (putBits 0 F.pciIwcfg_EN 1)
  let rounds : List Round := if l = [] then [] else [⟨1, 0, priv, 0, l⟩]
  { s with host := { s.host with up := true, master := true, wins := [(3, ⟨[], 0, rounds⟩)], nextRound := 1 } }

theorem witness_IssueEntriesRun_windows :
    (let s := hostBase base .driver []
     s.stores = [] ∧ s.hostServes = true ∧ base.hostServes = false ∧ s.flag (.pciIwstat 3) F.pciIwstat_BUSY = false ∧ (s.window 3).written ≠ 0xFF ∧
     0 + (toBytes 8 1).length ≤ 0xFF8 ∧ getBits (0x640001 : Word) (0, 16) = (s.fld (.pciIwstat 3) F.pciIwstat_ACCSEQ + 1) % 65536 ∧
     getBits (0x640001 : Word) (16, 7) ≠ 0 ∧ getBits (0x640001 : Word) (23, 41) = 0 ∧ s.flag (.pciIwcfg 3) F.pciIwcfg_EN = true ∧
     getBits (0x640000 : Word) (0, 16) ≠ (s.fld (.pciIwstat 3) F.pciIwstat_ACCSEQ + 1) % 65536 ∧ s.nextEntry 3 = none ∧ (s.window 3).rounds = []) ∧
    ((hostBase base .driver []).setReg (.pciIwstat 3) (putBits 0 F.pciIwstat_BUSY 1)).flag (.pciIwstat 3) F.pciIwstat_BUSY = true := by decide

/-- The next entry of window 3 is the one given. -/
theorem witness_IssueEntriesRun_entries (e : IEntry)
    (h : e ∈ [entryOf 1 0 0 0 0, entryOf 1 0x800 0 0 0, entryOf 2 0 0x1000 0x40000000 8, entryOf 2 0 0x1000 0x40000000 0, entryOf 2 0 0 (2 ^ 63) 8,
      entryOf 3 0 0x1000 0x40000000 8, entryOf 4 0 4 0 0, entryOf 4 0 (2 ^ 30) 0 0, entryOf 4 0 0x4000000 0 0,
      entryOf 5 0 (BitVec.ofNat 64 cleat0) 1 0, entryOf 5 0 0x40000000 1 0, entryOf 6 0 0x400 0 0, entryOf 6 0 0x2000 0 0, entryOf 0x16 0 1 0 0]) :
    ((hostBase base .driver [e]).nextEntry 3).isSome = true ∧ (e.formed = false ↔ e = entryOf 1 0x800 0 0 0) := by
  simp only [List.mem_cons, List.not_mem_nil, or_false] at h
  rcases h with rfl | rfl | rfl | rfl | rfl | rfl | rfl | rfl | rfl | rfl | rfl | rfl | rfl | rfl <;> decide

theorem witness_IssueEntriesRun_targets :
    let s := hostBase base .driver [entryOf 2 0 0x1000 0x40000000 8]
    s.canMaster = true ∧ base.canMaster = false ∧ s.copyTarget 0x40000000 8 = some (none, 0x40000000) ∧ s.copyTarget (2 ^ 63) 8 = none ∧
    s.target (BitVec.ofNat 64 cleat0) = some (.here cleat0) ∧ (cleatAt (lowAddr (BitVec.ofNat 64 cleat0))).isNone = false ∧
    (cleatAt (lowAddr 0x40000000)).isNone = true ∧ s.homeTarget (.here cleat0) = .here cleat0 ∧ s.inRing 0x40000000 8 = false ∧
    s.flawed 0x40000000 8 = [] ∧ s.tandem = false ∧ s.hostCut 0x40000000 = false ∧ (base2 []).target (BitVec.ofNat 64 (2 ^ 62 + 2 ^ 48 + cleat0)) = some (.remote 1 cleat0) := by decide

/-- A copy that has run, and one that a plan's ring admits. -/
theorem witness_IssueEntriesRun_copies :
    let e : IEntry := { entryOf 2 0 0x1000 0x40000000 8 with phase := 1 }
    let s := hostBase base .driver [e]
    let d : IEntry := { e with phase := 2 }
    let u := hostBase base .driver [d]
    (s.window 3).rounds.length = 1 ∧ s.copyPending 3 0 0 = false ∧ e.status = 0 ∧ (toBytes 8 1).length = getBits e.w3 (0, 32) ∧
    ((u.window 3).rounds.all fun q => q.entries.all fun e => e.phase == 2) = true ∧
    (let p := hostBase (planBase 2 false 0) .job [entryOf 0x16 0 1 0 0]
     p.svc.plan = some planOf ∧ 1 * planOf.inper + 0 < planOf.inslots ∧ p.inRing 0 64 = true) ∧
    (let n := 5 * planOf.inper + 0
     planOf.inslots ≤ n ∧ planOf.first ≤ (n - planOf.inslots) / planOf.inper ∧ (planBase 2 false 0).stepDone ((n - planOf.inslots) / planOf.inper) = false) := by
  decide

/-- A plan without contexts at 0x40010000, and an unreadable header behind it. -/
def planImage : List Byte := List.flatten
  [toBytes 4 0x4E414C50, toBytes 2 1, [0, 1], toBytes 8 7, toBytes 4 1, toBytes 4 10, toBytes 8 0, List.replicate 16 0, List.replicate 128 0,
   toBytes 8 0x40020000, toBytes 4 1, toBytes 4 1, toBytes 8 4096, toBytes 8 0, toBytes 4 2]

/-- Window 3's round has one entry of the step service in a state of it. -/
def svcBase (st : Nat) (active : Bool) (e : IEntry) : State :=
  withCells (hostBase (planBase st active 0) .driver [e]) (cellsAt 0x40010000 planImage)

theorem witness_StepServiceRuns_plan :
    let s := svcBase 0 false (entryOf 0x10 0 0x40010000 0 0)
    s.stores = [] ∧ s.svcState = 0 ∧ (s.nextEntry 3).isSome = true ∧ s.inDram 0x40010000 256 = true ∧ s.inDram 0xC0000000000 256 = false ∧
    (match (s.readPlan 0x40010000).2 with
     | .ok p => p.first == 1 && ((s.readPlan 0x40010000).1.planApply p).2
     | .error _ => false) = true ∧
    (match (s.readPlan 0x40011000).2 with | .ok _ => 0 | .error n => n) = 1 := by decide

/-- A plan that names a context without an image is refused. -/
theorem witness_StepServiceRuns_refused : ((svcBase 0 false (entryOf 0x10 0 0x40010000 0 0)).planApply planOf).2 = false := by decide

theorem witness_StepServiceRuns_commands :
    (svcBase 1 false (entryOf 0x11 0 0 0 0)).svcState = 1 ∧ (svcBase 2 true (entryOf 0x12 0 0 0 0)).svc.active = true ∧
    getBits (entryOf 0x12 (2 ^ 32) 0 0 0).w0 (32, 1) = 1 ∧ (entryOf 0x12 (2 ^ 32) 0 0 0).formed = true ∧
    (svcBase 3 false (entryOf 0x13 0 0 0 0)).svc.abandoned = false ∧ (svcBase 3 false (entryOf 0x14 0 1 0 0)).slotOf 1 = none ∧
    (svcBase 3 false (entryOf 0x15 0 0 0 0)).svcState ≠ 0 ∧ ((svcBase 3 false (entryOf 0x14 0 1 0 0)).nextEntry 3).isSome = true ∧
    base.svc.plan = none := by decide

theorem witness_StepServiceRuns_steps :
    (let s := timed (planBase 2 false 0) 100
     s.svcState = 2 ∧ s.svc.active = false ∧ s.svc.late = false ∧ s.inputsReady planOf = false ∧ planOf.inwait ≤ s.usSince s.svc.ended ∧
     s.stepReady planOf = false) ∧
    (let s := hostBase (planBase 2 false 0) .driver []
     let u : State := { s.setFld .clkBrstat F.clkBrstat_TBSYNC 1 with svc := { s.svc with posted := [(1, 0)] } }
     u.stepReady planOf = true ∧ u.svc.ran = false ∧ u.svc.due = [] ∧ u.svc.undo = []) ∧
    (let s := planBase 2 true 0
     s.svc.active = true ∧ s.svcState = 2 ∧ (∀ c ∈ planOf.ctxs, s.ctxState c.x = 0) ∧ s.plt.snap = none) ∧
    (let s := planBase 2 true 1
     ∃ c ∈ planOf.ctxs, s.ctxState c.x ≠ 0 ∧ s.ctxState c.x ≠ 4) ∧
    (let s := planBase 2 true 4
     let u := s.setCtx x0 { s.ctx x0 with why := 1 }
     u.ctxState x0 = 4 ∧ (u.ctx x0).why = 1) := by decide

/-- A step whose dies' results differed. -/
theorem witness_StepServiceRuns_held :
    let s := hostBase (planBase 2 false 0) .driver []
    let u : State := { s.setFld .clkBrstat F.clkBrstat_TBSYNC 1 with svc := { s.svc with posted := [(1, 0)], ran := true } }
    let q := u.setFld .hubModstat F.hubModstat_MODE 1
    let v := { q with int := { q.int with digest := 1 } }
    let h := v.boundaryWork planOf [] [] false
    v.stepReady planOf = true ∧ v.svc.ran = true ∧ h.tandem = true ∧ h.reg .intTddig0 ≠ h.reg .intTddig1 := by decide

/-- The endpoint serves, an aperture is open, and the side-band has its address. -/
def endBase (s : State) : State :=
  let s := hostBase s .driver []
  { s with fw := { s.fw with i3c := some 9 }, pins := { s.pins with perst := true } }

theorem witness_EndpointAndSideBandAnswer :
    let s := endBase base
    s.stores = [] ∧ s.hostServes = true ∧ (match s.bar0Place 0x3F03008 with | .window w o => w == 3 && o == 8 | _ => false) = true ∧
    (match s.bar0Place 8 with | .control o => o == 0x4000008 | _ => false) = true ∧ ctlShape 8 8 = true ∧ ctlShape 8 3 = false ∧
    (match (s.setReg (.pciAper 0) 0).bar0Place 0x100000 with | .closed => true | _ => false) = true ∧
    ctlOff (s.bar2Addr 0) = none ∧ s.spanExists .driver (s.bar2Addr 0) 8 = true ∧ s.phase ≠ 4 ∧ s.flawed (s.bar2Addr 0) 8 = [] ∧
    s.hostCut (s.bar2Addr 0) = false ∧ (s.setFld .hubBrgcnt F.hubBrgcnt_DOWN 1).hostCut (2 ^ 40) = true ∧
    s.pow.off = false ∧ s.pow.inReset = false ∧ s.pins.perst = true ∧ s.host.up = true ∧ s.copiesInFlight = [] ∧ s.host.d3hot = false ∧
    s.sbServes = true ∧ base.fw.i3c = none ∧ s.sbReady = true ∧ base.sbReady = false ∧ State.reset.sbServes = false ∧
    (endBase (mk [(.clkBrstat, brstat 4 [])] Ctx.reset)).sbReady = true ∧ (endBase (mk [(.clkBrstat, brstat 4 [])] Ctx.reset)).phase = 4 ∧
    s.flash.atCursor 0 = none ∧ ((odoBase 0).flash.atCursor 0).isSome = true ∧ (s.sbDelivery []).isNone = true ∧ (s.sbDelivery [6, 0, 0, 0, 0, 0, 0, 0]).isSome = true ∧
    s.flag .clkBrstat F.clkBrstat_KEYOK = false ∧
    (endBase (mk [(.clkBrstat, brstat 3 [F.clkBrstat_KEYOK])] Ctx.reset)).flag .clkBrstat F.clkBrstat_KEYOK = true ∧
    ({ s with host := { s.host with d3hot := true } } : State).host.d3hot = true := by decide

/-! ## Firmware -/

/-- The delivery record in a state, into slot B, of a manifest of one piece; the boot entry a trial or not. -/
def fwBase (dstate : Nat) (present : List Nat) (trial : Bool) (l : List (Reg × Word)) : State :=
  let s := mk l Ctx.reset
  let m := List.replicate 8 0 ++ toBytes 4 1
  { s with flash := { s.flash with delivery := ⟨dstate, true, [], m, present⟩, boot := some ⟨1, false, trial, 0, 0⟩, slotA := ⟨m, [], true⟩ } }

theorem witness_FirmwareIsDeliveredAndActivated_commands :
    (withRegs []).fwServes = false ∧ base.fwServes = true ∧ Priv.driver ≠ .job ∧ base.flag .hubFwstat F.hubFwstat_BUSY = false ∧
    (mk [(.hubFwstat, putBits 0 F.hubFwstat_BUSY 1)] Ctx.reset).flag .hubFwstat F.hubFwstat_BUSY = true ∧
    ((fwBase 0 [] false []).readManifest 0xC0000000000).2.isNone = true ∧ ((fwBase 0 [] false []).readManifest 0x40000000).2.isSome = true ∧
    (fwBase 0 [] false []).flash.delivery.dstate = 0 ∧ (fwBase 2 [] false []).flash.delivery.dstate = 2 ∧
    (fwBase 3 [] false []).flash.delivery.dstate = 3 ∧ (fwBase 3 [] true []).bootNow.trial = true ∧ (fwBase 3 [] false []).bootNow.trial = false ∧
    (fwBase 1 [] true []).fwSlot (fwBase 1 [] true []).bootNow.active ≠ ⟨[], [], true⟩ ∧ (fwBase 3 [] false []).resident = true := by decide

theorem witness_FirmwareIsDeliveredAndActivated_later :
    (let s := fwBase 1 [] false []
     let u : State := { s with fw := { s.fw with piece := [(0, [])], takeover := some 0, oldBoot := some ⟨1, false, false, 0, 0⟩ } }
     u.stores = [] ∧ u.fw.piece = [(0, [])] ∧ u.flash.delivery.dstate = 1 ∧ u.pow.off = false ∧ u.fw.takeover = some 0 ∧ s.fw.piece = [] ∧
     s.fw.takeover = none ∧ mPieces u.flash.delivery.manifest ≤ [0].length) ∧
    (let s := fwBase 0 [] true [(.hubFwctl, putBits 0 F.hubFwctl_AUTOCONF 1)]
     let u := timed { s with fw := { s.fw with since := some 0 } } 60000000000
     u.flag .hubFwctl F.hubFwctl_AUTOCONF = true ∧ u.bootNow.trial = true ∧ u.fw.runSlot = u.bootNow.active ∧ u.phase = 3 ∧ u.fw.watchdog = false ∧
     u.sinceFor u.fw.since 60000000000 = true ∧ (u.fwSlot u.bootNow.active).manifest ≠ []) := by decide

theorem witness_RimCodeCorrectsOneSymbol : (1 : BitVec 8) ≠ 0 := by decide

end Sys2Proof.Tests
end

section
/-!
The zero register, the true predicate, and the record of a later fault (R127, R158).
-/

namespace Sys2Proof.Machine

/-! ## s0 and p0 (R127) -/

@[simp] theorem State.sreg_zero (s : State) (x : CtxId) : s.sreg x 0 = 0 := if_pos rfl

@[simp] theorem State.pred_zero (s : State) (x : CtxId) : s.pred x 0 = true := if_pos rfl

@[simp] theorem State.setSreg_zero (s : State) (x : CtxId) (v : Word) : s.setSreg x 0 v = s := if_pos rfl

@[simp] theorem State.setPred_zero (s : State) (x : CtxId) (v : Bool) : s.setPred x 0 v = s := if_pos rfl

/-- Moving on writes no scalar register: it is a write to s0. -/
theorem State.advance_wrote_zero (s : State) (i : Ins) : s.WroteReg (s.advance i) i.x (i.iaddr + 8 * i.words) 0 0 := by
  have h := s.setSreg_wrote i 0 0
  rwa [State.setSreg_zero] at h

/-- A one-word instruction that issues and whose effect is to move on writes no scalar register. -/
theorem execIns_advances {s : State} {a : At} {op : Nat} {tag : OpTag} {bad : Bool} {body : Ins → State → State} (h : s.Issues a op)
    (hw : opWords op = 1) (hb : bad = false)
    (hbody : body (s.ins (issuer a) op 1 tag) s = s.advance (s.ins (issuer a) op 1 tag)) :
    ∃ t, execIns a op 1 tag bad body s = .next t ∧ s.WroteReg t (issuer a) (s.pc (issuer a) + 8) 0 0 := by
  have hadv := s.advance_wrote_zero (s.ins (issuer a) op 1 tag)
  have hset : s.settle (s.advance (s.ins (issuer a) op 1 tag)) = s.advance (s.ins (issuer a) op 1 tag) :=
    State.OnlyCtx.settle hadv.only h.idle
  exact ⟨_, by rw [execIns_body h hw.symm hb, hbody, hset], hadv⟩

theorem execToReg_zero {s : State} {a : At} {op : Nat} {v : Ins → State → Word} (h : s.Issues a op) (hw : opWords op = 1) :
    ∃ t, execToReg a op false 0 v s = .next t ∧ s.WroteReg t (issuer a) (s.pc (issuer a) + 8) 0 0 :=
  execIns_advances h hw rfl (by rw [State.setSreg_zero])

theorem execToPred_zero {s : State} {a : At} {op : Nat} {v : Ins → State → Bool} (h : s.Issues a op) (hw : opWords op = 1) :
    ∃ t, execToPred a op false 0 v s = .next t ∧ s.WroteReg t (issuer a) (s.pc (issuer a) + 8) 0 0 :=
  execIns_advances h hw rfl (by rw [show predOf 0 = 0 from rfl, State.setPred_zero])

/-- Settles O17: writes to s0 and p0 leave the state as it is, so li to s0 and cmp.eq to p0 only move on. -/
theorem zeroRegisterAndTruePredicate : Obligations.ZeroRegisterAndTruePredicate :=
  ⟨fun s x => ⟨s.sreg_zero x, s.pred_zero x⟩,
   fun s x v b => ⟨s.setSreg_zero x v, s.setPred_zero x b⟩,
   fun _ _ _ h => execToReg_zero h rfl,
   fun _ _ _ _ h => execToPred_zero h rfl⟩

/-! ## The fields of CTXn_FLT0's value (R160) -/

section
variable (f : Flt) (op : Nat) (tag : OpTag) (layer : BitVec 16) (mbatch : BitVec 8) (async lost : Bool)

theorem b2n_lt_two (b : Bool) : b2n b < 2 := by cases b <;> decide

theorem flt0Value_code : flt0Value f op tag layer mbatch async lost % 16 = f.code % 16 := by
  unfold flt0Value
  omega

/-- What stands in CTXn_FLT0 below LOST. -/
theorem flt0Value_split :
    ∃ low < 2 ^ 62, flt0Value f op tag layer mbatch async lost = low + b2n lost * 2 ^ 62 + 2 ^ 63 := by
  have htag := tag.isLt
  have hlayer := layer.isLt
  have hmbatch := mbatch.isLt
  have hasync := b2n_lt_two async
  exact ⟨_, by omega, rfl⟩

theorem flt0Value_lost : flt0Value f op tag layer mbatch async lost / 2 ^ 62 % 2 = b2n lost := by
  obtain ⟨low, hlow, heq⟩ := flt0Value_split f op tag layer mbatch async lost
  have hlost := b2n_lt_two lost
  omega

theorem flt0Value_valid : flt0Value f op tag layer mbatch async lost / 2 ^ 63 % 2 = 1 := by
  obtain ⟨low, hlow, heq⟩ := flt0Value_split f op tag layer mbatch async lost
  have hlost := b2n_lt_two lost
  omega

end

/-! ## The record that a halt at a fault leaves (R156, R158) -/

section
variable (s : State) (x : CtxId) (f : Flt) (op : Nat) (tag : OpTag) (layer : BitVec 16) (mbatch : BitVec 8) (iaddr : Nat) (async : Bool)

/-- What follows the record of a fault writes the state number, the cluster's count and the registers of events and traces alone. -/
theorem State.haltFault_reg {r : Reg} (hbook : bookReg r = false) (huerr : r ≠ .cluUerr (clusterOf x.core))
    (hstat : r ≠ .coreSqstat x.core) : (s.haltFault x f op tag layer mbatch iaddr async).reg r =
      (s.faultRecord x f op tag layer mbatch iaddr async).reg r :=
  ((s.haltFault_booked x f op tag layer mbatch iaddr async).regs r hbook).trans
    (s.halted_reg x f op tag layer mbatch iaddr async huerr hstat)

/-- A field of CTXn_FLT0 that none of its reserved bits [60:56] lies in, after a halt at a fault. -/
theorem State.haltFault_flt0_fld {g : Nat × Nat} (hg : g.1 + g.2 ≤ 56 ∨ 61 ≤ g.1) (hlen : g.1 + g.2 ≤ 64) :
    (s.haltFault x f op tag layer mbatch iaddr async).fld (.ctxFlt0 x.core x.n) g =
      flt0Value f op tag layer mbatch async (s.flag (.ctxFlt0 x.core x.n) F.ctxFlt0_VALID ||
        s.flag (.ctxFlt0 x.core x.n) F.ctxFlt0_LOST) / 2 ^ g.1 % 2 ^ g.2 := by
  have hmask : ∀ i < 64, i < 56 ∨ 61 ≤ i → (0xE0FFFFFFFFFFFFFF : Word).getLsbD i = true := by decide
  rw [State.fld, State.haltFault_reg s x f op tag layer mbatch iaddr async rfl (by simp) (by simp), State.faultRecord_flt0]
  exact flt0_field _ _ _ _ hlen fun i hi => hmask _ (by omega) (by omega)

theorem State.haltFault_code :
    (s.haltFault x f op tag layer mbatch iaddr async).fld (.ctxFlt0 x.core x.n) F.ctxFlt0_CODE = f.code % 16 := by
  rw [State.haltFault_flt0_fld _ _ _ _ _ _ _ _ _ (by decide) (by decide), Nat.pow_zero, Nat.div_one]
  exact flt0Value_code ..

theorem State.haltFault_valid : (s.haltFault x f op tag layer mbatch iaddr async).flag (.ctxFlt0 x.core x.n) F.ctxFlt0_VALID = true := by
  rw [State.flag, State.haltFault_flt0_fld _ _ _ _ _ _ _ _ _ (by decide) (by decide), beq_iff_eq]
  exact flt0Value_valid ..

/-- A fault that finds a record valid, or one that LOST already marks, leaves LOST set. -/
theorem State.haltFault_lost : (s.haltFault x f op tag layer mbatch iaddr async).flag (.ctxFlt0 x.core x.n) F.ctxFlt0_LOST =
    (s.flag (.ctxFlt0 x.core x.n) F.ctxFlt0_VALID || s.flag (.ctxFlt0 x.core x.n) F.ctxFlt0_LOST) := by
  rw [State.flag, State.haltFault_flt0_fld _ _ _ _ _ _ _ _ _ (by decide) (by decide)]
  generalize (_ || _) = lost
  have h := flt0Value_lost f op tag layer mbatch async lost
  cases lost <;> simpa [b2n] using h

theorem State.haltFault_iaddr :
    (s.haltFault x f op tag layer mbatch iaddr async).fld (.ctxFlt1 x.core x.n) F.ctxFlt1_IADDR = iaddr % 2 ^ 48 := by
  have hmask : ∀ i < 48, (0xFFFFFFFFFFFF : Word).getLsbD (0 + i) = true := by decide
  rw [State.fld, State.haltFault_reg s x f op tag layer mbatch iaddr async rfl (by simp) (by simp), State.faultRecord_flt1,
    getBits_and_mask _ _ _ hmask, getBits_ofNat _ _ (by decide), Nat.pow_zero, Nat.div_one]

theorem State.haltFault_value :
    (s.haltFault x f op tag layer mbatch iaddr async).reg (.ctxFlt2 x.core x.n) = BitVec.ofNat 64 f.value :=
  (s.haltFault_reg x f op tag layer mbatch iaddr async rfl (by simp) (by simp)).trans (s.faultRecord_flt2 ..)

end

/-- A trap that issues is a software fault with its immediate (R139). -/
theorem execTrap_faulted {s : State} {a : At} (imm : Imm) (h : s.Issues a 0x45) :
    ∃ t, execTrap a imm s = .next t ∧ s.FaultedAt t a 0x45 0 8 0 imm.toNat :=
  execIns_faulted (f := .software imm.toNat) h rfl rfl rfl (show 8 < 15 by decide) (show 0 < 16 by decide) (by decide)

/-- Settles O18: a trap's fault is recorded as any other, and the record of a halt at a fault has LOST wherever one was valid before. -/
theorem laterFaultOverwritesTheRecord : Obligations.LaterFaultOverwritesTheRecord := by
  refine ⟨fun s a imm h hvalid => ?_, fun s x f op tag layer mbatch iaddr async hvalid => ?_⟩
  · obtain ⟨t, hexec, hfault⟩ := execTrap_faulted imm h
    exact ⟨t, hexec, hfault, hfault.lost hvalid⟩
  · refine ⟨s.haltFault_code .., s.haltFault_iaddr .., s.haltFault_value .., s.haltFault_valid .., ?_⟩
    rw [State.haltFault_lost, hvalid, Bool.true_or]

end Sys2Proof.Machine
end
